-- ==== Sys2Proof/Word.lean ====
section
/-! DEFINITION. The word types of the CZ-9 model (R2: 32-bit words, little-endian bytes) and the plain shape of sparse data.

Everything the machine holds by number (registers, memory, buffers, tables) is a list of key and value pairs in one
canonical form: keys strictly rising, and no pair whose value is the value an unlisted key reads as. The operations
over it are in `Sys2Proof.Machine.Data`. -/

namespace Sys2Proof

/-- One byte of memory. -/
abbrev Byte := BitVec 8

/-- A lane register, an instruction word (R2, R67). -/
abbrev Word := BitVec 32

/-- A uniform register, a program counter, an address (R67). -/
abbrev DWord := BitVec 64

/-- The 128 bits of a capability without its tag (R88). -/
abbrev CapBits := BitVec 128

/-- Sparse data by number: strictly rising keys, default values not listed. -/
abbrev Sparse (α : Type) := List (Nat × α)

end Sys2Proof
end

