-- ==== Sys2Proof/Syntax.lean ====
section
/-! DEFINITION. The steps of the CZ-9: every row of the opcode table is one constructor of `Instr`.

The first 254 constructors are the instruction words of the lane set and the uniform set (R30 to R37): their arguments
are the fields of the word, without the switch marker S, which is a property of the word and not of the operation (R31;
`markerOf` in Decode). Words without operands stand last among them. The other 74 are the table's events: steps that the device, its firmware, its engines or
the world outside take (R305 and the chapters of the package level). An event has no word; its arguments name what it
acts on, and carry what reaches the device from outside (an image, a packet, a lease). -/

namespace Sys2Proof

/-- A capability register, or 16 bytes of tagged memory: 128 bits and the tag (R88, R90). -/
structure Cap where
  bits : CapBits
  tag  : Bool
  deriving DecidableEq, Repr

/-- The guard of a lane word (R31, R32): the guard predicate's number and whether it is negated. -/
structure Guard where
  neg : Bool
  p   : BitVec 3
  deriving DecidableEq, Repr

/-! ### What reaches the device from outside -/

/-- Resources of a team (R24, R341 bytes 24 to 151). -/
structure TeamDesc where
  strands : Nat
  regs    : Nat
  caps    : Nat
  tiles   : Nat
  accs    : Nat
  compact : Bool
  act     : Nat
  wgt     : Nat
  absence : BitVec 16
  tls     : Nat
  deriving DecidableEq, Repr

/-- The sections of an image (R19). -/
inductive Sect where
  | text | rodata | data
  deriving DecidableEq, Repr

/-- `.kind` with its `.stage` line (R25). `team` is the position of a `.team` declaration. -/
structure KindDecl where
  kind   : Nat
  entry  : Nat
  team   : Nat
  stages : Nat
  chain  : Bool
  deriving DecidableEq, Repr

/-- What a `.cap` request names: a region of a section (R27) or an absolute buffer address (R255). -/
inductive CapTarget where
  | sect  (s : Sect) (off : Nat)
  | space (addr : DWord)
  deriving DecidableEq, Repr

/-- `.cap` (R27, R255): permission bits as in R88, bit 7 for L down to bit 0 for Y. -/
structure CapReq where
  target : CapTarget
  length : Nat
  perms  : BitVec 8
  deriving DecidableEq, Repr

/-- `.gate` (R28): compartment colours, entry offset in `.text`, largest argument and permission mask. -/
structure GateDecl where
  fromC  : BitVec 4
  toC    : BitVec 4
  entry  : Nat
  length : Nat
  perms  : BitVec 8
  deriving DecidableEq, Repr

/-- `.cause` (R28): class 0 process, 1 tenant, 2 kernel; `data` is the position of a `.cap` request. -/
structure CauseDecl where
  code    : BitVec 7
  handler : Nat
  cls     : BitVec 2
  width   : BitVec 6
  timeout : BitVec 16
  data    : Option Nat
  deriving DecidableEq, Repr

/-- One entry of a launch's `caps` list: a `.cap` request or a `.gate` (R26). -/
inductive CapRef where
  | req  (i : Nat)
  | gate (i : Nat)
  deriving DecidableEq, Repr

/-- `.launch` (R26). -/
structure LaunchDecl where
  fx : Nat
  fy : Nat
  fz : Nat
  kinds      : List Nat
  cohort     : Bool
  priority   : Nat
  partition  : Nat
  audit      : Nat
  caps       : List CapRef
  gates      : List Nat
  completion : Nat
  deriving DecidableEq, Repr

/-- One chunk of an image's directory (R340). -/
structure Chunk where
  ctype  : Nat
  offset : Nat
  length : Nat
  deriving DecidableEq, Repr

/-- A value the loader writes once the sections are placed (R21): a `.word` takes the word offset to the target, a
`.dword` its device-virtual address. The target is a section offset plus a constant (R17), and may lie below the section. -/
structure Reloc where
  sect   : Sect
  off    : Nat
  dword  : Bool
  target : Sect
  value  : Int
  deriving DecidableEq, Repr

/-- An image (R340): its header and directory, the bytes of its sections, and what its other chunks declare. The loader reads the
header, the directory and the sections from memory; `sigOk` is what the verification of the signature chunk gives. -/
structure Image where
  magic    : Nat
  format   : Nat
  privileged : Bool
  signed   : Bool
  chunks   : List Chunk
  text     : List Byte
  rodata   : List Byte
  data     : List Byte
  textAlign   : Nat
  rodataAlign : Nat
  dataAlign   : Nat
  relocs   : List Reloc
  teams    : List TeamDesc
  kinds    : List KindDecl
  caps     : List CapReq
  gates    : List GateDecl
  causes   : List CauseDecl
  launches : List LaunchDecl
  sigOk    : Bool
  deriving DecidableEq, Repr

/-- A bind record (R345). -/
structure BindRecord where
  op     : Nat
  die    : Nat
  cluster : Nat
  core   : Nat
  slots  : BitVec 16
  launch : Nat
  x : Word
  y : Word
  z : Word
  stage  : BitVec 4
  kind   : BitVec 2
  tiles  : Nat
  accs   : Nat
  act    : Nat
  wgt    : Nat
  deriving DecidableEq, Repr

/-- Packet types of the fabric (R390). -/
inductive PacketType where
  | load | store | atomic | cas | red | put | get | collective | response | lease | image | admission
  deriving DecidableEq, Repr

/-- A fabric packet (R390), with the numbers by which the issuer knows the access (`serial`) and its thread. -/
structure Packet where
  ptype   : PacketType
  target  : BitVec 9
  source  : BitVec 9
  world   : BitVec 8
  colour  : BitVec 4
  addr    : BitVec 51
  cap     : Cap
  payload : List Byte
  length  : Nat
  tags    : List Bool
  op      : BitVec 16
  serial  : Nat
  launch  : Nat
  x : Word
  y : Word
  z : Word
  rank    : Nat
  pc      : DWord
  word    : Word
  status  : Nat
  deriving DecidableEq, Repr

/-- The unit a targeted self-test examines (R355). -/
inductive TestUnit where
  | core (n : Nat)
  | clusterShared (die cluster : Nat)
  | memory (base size : Nat)
  | link (n : Nat)
  | fatal
  deriving DecidableEq, Repr

/-- Where an uncorrectable error strikes (R278). -/
inductive ErrorSite where
  | line (pa : Nat)
  | act  (tid off : Nat)
  | wgt  (tid off : Nat)
  /-- A 32-bit word of a team's tile, and an element of its accumulator tile. -/
  | tile (tid n word : Nat)
  | acc  (tid n slot : Nat)
  /-- A core's L1 copy of a line, and a team's staged line. -/
  | l1 (core line : Nat)
  | staged (tid line : Nat)
  /-- A symbol of a line of the encrypted tiers that the ECC has corrected, and a counter line that fails its MAC (R322, R323). -/
  | corrected (pa : Nat)
  | counter (page : Nat)
  /-- A unit in which no data lies. -/
  | unit (u : TestUnit)
  deriving DecidableEq, Repr

/-- A lease of the boot leader (R400). -/
structure Lease where
  term      : Nat
  leader    : BitVec 128
  lifetime  : Nat
  recipient : BitVec 16
  deriving DecidableEq, Repr

/-- A roster record as it is written (R396). -/
structure RosterRec where
  group  : DWord
  world  : BitVec 8
  list   : Nat
  members : List (BitVec 9)
  digest : BitVec 256
  deriving DecidableEq, Repr

/-- A debug-unlock token (R335): `sigOk` is what the LMS verification gives. -/
structure DebugToken where
  devid     : BitVec 128
  lifecycle : Nat
  counter   : Nat
  digest    : BitVec 256
  sigOk     : Bool
  deriving DecidableEq, Repr

/-! ### The steps -/

/-- One constructor per row of the opcode table. -/
inductive Instr where
  /-- R107: Lane add modulo 2^32 in each active thread. -/
  | add (g : Guard) (d : BitVec 6) (a : BitVec 6) (b : BitVec 6)
  /-- R107: Lane subtract modulo 2^32. -/
  | sub (g : Guard) (d : BitVec 6) (a : BitVec 6) (b : BitVec 6)
  /-- R107: Lane signed saturating add. -/
  | addSatS32 (g : Guard) (d : BitVec 6) (a : BitVec 6) (b : BitVec 6)
  /-- R107: Lane signed saturating subtract. -/
  | subSatS32 (g : Guard) (d : BitVec 6) (a : BitVec 6) (b : BitVec 6)
  /-- R107: Lane signed minimum. -/
  | minS32 (g : Guard) (d : BitVec 6) (a : BitVec 6) (b : BitVec 6)
  /-- R107: Lane signed maximum. -/
  | maxS32 (g : Guard) (d : BitVec 6) (a : BitVec 6) (b : BitVec 6)
  /-- R107: Lane unsigned minimum. -/
  | minN32 (g : Guard) (d : BitVec 6) (a : BitVec 6) (b : BitVec 6)
  /-- R107: Lane unsigned maximum. -/
  | maxN32 (g : Guard) (d : BitVec 6) (a : BitVec 6) (b : BitVec 6)
  /-- R107: Lane low 32 bits of the product. -/
  | mulLo (g : Guard) (d : BitVec 6) (a : BitVec 6) (b : BitVec 6)
  /-- R107: Lane upper half of the signed product. -/
  | mulHiS32 (g : Guard) (d : BitVec 6) (a : BitVec 6) (b : BitVec 6)
  /-- R107: Lane upper half of the unsigned product. -/
  | mulHiN32 (g : Guard) (d : BitVec 6) (a : BitVec 6) (b : BitVec 6)
  /-- R107: Lane multiply-add into vd modulo 2^32. -/
  | madLo (g : Guard) (d : BitVec 6) (a : BitVec 6) (b : BitVec 6)
  /-- R107: Lane bitwise and. -/
  | and (g : Guard) (d : BitVec 6) (a : BitVec 6) (b : BitVec 6)
  /-- R107: Lane bitwise or. -/
  | or (g : Guard) (d : BitVec 6) (a : BitVec 6) (b : BitVec 6)
  /-- R107: Lane bitwise xor. -/
  | xor (g : Guard) (d : BitVec 6) (a : BitVec 6) (b : BitVec 6)
  /-- R107: Lane and with complement. -/
  | andn (g : Guard) (d : BitVec 6) (a : BitVec 6) (b : BitVec 6)
  /-- R107: Lane shift left by register amount. -/
  | shl (g : Guard) (d : BitVec 6) (a : BitVec 6) (b : BitVec 6)
  /-- R107: Lane logical shift right by register amount. -/
  | shr (g : Guard) (d : BitVec 6) (a : BitVec 6) (b : BitVec 6)
  /-- R107: Lane arithmetic shift right by register amount. -/
  | sar (g : Guard) (d : BitVec 6) (a : BitVec 6) (b : BitVec 6)
  /-- R107: Lane rotate left by register amount. -/
  | rot (g : Guard) (d : BitVec 6) (a : BitVec 6) (b : BitVec 6)
  /-- R108: Lane population count. -/
  | popc (g : Guard) (d : BitVec 6) (a : BitVec 6)
  /-- R108: Lane count of leading zeros. -/
  | clz (g : Guard) (d : BitVec 6) (a : BitVec 6)
  /-- R108: Lane count of trailing zeros. -/
  | ctz (g : Guard) (d : BitVec 6) (a : BitVec 6)
  /-- R108: Lane bit reversal. -/
  | brev (g : Guard) (d : BitVec 6) (a : BitVec 6)
  /-- R109: Lane signed division, long, filing 0x21 on zero divisor unless dz_quiet. -/
  | divS32 (g : Guard) (d : BitVec 6) (a : BitVec 6) (b : BitVec 6)
  /-- R109: Lane unsigned division, long. -/
  | divN32 (g : Guard) (d : BitVec 6) (a : BitVec 6) (b : BitVec 6)
  /-- R109: Lane signed remainder, long. -/
  | remS32 (g : Guard) (d : BitVec 6) (a : BitVec 6) (b : BitVec 6)
  /-- R109: Lane unsigned remainder, long. -/
  | remN32 (g : Guard) (d : BitVec 6) (a : BitVec 6) (b : BitVec 6)
  /-- R110: Lane unsigned bit-field extract. -/
  | bfxN32 (g : Guard) (d : BitVec 6) (a : BitVec 6) (b : BitVec 6)
  /-- R110: Lane signed bit-field extract. -/
  | bfxS32 (g : Guard) (d : BitVec 6) (a : BitVec 6) (b : BitVec 6)
  /-- R110: Lane bit-field insert into vd. -/
  | bfi (g : Guard) (d : BitVec 6) (a : BitVec 6) (b : BitVec 6)
  /-- R110: Lane absolute value modulo 2^32. -/
  | absS32 (g : Guard) (d : BitVec 6) (a : BitVec 6)
  /-- R111: Lane add of sign-extended 8-bit immediate. -/
  | addi (g : Guard) (d : BitVec 6) (a : BitVec 6) (i : BitVec 8)
  /-- R111: Lane and with sign-extended immediate. -/
  | andi (g : Guard) (d : BitVec 6) (a : BitVec 6) (i : BitVec 8)
  /-- R111: Lane or with zero-extended immediate. -/
  | ori (g : Guard) (d : BitVec 6) (a : BitVec 6) (i : BitVec 8)
  /-- R111: Lane xor with zero-extended immediate. -/
  | xori (g : Guard) (d : BitVec 6) (a : BitVec 6) (i : BitVec 8)
  /-- R111: Lane shift left by immediate. -/
  | shlImm (g : Guard) (d : BitVec 6) (a : BitVec 6) (i : BitVec 5)
  /-- R111: Lane logical shift right by immediate. -/
  | shrImm (g : Guard) (d : BitVec 6) (a : BitVec 6) (i : BitVec 5)
  /-- R111: Lane arithmetic shift right by immediate. -/
  | sarImm (g : Guard) (d : BitVec 6) (a : BitVec 6) (i : BitVec 5)
  /-- R111: Lane rotate left by immediate. -/
  | rotImm (g : Guard) (d : BitVec 6) (a : BitVec 6) (i : BitVec 5)
  /-- R113: Lane integer compare writing a predicate. -/
  | icmp (g : Guard) (p : BitVec 3) (c : BitVec 3) (a : BitVec 6) (b : BitVec 6) (t : BitVec 2)
  /-- R113: Lane integer compare with 6-bit immediate. -/
  | icmpi (g : Guard) (p : BitVec 3) (c : BitVec 3) (a : BitVec 6) (i : BitVec 6) (t : BitVec 2)
  /-- R114: Lane register move. -/
  | mov (g : Guard) (d : BitVec 6) (a : BitVec 6)
  /-- R114: Copy the low word of a uniform register into every active lane. -/
  | bcast (g : Guard) (d : BitVec 6) (a : BitVec 6)
  /-- R114: Copy predicates p7..p0 into a lane register. -/
  | movp (g : Guard) (d : BitVec 6)
  /-- R114: Write predicates p1..p7 from a lane register. -/
  | mvp (g : Guard) (a : BitVec 6)
  /-- R115: Predicate and with optional negations. -/
  | pand (g : Guard) (d : BitVec 3) (a : BitVec 3) (b : BitVec 3) (x : BitVec 1) (y : BitVec 1)
  /-- R115: Predicate or. -/
  | por (g : Guard) (d : BitVec 3) (a : BitVec 3) (b : BitVec 3) (x : BitVec 1) (y : BitVec 1)
  /-- R115: Predicate xor. -/
  | pxor (g : Guard) (d : BitVec 3) (a : BitVec 3) (b : BitVec 3) (x : BitVec 1) (y : BitVec 1)
  /-- R115: Predicate and-not. -/
  | pandn (g : Guard) (d : BitVec 3) (a : BitVec 3) (b : BitVec 3) (x : BitVec 1) (y : BitVec 1)
  /-- R116: Load a sign-extended 14-bit immediate into a lane register. -/
  | ldi (g : Guard) (d : BitVec 6) (i : BitVec 14)
  /-- R118: Read a special register into a lane register. -/
  | rdsr (g : Guard) (d : BitVec 6) (r : BitVec 12)
  /-- R119: f32 add rounded by sr.fpcsr.rm. -/
  | faddF32 (g : Guard) (d : BitVec 6) (a : BitVec 6) (b : BitVec 6)
  /-- R119: f32 subtract. -/
  | fsubF32 (g : Guard) (d : BitVec 6) (a : BitVec 6) (b : BitVec 6)
  /-- R119: f32 multiply. -/
  | fmulF32 (g : Guard) (d : BitVec 6) (a : BitVec 6) (b : BitVec 6)
  /-- R119: f32 fused multiply-add into vd. -/
  | ffmaF32 (g : Guard) (d : BitVec 6) (a : BitVec 6) (b : BitVec 6)
  /-- R119: Packed f16 add. -/
  | faddF16x2 (g : Guard) (d : BitVec 6) (a : BitVec 6) (b : BitVec 6)
  /-- R119: Packed f16 subtract. -/
  | fsubF16x2 (g : Guard) (d : BitVec 6) (a : BitVec 6) (b : BitVec 6)
  /-- R119: Packed f16 multiply. -/
  | fmulF16x2 (g : Guard) (d : BitVec 6) (a : BitVec 6) (b : BitVec 6)
  /-- R119: Packed f16 fused multiply-add. -/
  | ffmaF16x2 (g : Guard) (d : BitVec 6) (a : BitVec 6) (b : BitVec 6)
  /-- R119: Packed bf16 add. -/
  | faddBf16x2 (g : Guard) (d : BitVec 6) (a : BitVec 6) (b : BitVec 6)
  /-- R119: Packed bf16 subtract. -/
  | fsubBf16x2 (g : Guard) (d : BitVec 6) (a : BitVec 6) (b : BitVec 6)
  /-- R119: Packed bf16 multiply. -/
  | fmulBf16x2 (g : Guard) (d : BitVec 6) (a : BitVec 6) (b : BitVec 6)
  /-- R119: Packed bf16 fused multiply-add. -/
  | ffmaBf16x2 (g : Guard) (d : BitVec 6) (a : BitVec 6) (b : BitVec 6)
  /-- R120: f32 minimum with NaN rules of R78. -/
  | fminF32 (g : Guard) (d : BitVec 6) (a : BitVec 6) (b : BitVec 6)
  /-- R120: f32 maximum. -/
  | fmaxF32 (g : Guard) (d : BitVec 6) (a : BitVec 6) (b : BitVec 6)
  /-- R120: Clear the sign bit. -/
  | fabsF32 (g : Guard) (d : BitVec 6) (a : BitVec 6)
  /-- R120: Invert the sign bit. -/
  | fnegF32 (g : Guard) (d : BitVec 6) (a : BitVec 6)
  /-- R122: Long f32 reciprocal rounded to nearest. -/
  | frcp (g : Guard) (d : BitVec 6) (a : BitVec 6)
  /-- R122: Long f32 reciprocal square root. -/
  | frsq (g : Guard) (d : BitVec 6) (a : BitVec 6)
  /-- R122: Long f32 square root. -/
  | fsqrt (g : Guard) (d : BitVec 6) (a : BitVec 6)
  /-- R122: Long f32 power of two. -/
  | fexp2 (g : Guard) (d : BitVec 6) (a : BitVec 6)
  /-- R122: Long f32 base-2 logarithm. -/
  | flog2 (g : Guard) (d : BitVec 6) (a : BitVec 6)
  /-- R122: Long f32 sine of half-turns. -/
  | fsin (g : Guard) (d : BitVec 6) (a : BitVec 6)
  /-- R122: Long f32 cosine of half-turns. -/
  | fcos (g : Guard) (d : BitVec 6) (a : BitVec 6)
  /-- R122: Long f32 hyperbolic tangent. -/
  | ftanh (g : Guard) (d : BitVec 6) (a : BitVec 6)
  /-- R124: Round f32 to integral, to nearest even. -/
  | frndRn (g : Guard) (d : BitVec 6) (a : BitVec 6)
  /-- R124: Round f32 to integral toward zero. -/
  | frndRz (g : Guard) (d : BitVec 6) (a : BitVec 6)
  /-- R124: Round f32 to integral toward minus infinity. -/
  | frndRd (g : Guard) (d : BitVec 6) (a : BitVec 6)
  /-- R124: Round f32 to integral toward plus infinity. -/
  | frndRu (g : Guard) (d : BitVec 6) (a : BitVec 6)
  /-- R125: Floating compare writing a predicate. -/
  | fcmp (g : Guard) (p : BitVec 3) (c : BitVec 3) (a : BitVec 6) (b : BitVec 6) (t : BitVec 2)
  /-- R126: Write a one-hot class mask of an f32 value. -/
  | fclass (g : Guard) (d : BitVec 6) (a : BitVec 6)
  /-- R127: Type conversion rounding to nearest. -/
  | cvtRn (g : Guard) (d : BitVec 6) (a : BitVec 6) (t : BitVec 4) (u : BitVec 4)
  /-- R127: Type conversion rounding toward zero. -/
  | cvtRz (g : Guard) (d : BitVec 6) (a : BitVec 6) (t : BitVec 4) (u : BitVec 4)
  /-- R128: Type conversion with stochastic rounding. -/
  | cvtSr (g : Guard) (d : BitVec 6) (a : BitVec 6) (t : BitVec 4) (u : BitVec 4)
  /-- R127: Type conversion with each thread's dynamic mode. -/
  | cvtDyn (g : Guard) (d : BitVec 6) (a : BitVec 6) (t : BitVec 4) (u : BitVec 4)
  /-- R130: Pack four f32 values into one KN4 block image. -/
  | kpack (g : Guard) (d : BitVec 6) (a : BitVec 6) (t : BitVec 2)
  /-- R131: Unpack a KN4 block image into four f32 registers. -/
  | kunpack (g : Guard) (d : BitVec 6) (a : BitVec 6)
  /-- R139: Long lane load through a capability, checked per lane. -/
  | ld (g : Guard) (d : BitVec 6) (c : BitVec 4) (z : BitVec 3) (o : BitVec 7)
  /-- R140: Lane store through a capability, staged in an unexposed interval. -/
  | st (g : Guard) (d : BitVec 6) (c : BitVec 4) (z : BitVec 3) (o : BitVec 7)
  /-- R142: Relaxed atomic load at a scope. -/
  | ldoRlx (g : Guard) (d : BitVec 6) (c : BitVec 4) (z : BitVec 2) (k : BitVec 3)
  /-- R142: Acquire load at a scope. -/
  | ldoAcq (g : Guard) (d : BitVec 6) (c : BitVec 4) (z : BitVec 2) (k : BitVec 3)
  /-- R143: Take a full word and mark it empty, waiting while empty. -/
  | ldoFe (g : Guard) (d : BitVec 6) (c : BitVec 4) (k : BitVec 3)
  /-- R142: Relaxed atomic store at a scope. -/
  | stoRlx (g : Guard) (d : BitVec 6) (c : BitVec 4) (z : BitVec 2) (k : BitVec 3)
  /-- R142: Release store at a scope. -/
  | stoRel (g : Guard) (d : BitVec 6) (c : BitVec 4) (z : BitVec 2) (k : BitVec 3)
  /-- R143: Fill an empty word and mark it full, waiting while full. -/
  | stoFill (g : Guard) (d : BitVec 6) (c : BitVec 4) (k : BitVec 3)
  /-- R292: Returning atomic read-modify-write at dev scope. -/
  | atom (g : Guard) (d : BitVec 6) (c : BitVec 4) (b : BitVec 6) (o : BitVec 4)
  /-- R293: Non-returning reduction into memory. -/
  | red (g : Guard) (k : BitVec 3) (c : BitVec 4) (b : BitVec 6) (o : BitVec 4)
  /-- R294: Compare and swap returning the old value. -/
  | cas (g : Guard) (d : BitVec 6) (c : BitVec 4) (b : BitVec 6) (k : BitVec 3) (z : BitVec 1)
  /-- R219: Quarter matrix multiply-accumulate on E4M3 tiles. -/
  | mmaE4m3 (g : Guard) (c : BitVec 4) (a : BitVec 4) (b : BitVec 4) (k : BitVec 1)
  /-- R219: Quarter matrix multiply-accumulate on E5M2 tiles. -/
  | mmaE5m2 (g : Guard) (c : BitVec 4) (a : BitVec 4) (b : BitVec 4) (k : BitVec 1)
  /-- R219: Quarter matrix multiply-accumulate on BF16 tiles. -/
  | mmaBf16 (g : Guard) (c : BitVec 4) (a : BitVec 4) (b : BitVec 4) (k : BitVec 1)
  /-- R219: Quarter matrix multiply-accumulate on FP16 tiles. -/
  | mmaF16 (g : Guard) (c : BitVec 4) (a : BitVec 4) (b : BitVec 4) (k : BitVec 1)
  /-- R218: Quarter matrix multiply-accumulate on KN4 tiles with register scales. -/
  | mmaKn4 (g : Guard) (c : BitVec 4) (a : BitVec 4) (b : BitVec 4) (v : BitVec 5) (w : BitVec 2) (k : BitVec 1)
  /-- R219: Quarter integer matrix multiply-accumulate on S8 tiles. -/
  | mmaS8 (g : Guard) (c : BitVec 4) (a : BitVec 4) (b : BitVec 4) (k : BitVec 1)
  /-- R224: Stream weight rows from a layout record against vector tiles into an accumulator. -/
  | mvStream (g : Guard) (c : BitVec 4) (v : BitVec 4) (r : BitVec 4) (f : BitVec 3) (m : BitVec 3) (k : BitVec 1)
  /-- R229: Narrow a lane's accumulator elements into registers. -/
  | accmovNarrow (g : Guard) (d : BitVec 6) (c : BitVec 4) (x : BitVec 1) (t : BitVec 4)
  /-- R229: Widen register values into a lane's accumulator elements. -/
  | accmovWiden (g : Guard) (d : BitVec 6) (c : BitVec 4) (t : BitVec 4)
  /-- R231: Zero an accumulator tile. -/
  | accZero (g : Guard) (c : BitVec 4)
  /-- R232: Multiply a lane's accumulator elements by a factor. -/
  | accDecay (g : Guard) (c : BitVec 4) (d : BitVec 6)
  /-- R233: Store a lane's accumulator elements to memory. -/
  | accSpill (g : Guard) (c : BitVec 4) (r : BitVec 4)
  /-- R233: Load a lane's accumulator elements from memory. -/
  | accFill (g : Guard) (c : BitVec 4) (r : BitVec 4)
  /-- R213: Load tile rows per lane. -/
  | tld (g : Guard) (t : BitVec 4) (r : BitVec 4)
  /-- R213: Store tile rows per lane. -/
  | tst (g : Guard) (t : BitVec 4) (r : BitVec 4)
  /-- R214: Zero each active quarter's tile. -/
  | tzero (g : Guard) (t : BitVec 4)
  /-- R215: Transpose a tile into another. -/
  | ttrans (g : Guard) (t : BitVec 4) (u : BitVec 4)
  /-- R148: Cross-lane sum over a fixed tree. -/
  | xredAdd (g : Guard) (d : BitVec 6) (a : BitVec 6) (t : BitVec 3)
  /-- R148: Cross-lane minimum. -/
  | xredMin (g : Guard) (d : BitVec 6) (a : BitVec 6) (t : BitVec 3)
  /-- R148: Cross-lane maximum. -/
  | xredMax (g : Guard) (d : BitVec 6) (a : BitVec 6) (t : BitVec 3)
  /-- R148: Cross-lane bitwise and. -/
  | xredAnd (g : Guard) (d : BitVec 6) (a : BitVec 6)
  /-- R148: Cross-lane bitwise or. -/
  | xredOr (g : Guard) (d : BitVec 6) (a : BitVec 6)
  /-- R148: Cross-lane bitwise xor. -/
  | xredXor (g : Guard) (d : BitVec 6) (a : BitVec 6)
  /-- R149: Cross-lane minimum of value-index pairs. -/
  | xminIdx (g : Guard) (d : BitVec 6) (a : BitVec 6) (t : BitVec 3)
  /-- R149: Cross-lane maximum of value-index pairs. -/
  | xmaxIdx (g : Guard) (d : BitVec 6) (a : BitVec 6) (t : BitVec 3)
  /-- R150: Cross-lane inclusive prefix sum. -/
  | xscanAdd (g : Guard) (d : BitVec 6) (a : BitVec 6) (t : BitVec 3)
  /-- R146: Take a partner's register by slot. -/
  | pickSlot (g : Guard) (d : BitVec 6) (a : BitVec 6) (b : BitVec 6)
  /-- R146: Take a partner's register by rank. -/
  | pickRank (g : Guard) (d : BitVec 6) (a : BitVec 6) (b : BitVec 6)
  /-- R146: Take the register of a lower slot. -/
  | pickBack (g : Guard) (d : BitVec 6) (a : BitVec 6) (b : BitVec 6)
  /-- R146: Take the register of slot XOR mask. -/
  | pickFlip (g : Guard) (d : BitVec 6) (a : BitVec 6) (b : BitVec 6)
  /-- R147: Predicate set if any active thread's predicate is 1. -/
  | pollAny (g : Guard) (d : BitVec 3) (a : BitVec 3)
  /-- R147: Predicate set if every active thread's predicate is 1. -/
  | pollAll (g : Guard) (d : BitVec 3) (a : BitVec 3)
  /-- R147: Ballot mask of active slots with predicate 1. -/
  | pollMask (g : Guard) (d : BitVec 6) (a : BitVec 3)
  /-- R147: Count of active threads with predicate 1. -/
  | pollCount (g : Guard) (d : BitVec 6) (a : BitVec 3)
  /-- R152: Move a capability's address by a register. -/
  | cadv (g : Guard) (d : BitVec 4) (a : BitVec 4) (b : BitVec 6)
  /-- R152: Set a capability's address from a register pair. -/
  | cplace (g : Guard) (d : BitVec 4) (a : BitVec 4) (b : BitVec 6)
  /-- R152: Set a capability's bounds with rounding. -/
  | cclip (g : Guard) (d : BitVec 4) (a : BitVec 4) (b : BitVec 6)
  /-- R152: Set bounds, untagged if rounding moved them. -/
  | cclipExact (g : Guard) (d : BitVec 4) (a : BitVec 4) (b : BitVec 6)
  /-- R152: Reduce a capability's permissions by a mask. -/
  | cstrip (g : Guard) (d : BitVec 4) (a : BitVec 4) (b : BitVec 6)
  /-- R153: Seal a capability with a software type under an authority. -/
  | cwrap (g : Guard) (d : BitVec 4) (a : BitVec 4) (b : BitVec 4)
  /-- R152: Seal as a sealed entry. -/
  | cwrapEntry (g : Guard) (d : BitVec 4) (a : BitVec 4)
  /-- R152: Seal as a compensation capability. -/
  | cwrapComp (g : Guard) (d : BitVec 4) (a : BitVec 4)
  /-- R153: Unseal a software-sealed capability under an authority. -/
  | cunwrap (g : Guard) (d : BitVec 4) (a : BitVec 4) (b : BitVec 4)
  /-- R152: Copy a capability with its tag. -/
  | ccopy (g : Guard) (d : BitVec 4) (a : BitVec 4)
  /-- R152: Copy a capability with the tag cleared. -/
  | cdetag (g : Guard) (d : BitVec 4) (a : BitVec 4)
  /-- R152: Broadcast a uniform capability into every active lane. -/
  | cbcast (g : Guard) (d : BitVec 4) (b : BitVec 4)
  /-- R154: Read a capability's address into a register pair. -/
  | creadAddr (g : Guard) (a : BitVec 4) (b : BitVec 6)
  /-- R154: Read a capability's base. -/
  | creadBase (g : Guard) (a : BitVec 4) (b : BitVec 6)
  /-- R154: Read a capability's length. -/
  | creadLen (g : Guard) (a : BitVec 4) (b : BitVec 6)
  /-- R154: Read a capability's tag, version, seal, colour and permissions. -/
  | creadInfo (g : Guard) (a : BitVec 4) (b : BitVec 6)
  /-- R155: Move a capability's address by a 12-bit immediate. -/
  | cadvImm (g : Guard) (d : BitVec 4) (a : BitVec 4) (i : BitVec 12)
  /-- R176: Handler reads its subject's frozen state. -/
  | sbjRd (g : Guard) (d : BitVec 6) (a : BitVec 6)
  /-- R176: Handler writes its subject's frozen state. -/
  | sbjWr (g : Guard) (d : BitVec 6) (a : BitVec 6)
  /-- R177: Handler loads through the subject's capability and authority. -/
  | sbjLd (g : Guard) (d : BitVec 6) (a : BitVec 6)
  /-- R177: Handler stores through the subject's capability and authority. -/
  | sbjSt (g : Guard) (d : BitVec 6) (a : BitVec 6)
  /-- R176: Handler reads a subject capability untagged, tag into p7. -/
  | sbjCap (g : Guard) (d : BitVec 4) (a : BitVec 6)
  /-- R178: Read a field of the lane's Pillow entry. -/
  | hcause (g : Guard) (d : BitVec 6) (i : BitVec 6)
  /-- R179: Return the subject at its pc or the next instruction and free the entry. -/
  | hret (g : Guard) (i : BitVec 6)
  /-- R180: Re-file the subject under a new cause. -/
  | hpass (g : Guard) (a : BitVec 6)
  /-- R235: Uniform 64-bit add. -/
  | uAdd (d : BitVec 6) (a : BitVec 6) (b : BitVec 6)
  /-- R235: Uniform subtract. -/
  | uSub (d : BitVec 6) (a : BitVec 6) (b : BitVec 6)
  /-- R235: Uniform low 64 bits of product. -/
  | uMulLo (d : BitVec 6) (a : BitVec 6) (b : BitVec 6)
  /-- R235: Uniform upper half of signed product. -/
  | uMulHiS64 (d : BitVec 6) (a : BitVec 6) (b : BitVec 6)
  /-- R235: Uniform upper half of unsigned product. -/
  | uMulHiN64 (d : BitVec 6) (a : BitVec 6) (b : BitVec 6)
  /-- R235: Uniform bitwise and. -/
  | uAnd (d : BitVec 6) (a : BitVec 6) (b : BitVec 6)
  /-- R235: Uniform bitwise or. -/
  | uOr (d : BitVec 6) (a : BitVec 6) (b : BitVec 6)
  /-- R235: Uniform bitwise xor. -/
  | uXor (d : BitVec 6) (a : BitVec 6) (b : BitVec 6)
  /-- R235: Uniform and-not. -/
  | uAndn (d : BitVec 6) (a : BitVec 6) (b : BitVec 6)
  /-- R235: Uniform shift left. -/
  | uShl (d : BitVec 6) (a : BitVec 6) (b : BitVec 6)
  /-- R235: Uniform logical shift right. -/
  | uShr (d : BitVec 6) (a : BitVec 6) (b : BitVec 6)
  /-- R235: Uniform arithmetic shift right. -/
  | uSar (d : BitVec 6) (a : BitVec 6) (b : BitVec 6)
  /-- R235: Uniform signed minimum. -/
  | uMinS64 (d : BitVec 6) (a : BitVec 6) (b : BitVec 6)
  /-- R235: Uniform signed maximum. -/
  | uMaxS64 (d : BitVec 6) (a : BitVec 6) (b : BitVec 6)
  /-- R235: Uniform unsigned minimum. -/
  | uMinN64 (d : BitVec 6) (a : BitVec 6) (b : BitVec 6)
  /-- R235: Uniform unsigned maximum. -/
  | uMaxN64 (d : BitVec 6) (a : BitVec 6) (b : BitVec 6)
  /-- R235: Uniform population count. -/
  | uPopc (d : BitVec 6) (a : BitVec 6)
  /-- R235: Uniform count leading zeros. -/
  | uClz (d : BitVec 6) (a : BitVec 6)
  /-- R235: Uniform count trailing zeros. -/
  | uCtz (d : BitVec 6) (a : BitVec 6)
  /-- R236: Uniform add of sign-extended 12-bit immediate. -/
  | uAddi (d : BitVec 6) (a : BitVec 6) (i : BitVec 12)
  /-- R236: Uniform or with zero-extended immediate. -/
  | uOri (d : BitVec 6) (a : BitVec 6) (i : BitVec 12)
  /-- R236: Uniform and with sign-extended immediate. -/
  | uAndi (d : BitVec 6) (a : BitVec 6) (i : BitVec 12)
  /-- R236: Uniform xor with zero-extended immediate. -/
  | uXori (d : BitVec 6) (a : BitVec 6) (i : BitVec 12)
  /-- R236: Uniform shift left by immediate. -/
  | uShlImm (d : BitVec 6) (a : BitVec 6) (i : BitVec 6)
  /-- R236: Uniform logical shift right by immediate. -/
  | uShrImm (d : BitVec 6) (a : BitVec 6) (i : BitVec 6)
  /-- R236: Uniform arithmetic shift right by immediate. -/
  | uSarImm (d : BitVec 6) (a : BitVec 6) (i : BitVec 6)
  /-- R236: Uniform rotate left by immediate. -/
  | uRotImm (d : BitVec 6) (a : BitVec 6) (i : BitVec 6)
  /-- R237: Write a 16-bit halfword, keep lower bits, clear higher bits. -/
  | lui (d : BitVec 6) (h : BitVec 2) (i : BitVec 16)
  /-- R133: Unconditional branch of the current path. -/
  | bra (o : BitVec 24)
  /-- R133: Branch if a uniform register is zero. -/
  | bEz (a : BitVec 6) (o : BitVec 15)
  /-- R133: Branch if nonzero. -/
  | bNz (a : BitVec 6) (o : BitVec 15)
  /-- R133: Branch if negative. -/
  | bLz (a : BitVec 6) (o : BitVec 15)
  /-- R133: Branch if not negative. -/
  | bGez (a : BitVec 6) (o : BitVec 15)
  /-- R133: Branch if positive. -/
  | bGz (a : BitVec 6) (o : BitVec 15)
  /-- R133: Branch if not positive. -/
  | bLez (a : BitVec 6) (o : BitVec 15)
  /-- R56: Predicated branch that may split the path and push a frame. -/
  | brp (n : BitVec 1) (p : BitVec 3) (o : BitVec 20)
  /-- R135: Set the PC from a uniform register. -/
  | ret (a : BitVec 6)
  /-- R136: Jump through an execute capability, optionally linking. -/
  | jmpc (l : BitVec 2) (d : BitVec 4) (a : BitVec 4)
  /-- R133: Branch and link into s62. -/
  | call (o : BitVec 24)
  /-- R133: Decrement a uniform register and branch while nonzero. -/
  | loop (a : BitVec 6) (o : BitVec 15)
  /-- R238: Read a special register into a uniform register. -/
  | mfsr (d : BitVec 6) (r : BitVec 12)
  /-- R238: Write a writable special register. -/
  | mtsr (d : BitVec 6) (r : BitVec 12)
  /-- R47: Issue the follower word n times with stepped register fields. -/
  | rep (c : BitVec 6) (x : BitVec 1) (y : BitVec 1) (z : BitVec 1) (t : BitVec 3)
  /-- R240: Make one barrier arrival and record the phase. -/
  | pinPost (h : BitVec 12)
  /-- R240: Park until the barrier phase differs from the target. -/
  | pinWait (h : BitVec 12)
  /-- R240: Arrive and wait as one instruction. -/
  | pinMeet (h : BitVec 12)
  /-- R245: Append a uniform word to the partial command of a queue. -/
  | pushS (q : BitVec 3) (a : BitVec 6)
  /-- R245: Append a capability word to the partial command of a queue. -/
  | pushK (q : BitVec 3) (a : BitVec 4)
  /-- R247: Take the oldest completion record into a uniform register. -/
  | popS (d : BitVec 6) (q : BitVec 3)
  /-- R247: Take the oldest record word into a capability register. -/
  | popK (d : BitVec 4) (q : BitVec 3)
  /-- R248: Continue at target if a record is held, else park until one arrives. -/
  | cpYield (q : BitVec 3) (o : BitVec 21)
  /-- R250: Order the strand's accesses and pushes at a scope. -/
  | fence (k : BitVec 3)
  /-- R251: Order commands across the named queues. -/
  | qfence (m : BitVec 8)
  /-- R211: Write tile control registers. -/
  | tcfg (t : BitVec 4) (a : BitVec 6) (n : BitVec 4)
  /-- R156: Capability derivation or read on k registers for the strand. -/
  | ucap (d : BitVec 6) (a : BitVec 6) (b : BitVec 6) (f : BitVec 6)
  /-- R144: Uniform word load. -/
  | uldW (d : BitVec 6) (k : BitVec 4) (o : BitVec 11)
  /-- R144: Uniform doubleword load. -/
  | uldD (d : BitVec 6) (k : BitVec 4) (o : BitVec 11)
  /-- R144: Uniform capability load. -/
  | uldC (d : BitVec 4) (k : BitVec 4) (o : BitVec 11)
  /-- R144: Uniform word store. -/
  | ustW (d : BitVec 6) (k : BitVec 4) (o : BitVec 11)
  /-- R144: Uniform doubleword store. -/
  | ustD (d : BitVec 6) (k : BitVec 4) (o : BitVec 11)
  /-- R144: Uniform capability store. -/
  | ustC (d : BitVec 4) (k : BitVec 4) (o : BitVec 11)
  /-- R376: Ask the front end for a new team of the launch. -/
  | spawn (d : BitVec 6) (a : BitVec 6) (b : BitVec 6)
  /-- R377: Park until a named event slot is published. -/
  | evtWait (a : BitVec 6) (b : BitVec 6)
  /-- R377: Test whether an event slot is published. -/
  | evtTest (d : BitVec 6) (a : BitVec 6) (b : BitVec 6)
  /-- R378: Allocate a seam activity and return its handle. -/
  | seamOpen (d : BitVec 6)
  /-- R365: Push an undo frame, release the step's stores, arm the frame. -/
  | seamStep (d : BitVec 6) (a : BitVec 4) (b : BitVec 4)
  /-- R364: Close an OPEN activity and free its frames. -/
  | seamClose (d : BitVec 6)
  /-- R364: Abandon an OPEN activity into UNPICKING. -/
  | seamDrop (d : BitVec 6)
  /-- R370: Record a linked activity in the link list. -/
  | seamLink (d : BitVec 6) (a : BitVec 6)
  /-- R379: Read an activity's state word. -/
  | seamState (d : BitVec 6) (a : BitVec 6)
  /-- R372: Retry or skip the failed frame of a SNAGGED activity. -/
  | seamResume (d : BitVec 6) (a : BitVec 6)
  /-- R380: Call through a gate, recolouring the argument pages. -/
  | gateCall (a : BitVec 4) (b : BitVec 4)
  /-- R381: Hand a remote write command to the network queue. -/
  | netPut (d : BitVec 6) (a : BitVec 4) (b : BitVec 4)
  /-- R381: Hand a remote read command to the network queue. -/
  | netGet (d : BitVec 6) (a : BitVec 4) (b : BitVec 4)
  /-- R381: Hand a remote reduction command to the network queue. -/
  | netRed (d : BitVec 6) (a : BitVec 4) (b : BitVec 4)
  /-- R382: Wait for all network commands and take their records. -/
  | netDone (d : BitVec 6)
  /-- R384: Read a privileged control register. -/
  | csrRd (d : BitVec 6) (a : BitVec 6) (b : BitVec 6)
  /-- R384: Write a privileged control register, p7 reporting refusal. -/
  | csrWr (d : BitVec 6) (a : BitVec 6) (b : BitVec 6)
  /-- R298: Drop cached translations for a range in every issuer. -/
  | tlbInv (d : BitVec 6) (a : BitVec 6) (b : BitVec 6)
  /-- R385: Unwrap a key into a key slot. -/
  | keyLoad (d : BitVec 6) (a : BitVec 4) (b : BitVec 6)
  /-- R325: Drain, drop copies and zeroize a key slot. -/
  | keyKill (d : BitVec 6) (a : BitVec 6)
  /-- R299: Raise page versions in a range and shoot down translations. -/
  | revoke (d : BitVec 6) (a : BitVec 6) (b : BitVec 6)
  /-- R385: Write a signed quote of the measurements. -/
  | attest (d : BitVec 6) (a : BitVec 4) (b : BitVec 6)
  /-- R385: Record a halt reason, stop every launch and hold until reset. -/
  | halt (a : BitVec 6)
  /-- R57: Add the path to its frame's arrived mask and park. -/
  | join
  /-- R58: Remove the threads from their path and frames. -/
  | exit
  /-- R137: No operation, usual carrier of a marker. -/
  | nop
  /-- R137: File every present thread with cause 0x28. -/
  | trap
  /-- R137: File every present thread with cause 0x30. -/
  | brk
  /-- R252: Order earlier layout-record stores before the layout path. -/
  | lfence
  /-- R377: Publish the team's slot 1 as a dev-scope release. -/
  | evtPub
  /-- R380: Return through the newest gate record, handing the pages back. -/
  | gateRet
  /-- R253: Stop here if a pre-emption request is pending. -/
  | ppoint
  /-- R253: Take an implicit marker so the turn may pass. -/
  | yield
  /-- R171: Enter solo mode in a kernel-class handler path. -/
  | soloOn
  /-- R171: Return the path to lock-step. -/
  | soloOff
  /-- R41: A long instruction's result returns into the strand's return buffer. -/
  | longResultReturn (sid entry : Nat)
  /-- R41: At a switch marker, once RB has returned, write all long results in issue order. -/
  | commit (sid : Nat)
  /-- R43: A commit taken before an instruction issues, counting sr.implicit when forced by RB capacity. -/
  | implicitMarker (sid : Nat)
  /-- R159: A parked strand resumes when a Pillow entry frees. -/
  | pillowUnpark (sid : Nat)
  /-- R164: The gather timeout of a group's oldest entry expires and a strand forms. -/
  | gatherTimeout (bank cause group : Nat)
  /-- R165: A waiting handler group is placed on a core when a slot frees. -/
  | handlerStrandPlace (gid core : Nat)
  /-- R172: The absence clock expires and filed members become straggling. -/
  | absenceExpiry (sid : Nat) (frame : Option Nat)
  /-- R174: A straggler waiting for a slot starts when one frees. -/
  | stragglerStart (tid rank : Nat)
  /-- R62: At its matching join a fresh strand waits for commands, then returns its threads home. -/
  | freshStrandReturn (sid : Nat)
  /-- R203: After waiting for its commands, the team returns to its checkpoint. -/
  | rollback (tid : Nat)
  /-- R305: An unstaged store is applied at its point of coherence. -/
  | apply (ev : Nat)
  /-- R305: The core's L1 takes a copy of a line. -/
  | fill (core line : Nat)
  /-- R305: An L1 copy of a line is dropped. -/
  | evict (core line : Nat)
  /-- R305: A load takes bytes from its team's staged line. -/
  | readStaged (ev : Nat)
  /-- R305: A load takes bytes from the core's L1 copy. -/
  | readL1 (ev : Nat)
  /-- R305: A load takes bytes now at the point of coherence. -/
  | readPoc (ev : Nat)
  /-- R305: An atomic, cas or reduction reads and writes its word at the point of coherence. -/
  | modify (ev : Nat)
  /-- R143: A waiting ldo.fe lane takes its word once it is full. -/
  | feWaitTake (sid rank : Nat)
  /-- R143: A waiting sto.fill lane fills its word once it is empty. -/
  | feWaitFill (sid rank : Nat)
  /-- R191: The copy engine performs a four-word copy command. -/
  | copy (cid : Nat)
  /-- R226: The stream unit performs a stream command. -/
  | stream (cid : Nat)
  /-- R195: An engine writes a command's completion record and barrier signals. -/
  | complete (cid : Nat)
  /-- R305: The layout cache takes a copy of a layout record. -/
  | layoutFill (rec : Nat)
  /-- R353: The storage port reads and verifies pages from a drive. -/
  | storageRead (cid : Nat) (mediaError : Bool)
  /-- R353: The storage port encrypts and writes pages to a drive. -/
  | storageWrite (cid : Nat) (mediaError : Bool)
  /-- R319: A fabric packet leaves its port. -/
  | send (serial : Nat)
  /-- R319: A fabric packet is applied at its target. -/
  | deliver (p : Packet)
  /-- R295: A held orphaned reduction is filed when a Pillow entry frees. -/
  | orphanDeferredFile (index : Nat)
  /-- R398: A collective allreduce over the roster's members. -/
  | allreduce (cid : Nat) (others : List (Nat × List Byte))
  /-- R398: A collective broadcast of the root's bytes. -/
  | broadcast (cid : Nat) (root : List Byte)
  /-- R398: A collective barrier across members. -/
  | netBarrier (cid : Nat)
  /-- R342: The seed places a team once its chained predecessor has published. -/
  | seedPlace (launch : Nat)
  /-- R317: A team's completion event is published as a dev-scope release. -/
  | teamCompletion (tid : Nat)
  /-- R281: A sampled team is replayed and its store signature compared. -/
  | auditReplay (index : Nat) (signature : DWord) (coreNo : Nat)
  /-- R281: A replay not started within 1 s is dropped and counted. -/
  | auditReplayDrop (index : Nat)
  /-- R359: A wait longer than the hang threshold files a cause 0x48 entry. -/
  | hangReport (launch : Nat)
  /-- R348: A stop request reaches each strand of a team. -/
  | preemptRequest (tid : Nat)
  /-- R348: After 30,000 cycles a strand stops before its next issue. -/
  | preemptTimeout (sid : Nat)
  /-- R205: A stopped team is checkpointed and saved after its commands complete. -/
  | teamSave (tid : Nat)
  /-- R345: The leaf controller places a team as a bind record says. -/
  | bindPlace (r : BindRecord)
  /-- R345: The leaf controller stops a team. -/
  | bindStop (r : BindRecord)
  /-- R350: A saved team is restored onto named slots. -/
  | bindResume (r : BindRecord)
  /-- R345: The leaf controller releases slots. -/
  | bindRelease (r : BindRecord)
  /-- R259: A send permit returns and a held message is sent. -/
  | linkPermitReturn (die cluster : Nat) (toHead : Bool)
  /-- R337: A notify write makes firmware take ring entries up to the new tail. -/
  | notify (vf : Nat) (tail : DWord)
  /-- R338: Load and check an image, returning an image handle. -/
  | ringLoad (vf : Nat) (img : Image)
  /-- R338: Begin a launch of a launch record. -/
  | ringStart (vf : Nat)
  /-- R338: Free an image with no live launch. -/
  | ringUnload (vf : Nat)
  /-- R338: End a running launch with code 0x84. -/
  | ringCancel (vf : Nat)
  /-- R336: A host write to ring base or ring size, or an ignored write. -/
  | vcpRegisterWrite (vf off : Nat) (value : DWord)
  /-- R339: A function-level reset cancels the VF's launches and resets the ring. -/
  | flr (vf : Nat)
  /-- R339: The FLR completes when no launch of the VF is live. -/
  | flrComplete (vf : Nat)
  /-- R278: An uncorrectable error poisons data and writes an error record. -/
  | uncorrectableError (die : Nat) (source : BitVec 4) (site : ErrorSite)
  /-- R355: Firmware tests the unit named by an error record. -/
  | targetedSelfTest (die rec : Nat) (u : TestUnit) (pass : Bool)
  /-- R357: A supply droop stretches the compute clock. -/
  | clockStretch (cycles : Nat)
  /-- R358: A core idle for 10,000 cycles is clock-gated. -/
  | clockGate (core : Nat)
  /-- R358: A core idle for 500,000 cycles is power-gated in retention. -/
  | powerGate (core : Nat)
  /-- R358: An event that readies a strand wakes a gated core. -/
  | coreWake (core : Nat)
  /-- R103: The background sweep conditionally clears a stale capability's tag. -/
  | sweep (asid : BitVec 16) (granule : Nat)
  /-- R324: Package reset empties key slots, fills slot 0 and zeroes measurements. -/
  | packageReset
  /-- R335: A presented token opens the debug port after verification and scrub. -/
  | debugUnlock (token : DebugToken)
  /-- R330: Krahal re-cuts an idle partition after zeroing its state. -/
  | partitionRecut (die cluster world : Nat)
  /-- R368: The next frame's compensation team is spawned in the owner launch. -/
  | compensationSpawn (index : Nat)
  /-- R389: A flit failing its CRC is sent again from the replay buffer. -/
  | flitReplay (link : Nat)
  /-- R393: Outstanding accesses to an unreachable target end with poison or status 11. -/
  | targetUnreachable (pkg : BitVec 9)
  /-- R400: A member accepts or rejects a received lease. -/
  | leaseReceive (lease : Lease)
  /-- R400: Lifetime T passes without renewal and the lease is lost. -/
  | leaseLost
  /-- R400: The leader renews its lease every T/2. -/
  | leaseRenew
  /-- R401: A package without a live lease claims leadership. -/
  | leaderClaim (reached : List (BitVec 128))
  /-- R402: A member receives, verifies and measures boot images. -/
  | imageReceive (krahal preder : BitVec 256) (sigOk : Bool)
  /-- R396: A roster slot write starts a new epoch. -/
  | rosterWrite (slot : Nat) (r : RosterRec)
  /-- R396: A member's fresh quote is verified for admission. -/
  | admission (slot member : Nat) (digest : BitVec 256) (quoteOk : Bool)
  /-- R399: A lost member fails pending collectives and reforms the group. -/
  | memberLost (slot member : Nat)
  /-- R163: A watch range is armed through the debug port while csr.lifecycle reads 2, so that later overlapping lane accesses file cause 0x31. -/
  | watchRangeArm (lo hi : DWord)
  deriving DecidableEq, Repr

end Sys2Proof
end

