-- ==== Sys2Proof/WellFormed.lean ====
section
/-! DEFINITION. Which instruction words are instructions, as far as the word alone decides (R38): the guard is not the
"never" guard, no selector is unassigned, register fields keep their alignment, special registers and control registers
are assigned. Register numbers beyond a team's allocation are checked when the instruction issues. -/

namespace Sys2Proof

/-- R32, R38: gneg = 1 with gp = 0 is the reserved "never" guard. -/
def guardOk (g : Guard) : Bool := !(g.neg && g.p == 0)

/-- R139: the register constraint of a load of size `z`. -/
def loadRegOk (z : BitVec 3) (d : BitVec 6) : Bool :=
  match z.toNat with
  | 5 => d.toNat % 2 == 0
  | 6 => d.toNat % 4 == 0
  | 7 => d.toNat < 16
  | _ => true

/-- R140: sizes 6 and 7 are reserved; d and q keep the constraints of R139; c needs d[5:4] zero. -/
def storeRegOk (z : BitVec 3) (d : BitVec 6) : Bool :=
  match z.toNat with
  | 3 => d.toNat % 2 == 0
  | 4 => d.toNat % 4 == 0
  | 5 => d.toNat < 16
  | 6 => false
  | 7 => false
  | _ => true

/-- R141: registers of the ordered accesses, sizes w, d, q, c. -/
def orderedRegOk (z : BitVec 2) (d : BitVec 6) : Bool :=
  match z.toNat with
  | 1 => d.toNat % 2 == 0
  | 2 => d.toNat % 4 == 0
  | 3 => d.toNat < 16
  | _ => true

/-- R227: the element types of accmov. -/
def accTypeOk (t : BitVec 4) : Bool := t.toNat == 0 || (decide (6 ≤ t.toNat) && decide (t.toNat ≤ 10))

/-- R117: the special-register numbers that are assigned, without the high halves. -/
def srAssigned (r : Nat) : Bool :=
  r ≤ 4 || (0x008 ≤ r && r ≤ 0x012) || (0x014 ≤ r && r ≤ 0x016) || r == 0x018 || r == 0x019 ||
    (0x020 ≤ r && r ≤ 0x027) || (0x040 ≤ r && r ≤ 0x04F)

/-- R117: the 64-bit special registers, which have a high-half number for rdsr. -/
def srWide (r : Nat) : Bool :=
  (0x014 ≤ r && r ≤ 0x016) || r == 0x026 || r == 0x027 || (0x040 ≤ r && r ≤ 0x04F)

/-- R117, R118: the numbers rdsr may name: every assigned number, and bit 11 set for a 64-bit register. -/
def srReadable (r : Nat) : Bool := srAssigned r || (0x800 ≤ r && srWide (r - 0x800))

/-- R238: the registers that mtsr may name. -/
def srWritable (r : Nat) : Bool :=
  r == 0x004 || r == 0x008 || r == 0x009 || (0x00C ≤ r && r ≤ 0x00F) || r == 0x025

/-- R251: the mask names at least one of q0, q2, q4 and q6 and no odd queue. -/
def qfenceMaskOk (q : BitVec 8) : Bool := q != 0 && q &&& 0xAA == 0

/-- R156: the assigned functions of ucap and the register fields that must be zero. -/
def ucapOk (f d a b : BitVec 6) : Bool :=
  match f.toNat with
  | 0 | 1 | 2 | 3 | 4 => d.toNat < 16 && a.toNat < 16
  | 5 | 8 => d.toNat < 16 && a.toNat < 16 && b.toNat < 16
  | 6 | 7 | 9 | 10 => d.toNat < 16 && a.toNat < 16 && b == 0
  | 16 | 17 | 18 | 19 => a.toNat < 16 && b == 0
  | _ => false

/-- R384: the control registers the table lists. -/
def csrListed (b : Nat) : Bool := b ≤ 4 || (8 ≤ b && b ≤ 19)

/-- R38: what the word alone decides. An event is well-formed. -/
def Instr.wellFormed : Instr → Bool
  | .add g _ _ _ => guardOk g
  | .sub g _ _ _ => guardOk g
  | .addSatS32 g _ _ _ => guardOk g
  | .subSatS32 g _ _ _ => guardOk g
  | .minS32 g _ _ _ => guardOk g
  | .maxS32 g _ _ _ => guardOk g
  | .minN32 g _ _ _ => guardOk g
  | .maxN32 g _ _ _ => guardOk g
  | .mulLo g _ _ _ => guardOk g
  | .mulHiS32 g _ _ _ => guardOk g
  | .mulHiN32 g _ _ _ => guardOk g
  | .madLo g _ _ _ => guardOk g
  | .and g _ _ _ => guardOk g
  | .or g _ _ _ => guardOk g
  | .xor g _ _ _ => guardOk g
  | .andn g _ _ _ => guardOk g
  | .shl g _ _ _ => guardOk g
  | .shr g _ _ _ => guardOk g
  | .sar g _ _ _ => guardOk g
  | .rot g _ _ _ => guardOk g
  | .popc g _ _ => guardOk g
  | .clz g _ _ => guardOk g
  | .ctz g _ _ => guardOk g
  | .brev g _ _ => guardOk g
  | .divS32 g _ _ _ => guardOk g
  | .divN32 g _ _ _ => guardOk g
  | .remS32 g _ _ _ => guardOk g
  | .remN32 g _ _ _ => guardOk g
  | .bfxN32 g _ _ _ => guardOk g
  | .bfxS32 g _ _ _ => guardOk g
  | .bfi g _ _ _ => guardOk g
  | .absS32 g _ _ => guardOk g
  | .addi g _ _ _ => guardOk g
  | .andi g _ _ _ => guardOk g
  | .ori g _ _ _ => guardOk g
  | .xori g _ _ _ => guardOk g
  | .shlImm g _ _ _ => guardOk g
  | .shrImm g _ _ _ => guardOk g
  | .sarImm g _ _ _ => guardOk g
  | .rotImm g _ _ _ => guardOk g
  | .icmp g _ c _ _ t => guardOk g && t.toNat ≤ 1 && c.toNat ≤ 5
  | .icmpi g _ c _ _ t => guardOk g && t.toNat ≤ 1 && c.toNat ≤ 5
  | .mov g _ _ => guardOk g
  | .bcast g _ _ => guardOk g
  | .movp g _ => guardOk g
  | .mvp g _ => guardOk g
  | .pand g _ _ _ _ _ => guardOk g
  | .por g _ _ _ _ _ => guardOk g
  | .pxor g _ _ _ _ _ => guardOk g
  | .pandn g _ _ _ _ _ => guardOk g
  | .ldi g _ _ => guardOk g
  | .rdsr g _ r => guardOk g && srReadable r.toNat
  | .faddF32 g _ _ _ => guardOk g
  | .fsubF32 g _ _ _ => guardOk g
  | .fmulF32 g _ _ _ => guardOk g
  | .ffmaF32 g _ _ _ => guardOk g
  | .faddF16x2 g _ _ _ => guardOk g
  | .fsubF16x2 g _ _ _ => guardOk g
  | .fmulF16x2 g _ _ _ => guardOk g
  | .ffmaF16x2 g _ _ _ => guardOk g
  | .faddBf16x2 g _ _ _ => guardOk g
  | .fsubBf16x2 g _ _ _ => guardOk g
  | .fmulBf16x2 g _ _ _ => guardOk g
  | .ffmaBf16x2 g _ _ _ => guardOk g
  | .fminF32 g _ _ _ => guardOk g
  | .fmaxF32 g _ _ _ => guardOk g
  | .fabsF32 g _ _ => guardOk g
  | .fnegF32 g _ _ => guardOk g
  | .frcp g _ _ => guardOk g
  | .frsq g _ _ => guardOk g
  | .fsqrt g _ _ => guardOk g
  | .fexp2 g _ _ => guardOk g
  | .flog2 g _ _ => guardOk g
  | .fsin g _ _ => guardOk g
  | .fcos g _ _ => guardOk g
  | .ftanh g _ _ => guardOk g
  | .frndRn g _ _ => guardOk g
  | .frndRz g _ _ => guardOk g
  | .frndRd g _ _ => guardOk g
  | .frndRu g _ _ => guardOk g
  | .fcmp g _ _ _ _ t => guardOk g && t.toNat ≤ 2
  | .fclass g _ _ => guardOk g
  | .cvtRn g _ _ t u => guardOk g && t.toNat ≤ 10 && u.toNat ≤ 10
  | .cvtRz g _ _ t u => guardOk g && t.toNat ≤ 10 && u.toNat ≤ 10
  | .cvtSr g _ _ t u => guardOk g && t.toNat ≤ 10 && u.toNat ≤ 10
  | .cvtDyn g _ _ t u => guardOk g && t.toNat ≤ 10 && u.toNat ≤ 10
  | .kpack g _ _ _ => guardOk g
  | .kunpack g _ _ => guardOk g
  | .ld g d _ z _ => guardOk g && loadRegOk z d
  | .st g d _ z _ => guardOk g && storeRegOk z d
  | .ldoRlx g d _ z k => guardOk g && k.toNat ≤ 6 && orderedRegOk z d
  | .ldoAcq g d _ z k => guardOk g && k.toNat ≤ 6 && orderedRegOk z d
  | .ldoFe g _ _ k => guardOk g && k.toNat ≤ 6
  | .stoRlx g d _ z k => guardOk g && k.toNat ≤ 6 && orderedRegOk z d
  | .stoRel g d _ z k => guardOk g && k.toNat ≤ 6 && orderedRegOk z d
  | .stoFill g _ _ k => guardOk g && k.toNat ≤ 6
  | .atom g _ _ _ o => guardOk g && o.toNat ≤ 11
  | .red g k _ _ o => guardOk g && k.toNat ≤ 6 && o.toNat ≤ 11
  | .cas g d _ b k z => guardOk g && (k.toNat ≤ 6 && (z == 0 || (d.toNat % 2 == 0 && b.toNat % 2 == 0)))
  | .mmaE4m3 g _ _ _ _ => guardOk g
  | .mmaE5m2 g _ _ _ _ => guardOk g
  | .mmaBf16 g _ _ _ _ => guardOk g
  | .mmaF16 g _ _ _ _ => guardOk g
  | .mmaKn4 g _ _ _ v _ _ => guardOk g && v.toNat ≤ 28
  | .mmaS8 g _ _ _ _ => guardOk g
  | .mvStream g _ _ _ f _ _ => guardOk g && f.toNat ≤ 5
  | .accmovNarrow g _ _ _ t => guardOk g && accTypeOk t
  | .accmovWiden g _ _ t => guardOk g && accTypeOk t
  | .accZero g _ => guardOk g
  | .accDecay g _ _ => guardOk g
  | .accSpill g _ _ => guardOk g
  | .accFill g _ _ => guardOk g
  | .tld g _ _ => guardOk g
  | .tst g _ _ => guardOk g
  | .tzero g _ => guardOk g
  | .ttrans g _ _ => guardOk g
  | .xredAdd g _ _ t => guardOk g && t.toNat ≤ 2
  | .xredMin g _ _ t => guardOk g && t.toNat ≤ 2
  | .xredMax g _ _ t => guardOk g && t.toNat ≤ 2
  | .xredAnd g _ _ => guardOk g
  | .xredOr g _ _ => guardOk g
  | .xredXor g _ _ => guardOk g
  | .xminIdx g _ _ t => guardOk g && t.toNat ≤ 2
  | .xmaxIdx g _ _ t => guardOk g && t.toNat ≤ 2
  | .xscanAdd g _ _ t => guardOk g && t.toNat ≤ 2
  | .pickSlot g _ _ _ => guardOk g
  | .pickRank g _ _ _ => guardOk g
  | .pickBack g _ _ _ => guardOk g
  | .pickFlip g _ _ _ => guardOk g
  | .pollAny g _ _ => guardOk g
  | .pollAll g _ _ => guardOk g
  | .pollMask g _ _ => guardOk g
  | .pollCount g _ _ => guardOk g
  | .cadv g _ _ _ => guardOk g
  | .cplace g _ _ _ => guardOk g
  | .cclip g _ _ _ => guardOk g
  | .cclipExact g _ _ _ => guardOk g
  | .cstrip g _ _ _ => guardOk g
  | .cwrap g _ _ _ => guardOk g
  | .cwrapEntry g _ _ => guardOk g
  | .cwrapComp g _ _ => guardOk g
  | .cunwrap g _ _ _ => guardOk g
  | .ccopy g _ _ => guardOk g
  | .cdetag g _ _ => guardOk g
  | .cbcast g _ _ => guardOk g
  | .creadAddr g _ _ => guardOk g
  | .creadBase g _ _ => guardOk g
  | .creadLen g _ _ => guardOk g
  | .creadInfo g _ _ => guardOk g
  | .cadvImm g _ _ _ => guardOk g
  | .sbjRd g _ _ => guardOk g
  | .sbjWr g _ _ => guardOk g
  | .sbjLd g _ a => guardOk g && a.toNat ≤ 62
  | .sbjSt g _ a => guardOk g && a.toNat ≤ 62
  | .sbjCap g _ _ => guardOk g
  | .hcause g _ i => guardOk g && i.toNat ≤ 10
  | .hret g i => guardOk g && i.toNat ≤ 1
  | .hpass g _ => guardOk g
  | .uAdd _ _ _ => true
  | .uSub _ _ _ => true
  | .uMulLo _ _ _ => true
  | .uMulHiS64 _ _ _ => true
  | .uMulHiN64 _ _ _ => true
  | .uAnd _ _ _ => true
  | .uOr _ _ _ => true
  | .uXor _ _ _ => true
  | .uAndn _ _ _ => true
  | .uShl _ _ _ => true
  | .uShr _ _ _ => true
  | .uSar _ _ _ => true
  | .uMinS64 _ _ _ => true
  | .uMaxS64 _ _ _ => true
  | .uMinN64 _ _ _ => true
  | .uMaxN64 _ _ _ => true
  | .uPopc _ _ => true
  | .uClz _ _ => true
  | .uCtz _ _ => true
  | .uAddi _ _ _ => true
  | .uOri _ _ _ => true
  | .uAndi _ _ _ => true
  | .uXori _ _ _ => true
  | .uShlImm _ _ _ => true
  | .uShrImm _ _ _ => true
  | .uSarImm _ _ _ => true
  | .uRotImm _ _ _ => true
  | .lui _ _ _ => true
  | .bra _ => true
  | .bEz _ _ => true
  | .bNz _ _ => true
  | .bLz _ _ => true
  | .bGez _ _ => true
  | .bGz _ _ => true
  | .bLez _ _ => true
  | .brp _ _ _ => true
  | .join => true
  | .ret _ => true
  | .jmpc l d _ => (l == 1 || (l == 0 && d == 0))
  | .exit => true
  | .call _ => true
  | .loop a _ => a.toNat != 63
  | .nop => true
  | .trap => true
  | .brk => true
  | .mfsr _ r => srAssigned r.toNat
  | .mtsr _ r => srWritable r.toNat
  | .rep _ _ _ _ _ => true
  | .pinPost _ => true
  | .pinWait _ => true
  | .pinMeet _ => true
  | .pushS q _ => q.toNat % 2 == 0
  | .pushK q _ => q.toNat % 2 == 0
  | .popS _ q => q.toNat % 2 == 1
  | .popK _ q => (q == 5 || q == 7)
  | .cpYield q _ => q.toNat % 2 == 1
  | .fence k => k.toNat ≤ 6
  | .qfence q => qfenceMaskOk q
  | .lfence => true
  | .tcfg _ _ _ => true
  | .ucap d a b f => ucapOk f d a b
  | .uldW _ _ _ => true
  | .uldD _ _ _ => true
  | .uldC _ _ _ => true
  | .ustW _ _ _ => true
  | .ustD _ _ _ => true
  | .ustC _ _ _ => true
  | .spawn _ _ _ => true
  | .evtWait _ _ => true
  | .evtPub => true
  | .evtTest _ _ _ => true
  | .seamOpen _ => true
  | .seamStep _ _ _ => true
  | .seamClose _ => true
  | .seamDrop _ => true
  | .seamLink _ _ => true
  | .seamState _ _ => true
  | .seamResume _ _ => true
  | .gateCall _ _ => true
  | .gateRet => true
  | .ppoint => true
  | .yield => true
  | .netPut _ _ _ => true
  | .netGet _ _ _ => true
  | .netRed _ _ _ => true
  | .netDone _ => true
  | .soloOn => true
  | .soloOff => true
  | .csrRd _ _ b => csrListed b.toNat
  | .csrWr _ _ b => csrListed b.toNat
  | .tlbInv _ _ _ => true
  | .keyLoad _ _ _ => true
  | .keyKill _ _ => true
  | .revoke _ _ _ => true
  | .attest _ _ _ => true
  | .halt _ => true
  | .longResultReturn .. => true
  | .commit .. => true
  | .implicitMarker .. => true
  | .pillowUnpark .. => true
  | .gatherTimeout .. => true
  | .handlerStrandPlace .. => true
  | .absenceExpiry .. => true
  | .stragglerStart .. => true
  | .freshStrandReturn .. => true
  | .rollback .. => true
  | .apply .. => true
  | .fill .. => true
  | .evict .. => true
  | .readStaged .. => true
  | .readL1 .. => true
  | .readPoc .. => true
  | .modify .. => true
  | .feWaitTake .. => true
  | .feWaitFill .. => true
  | .copy .. => true
  | .stream .. => true
  | .complete .. => true
  | .layoutFill .. => true
  | .storageRead .. => true
  | .storageWrite .. => true
  | .send .. => true
  | .deliver .. => true
  | .orphanDeferredFile .. => true
  | .allreduce .. => true
  | .broadcast .. => true
  | .netBarrier .. => true
  | .seedPlace .. => true
  | .teamCompletion .. => true
  | .auditReplay .. => true
  | .auditReplayDrop .. => true
  | .hangReport .. => true
  | .preemptRequest .. => true
  | .preemptTimeout .. => true
  | .teamSave .. => true
  | .bindPlace .. => true
  | .bindStop .. => true
  | .bindResume .. => true
  | .bindRelease .. => true
  | .linkPermitReturn .. => true
  | .notify .. => true
  | .ringLoad .. => true
  | .ringStart .. => true
  | .ringUnload .. => true
  | .ringCancel .. => true
  | .vcpRegisterWrite .. => true
  | .flr .. => true
  | .flrComplete .. => true
  | .uncorrectableError .. => true
  | .targetedSelfTest .. => true
  | .clockStretch .. => true
  | .clockGate .. => true
  | .powerGate .. => true
  | .coreWake .. => true
  | .sweep .. => true
  | .packageReset .. => true
  | .debugUnlock .. => true
  | .partitionRecut .. => true
  | .compensationSpawn .. => true
  | .flitReplay .. => true
  | .targetUnreachable .. => true
  | .leaseReceive .. => true
  | .leaseLost .. => true
  | .leaseRenew .. => true
  | .leaderClaim .. => true
  | .imageReceive .. => true
  | .rosterWrite .. => true
  | .admission .. => true
  | .memberLost .. => true
  | .watchRangeArm .. => true

/-- R38: the instruction's word is an instruction. -/
abbrev Instr.WellFormed (i : Instr) : Prop := i.wellFormed = true

end Sys2Proof
end

