-- ==== Sys2Proof/Decode.lean ====
section
/-! DEFINITION. From a 32-bit instruction word to its instruction, and back (R30 to R37).

The decoder takes a word's major first, then the bits that the row's encoding fixes, and then asks `Instr.wellFormed`
whether the fields make an instruction (R38). A word it refuses is refused by name; a machine files such a word with
cause 0x01. -/

namespace Sys2Proof

/-- Why a word is not an instruction (R38). -/
inductive Reject where
  /-- gneg = 1 with gp = 0 (R32). -/
  | neverGuard
  /-- No row has the word's fixed bits: an unassigned major or selector, or a must-be-zero bit that is set. -/
  | unassigned
  /-- A row matches and a field holds a reserved value or an unaligned register. -/
  | illegalField
  deriving DecidableEq, Repr

/-- One bit of a word from a flag. -/
def b2v (b : Bool) : BitVec 1 := BitVec.ofBool b

/-- R31, R32: the guard of a lane word. -/
def guardOf (w : Word) : Guard := ⟨w.getLsbD 29, w.extractLsb' 26 3⟩

/-- R31, R41: the switch marker S of a word. -/
def markerOf (w : Word) : Bool := w.getLsbD 30

/-- R30 to R37: the rows of the lane set, by major. -/
def decodeLane (g : Guard) (w : Word) : Option Instr :=
  match (w.extractLsb' 20 6).toNat with
  | 1 =>
    if w.extractLsb' 0 2 = 0 then some (.add g (w.extractLsb' 14 6) (w.extractLsb' 8 6) (w.extractLsb' 2 6)) else
    if w.extractLsb' 0 2 = 1 then some (.sub g (w.extractLsb' 14 6) (w.extractLsb' 8 6) (w.extractLsb' 2 6)) else
    if w.extractLsb' 0 2 = 2 then some (.addSatS32 g (w.extractLsb' 14 6) (w.extractLsb' 8 6) (w.extractLsb' 2 6)) else
    if w.extractLsb' 0 2 = 3 then some (.subSatS32 g (w.extractLsb' 14 6) (w.extractLsb' 8 6) (w.extractLsb' 2 6)) else
    none
  | 2 =>
    if w.extractLsb' 0 2 = 0 then some (.minS32 g (w.extractLsb' 14 6) (w.extractLsb' 8 6) (w.extractLsb' 2 6)) else
    if w.extractLsb' 0 2 = 1 then some (.maxS32 g (w.extractLsb' 14 6) (w.extractLsb' 8 6) (w.extractLsb' 2 6)) else
    if w.extractLsb' 0 2 = 2 then some (.minN32 g (w.extractLsb' 14 6) (w.extractLsb' 8 6) (w.extractLsb' 2 6)) else
    if w.extractLsb' 0 2 = 3 then some (.maxN32 g (w.extractLsb' 14 6) (w.extractLsb' 8 6) (w.extractLsb' 2 6)) else
    none
  | 3 =>
    if w.extractLsb' 0 2 = 0 then some (.mulLo g (w.extractLsb' 14 6) (w.extractLsb' 8 6) (w.extractLsb' 2 6)) else
    if w.extractLsb' 0 2 = 1 then some (.mulHiS32 g (w.extractLsb' 14 6) (w.extractLsb' 8 6) (w.extractLsb' 2 6)) else
    if w.extractLsb' 0 2 = 2 then some (.mulHiN32 g (w.extractLsb' 14 6) (w.extractLsb' 8 6) (w.extractLsb' 2 6)) else
    if w.extractLsb' 0 2 = 3 then some (.madLo g (w.extractLsb' 14 6) (w.extractLsb' 8 6) (w.extractLsb' 2 6)) else
    none
  | 4 =>
    if w.extractLsb' 0 2 = 0 then some (.and g (w.extractLsb' 14 6) (w.extractLsb' 8 6) (w.extractLsb' 2 6)) else
    if w.extractLsb' 0 2 = 1 then some (.or g (w.extractLsb' 14 6) (w.extractLsb' 8 6) (w.extractLsb' 2 6)) else
    if w.extractLsb' 0 2 = 2 then some (.xor g (w.extractLsb' 14 6) (w.extractLsb' 8 6) (w.extractLsb' 2 6)) else
    if w.extractLsb' 0 2 = 3 then some (.andn g (w.extractLsb' 14 6) (w.extractLsb' 8 6) (w.extractLsb' 2 6)) else
    none
  | 5 =>
    if w.extractLsb' 0 2 = 0 then some (.shl g (w.extractLsb' 14 6) (w.extractLsb' 8 6) (w.extractLsb' 2 6)) else
    if w.extractLsb' 0 2 = 1 then some (.shr g (w.extractLsb' 14 6) (w.extractLsb' 8 6) (w.extractLsb' 2 6)) else
    if w.extractLsb' 0 2 = 2 then some (.sar g (w.extractLsb' 14 6) (w.extractLsb' 8 6) (w.extractLsb' 2 6)) else
    if w.extractLsb' 0 2 = 3 then some (.rot g (w.extractLsb' 14 6) (w.extractLsb' 8 6) (w.extractLsb' 2 6)) else
    none
  | 6 =>
    if w.extractLsb' 0 8 = 0 then some (.popc g (w.extractLsb' 14 6) (w.extractLsb' 8 6)) else
    if w.extractLsb' 0 8 = 1 then some (.clz g (w.extractLsb' 14 6) (w.extractLsb' 8 6)) else
    if w.extractLsb' 0 8 = 2 then some (.ctz g (w.extractLsb' 14 6) (w.extractLsb' 8 6)) else
    if w.extractLsb' 0 8 = 3 then some (.brev g (w.extractLsb' 14 6) (w.extractLsb' 8 6)) else
    none
  | 7 =>
    if w.extractLsb' 0 2 = 0 then some (.divS32 g (w.extractLsb' 14 6) (w.extractLsb' 8 6) (w.extractLsb' 2 6)) else
    if w.extractLsb' 0 2 = 1 then some (.divN32 g (w.extractLsb' 14 6) (w.extractLsb' 8 6) (w.extractLsb' 2 6)) else
    if w.extractLsb' 0 2 = 2 then some (.remS32 g (w.extractLsb' 14 6) (w.extractLsb' 8 6) (w.extractLsb' 2 6)) else
    if w.extractLsb' 0 2 = 3 then some (.remN32 g (w.extractLsb' 14 6) (w.extractLsb' 8 6) (w.extractLsb' 2 6)) else
    none
  | 8 =>
    if w.extractLsb' 0 2 = 0 then some (.bfxN32 g (w.extractLsb' 14 6) (w.extractLsb' 8 6) (w.extractLsb' 2 6)) else
    if w.extractLsb' 0 2 = 1 then some (.bfxS32 g (w.extractLsb' 14 6) (w.extractLsb' 8 6) (w.extractLsb' 2 6)) else
    if w.extractLsb' 0 2 = 2 then some (.bfi g (w.extractLsb' 14 6) (w.extractLsb' 8 6) (w.extractLsb' 2 6)) else
    if w.extractLsb' 0 8 = 3 then some (.absS32 g (w.extractLsb' 14 6) (w.extractLsb' 8 6)) else
    none
  | 9 =>
    some (.addi g (w.extractLsb' 14 6) (w.extractLsb' 8 6) (w.extractLsb' 0 8))
  | 10 =>
    some (.andi g (w.extractLsb' 14 6) (w.extractLsb' 8 6) (w.extractLsb' 0 8))
  | 11 =>
    some (.ori g (w.extractLsb' 14 6) (w.extractLsb' 8 6) (w.extractLsb' 0 8))
  | 12 =>
    some (.xori g (w.extractLsb' 14 6) (w.extractLsb' 8 6) (w.extractLsb' 0 8))
  | 13 =>
    if w.extractLsb' 5 3 = 0 then some (.shlImm g (w.extractLsb' 14 6) (w.extractLsb' 8 6) (w.extractLsb' 0 5)) else
    if w.extractLsb' 5 3 = 2 then some (.shrImm g (w.extractLsb' 14 6) (w.extractLsb' 8 6) (w.extractLsb' 0 5)) else
    if w.extractLsb' 5 3 = 4 then some (.sarImm g (w.extractLsb' 14 6) (w.extractLsb' 8 6) (w.extractLsb' 0 5)) else
    if w.extractLsb' 5 3 = 6 then some (.rotImm g (w.extractLsb' 14 6) (w.extractLsb' 8 6) (w.extractLsb' 0 5)) else
    none
  | 14 =>
    some (.icmp g (w.extractLsb' 17 3) (w.extractLsb' 14 3) (w.extractLsb' 8 6) (w.extractLsb' 2 6) (w.extractLsb' 0 2))
  | 15 =>
    some (.icmpi g (w.extractLsb' 17 3) (w.extractLsb' 14 3) (w.extractLsb' 8 6) (w.extractLsb' 2 6) (w.extractLsb' 0 2))
  | 16 =>
    if w.extractLsb' 0 8 = 0 then some (.mov g (w.extractLsb' 14 6) (w.extractLsb' 8 6)) else
    if w.extractLsb' 0 8 = 1 then some (.bcast g (w.extractLsb' 14 6) (w.extractLsb' 8 6)) else
    if w.extractLsb' 0 14 = 2 then some (.movp g (w.extractLsb' 14 6)) else
    if w.extractLsb' 14 6 = 0 ∧ w.extractLsb' 0 8 = 3 then some (.mvp g (w.extractLsb' 8 6)) else
    none
  | 17 =>
    if w.extractLsb' 0 9 = 0 then some (.pand g (w.extractLsb' 17 3) (w.extractLsb' 14 3) (w.extractLsb' 11 3) (w.extractLsb' 10 1) (w.extractLsb' 9 1)) else
    if w.extractLsb' 0 9 = 1 then some (.por g (w.extractLsb' 17 3) (w.extractLsb' 14 3) (w.extractLsb' 11 3) (w.extractLsb' 10 1) (w.extractLsb' 9 1)) else
    if w.extractLsb' 0 9 = 2 then some (.pxor g (w.extractLsb' 17 3) (w.extractLsb' 14 3) (w.extractLsb' 11 3) (w.extractLsb' 10 1) (w.extractLsb' 9 1)) else
    if w.extractLsb' 0 9 = 3 then some (.pandn g (w.extractLsb' 17 3) (w.extractLsb' 14 3) (w.extractLsb' 11 3) (w.extractLsb' 10 1) (w.extractLsb' 9 1)) else
    none
  | 18 =>
    some (.ldi g (w.extractLsb' 14 6) (w.extractLsb' 0 14))
  | 19 =>
    if w.extractLsb' 0 2 = 0 then some (.rdsr g (w.extractLsb' 14 6) (w.extractLsb' 2 12)) else
    none
  | 20 =>
    if w.extractLsb' 0 2 = 0 then some (.faddF32 g (w.extractLsb' 14 6) (w.extractLsb' 8 6) (w.extractLsb' 2 6)) else
    if w.extractLsb' 0 2 = 1 then some (.fsubF32 g (w.extractLsb' 14 6) (w.extractLsb' 8 6) (w.extractLsb' 2 6)) else
    if w.extractLsb' 0 2 = 2 then some (.fmulF32 g (w.extractLsb' 14 6) (w.extractLsb' 8 6) (w.extractLsb' 2 6)) else
    if w.extractLsb' 0 2 = 3 then some (.ffmaF32 g (w.extractLsb' 14 6) (w.extractLsb' 8 6) (w.extractLsb' 2 6)) else
    none
  | 21 =>
    if w.extractLsb' 0 2 = 0 then some (.faddF16x2 g (w.extractLsb' 14 6) (w.extractLsb' 8 6) (w.extractLsb' 2 6)) else
    if w.extractLsb' 0 2 = 1 then some (.fsubF16x2 g (w.extractLsb' 14 6) (w.extractLsb' 8 6) (w.extractLsb' 2 6)) else
    if w.extractLsb' 0 2 = 2 then some (.fmulF16x2 g (w.extractLsb' 14 6) (w.extractLsb' 8 6) (w.extractLsb' 2 6)) else
    if w.extractLsb' 0 2 = 3 then some (.ffmaF16x2 g (w.extractLsb' 14 6) (w.extractLsb' 8 6) (w.extractLsb' 2 6)) else
    none
  | 22 =>
    if w.extractLsb' 0 2 = 0 then some (.faddBf16x2 g (w.extractLsb' 14 6) (w.extractLsb' 8 6) (w.extractLsb' 2 6)) else
    if w.extractLsb' 0 2 = 1 then some (.fsubBf16x2 g (w.extractLsb' 14 6) (w.extractLsb' 8 6) (w.extractLsb' 2 6)) else
    if w.extractLsb' 0 2 = 2 then some (.fmulBf16x2 g (w.extractLsb' 14 6) (w.extractLsb' 8 6) (w.extractLsb' 2 6)) else
    if w.extractLsb' 0 2 = 3 then some (.ffmaBf16x2 g (w.extractLsb' 14 6) (w.extractLsb' 8 6) (w.extractLsb' 2 6)) else
    none
  | 23 =>
    if w.extractLsb' 0 2 = 0 then some (.fminF32 g (w.extractLsb' 14 6) (w.extractLsb' 8 6) (w.extractLsb' 2 6)) else
    if w.extractLsb' 0 2 = 1 then some (.fmaxF32 g (w.extractLsb' 14 6) (w.extractLsb' 8 6) (w.extractLsb' 2 6)) else
    if w.extractLsb' 0 8 = 2 then some (.fabsF32 g (w.extractLsb' 14 6) (w.extractLsb' 8 6)) else
    if w.extractLsb' 0 8 = 3 then some (.fnegF32 g (w.extractLsb' 14 6) (w.extractLsb' 8 6)) else
    none
  | 24 =>
    if w.extractLsb' 0 8 = 0 then some (.frcp g (w.extractLsb' 14 6) (w.extractLsb' 8 6)) else
    if w.extractLsb' 0 8 = 4 then some (.frsq g (w.extractLsb' 14 6) (w.extractLsb' 8 6)) else
    if w.extractLsb' 0 8 = 8 then some (.fsqrt g (w.extractLsb' 14 6) (w.extractLsb' 8 6)) else
    if w.extractLsb' 0 8 = 12 then some (.fexp2 g (w.extractLsb' 14 6) (w.extractLsb' 8 6)) else
    if w.extractLsb' 0 8 = 16 then some (.flog2 g (w.extractLsb' 14 6) (w.extractLsb' 8 6)) else
    if w.extractLsb' 0 8 = 20 then some (.fsin g (w.extractLsb' 14 6) (w.extractLsb' 8 6)) else
    if w.extractLsb' 0 8 = 24 then some (.fcos g (w.extractLsb' 14 6) (w.extractLsb' 8 6)) else
    if w.extractLsb' 0 8 = 28 then some (.ftanh g (w.extractLsb' 14 6) (w.extractLsb' 8 6)) else
    none
  | 25 =>
    if w.extractLsb' 0 8 = 0 then some (.frndRn g (w.extractLsb' 14 6) (w.extractLsb' 8 6)) else
    if w.extractLsb' 0 8 = 1 then some (.frndRz g (w.extractLsb' 14 6) (w.extractLsb' 8 6)) else
    if w.extractLsb' 0 8 = 2 then some (.frndRd g (w.extractLsb' 14 6) (w.extractLsb' 8 6)) else
    if w.extractLsb' 0 8 = 3 then some (.frndRu g (w.extractLsb' 14 6) (w.extractLsb' 8 6)) else
    none
  | 26 =>
    some (.fcmp g (w.extractLsb' 17 3) (w.extractLsb' 14 3) (w.extractLsb' 8 6) (w.extractLsb' 2 6) (w.extractLsb' 0 2))
  | 27 =>
    if w.extractLsb' 0 8 = 0 then some (.fclass g (w.extractLsb' 14 6) (w.extractLsb' 8 6)) else
    none
  | 28 =>
    some (.cvtRn g (w.extractLsb' 14 6) (w.extractLsb' 8 6) (w.extractLsb' 4 4) (w.extractLsb' 0 4))
  | 29 =>
    some (.cvtRz g (w.extractLsb' 14 6) (w.extractLsb' 8 6) (w.extractLsb' 4 4) (w.extractLsb' 0 4))
  | 30 =>
    some (.cvtSr g (w.extractLsb' 14 6) (w.extractLsb' 8 6) (w.extractLsb' 4 4) (w.extractLsb' 0 4))
  | 31 =>
    some (.cvtDyn g (w.extractLsb' 14 6) (w.extractLsb' 8 6) (w.extractLsb' 4 4) (w.extractLsb' 0 4))
  | 32 =>
    if w.extractLsb' 2 6 = 0 then some (.kpack g (w.extractLsb' 14 6) (w.extractLsb' 8 6) (w.extractLsb' 0 2)) else
    none
  | 33 =>
    if w.extractLsb' 0 8 = 0 then some (.kunpack g (w.extractLsb' 14 6) (w.extractLsb' 8 6)) else
    none
  | 34 =>
    some (.ld g (w.extractLsb' 14 6) (w.extractLsb' 10 4) (w.extractLsb' 7 3) (w.extractLsb' 0 7))
  | 35 =>
    some (.st g (w.extractLsb' 14 6) (w.extractLsb' 10 4) (w.extractLsb' 7 3) (w.extractLsb' 0 7))
  | 36 =>
    if w.extractLsb' 6 2 = 0 ∧ w.extractLsb' 0 3 = 0 then some (.ldoRlx g (w.extractLsb' 14 6) (w.extractLsb' 10 4) (w.extractLsb' 8 2) (w.extractLsb' 3 3)) else
    if w.extractLsb' 6 2 = 1 ∧ w.extractLsb' 0 3 = 0 then some (.ldoAcq g (w.extractLsb' 14 6) (w.extractLsb' 10 4) (w.extractLsb' 8 2) (w.extractLsb' 3 3)) else
    if w.extractLsb' 6 4 = 2 ∧ w.extractLsb' 0 3 = 0 then some (.ldoFe g (w.extractLsb' 14 6) (w.extractLsb' 10 4) (w.extractLsb' 3 3)) else
    none
  | 37 =>
    if w.extractLsb' 6 2 = 0 ∧ w.extractLsb' 0 3 = 0 then some (.stoRlx g (w.extractLsb' 14 6) (w.extractLsb' 10 4) (w.extractLsb' 8 2) (w.extractLsb' 3 3)) else
    if w.extractLsb' 6 2 = 1 ∧ w.extractLsb' 0 3 = 0 then some (.stoRel g (w.extractLsb' 14 6) (w.extractLsb' 10 4) (w.extractLsb' 8 2) (w.extractLsb' 3 3)) else
    if w.extractLsb' 6 4 = 2 ∧ w.extractLsb' 0 3 = 0 then some (.stoFill g (w.extractLsb' 14 6) (w.extractLsb' 10 4) (w.extractLsb' 3 3)) else
    none
  | 38 =>
    some (.atom g (w.extractLsb' 14 6) (w.extractLsb' 10 4) (w.extractLsb' 4 6) (w.extractLsb' 0 4))
  | 39 =>
    if w.extractLsb' 14 3 = 0 then some (.red g (w.extractLsb' 17 3) (w.extractLsb' 10 4) (w.extractLsb' 4 6) (w.extractLsb' 0 4)) else
    none
  | 40 =>
    some (.cas g (w.extractLsb' 14 6) (w.extractLsb' 10 4) (w.extractLsb' 4 6) (w.extractLsb' 1 3) (w.extractLsb' 0 1))
  | 41 =>
    if w.extractLsb' 1 7 = 0 then some (.mmaE4m3 g (w.extractLsb' 16 4) (w.extractLsb' 12 4) (w.extractLsb' 8 4) (w.extractLsb' 0 1)) else
    none
  | 42 =>
    if w.extractLsb' 1 7 = 0 then some (.mmaE5m2 g (w.extractLsb' 16 4) (w.extractLsb' 12 4) (w.extractLsb' 8 4) (w.extractLsb' 0 1)) else
    none
  | 43 =>
    if w.extractLsb' 1 7 = 0 then some (.mmaBf16 g (w.extractLsb' 16 4) (w.extractLsb' 12 4) (w.extractLsb' 8 4) (w.extractLsb' 0 1)) else
    none
  | 44 =>
    if w.extractLsb' 1 7 = 0 then some (.mmaF16 g (w.extractLsb' 16 4) (w.extractLsb' 12 4) (w.extractLsb' 8 4) (w.extractLsb' 0 1)) else
    none
  | 45 =>
    some (.mmaKn4 g (w.extractLsb' 16 4) (w.extractLsb' 12 4) (w.extractLsb' 8 4) (w.extractLsb' 3 5) (w.extractLsb' 1 2) (w.extractLsb' 0 1))
  | 46 =>
    if w.extractLsb' 1 7 = 0 then some (.mmaS8 g (w.extractLsb' 16 4) (w.extractLsb' 12 4) (w.extractLsb' 8 4) (w.extractLsb' 0 1)) else
    none
  | 47 =>
    if w.extractLsb' 1 1 = 0 then some (.mvStream g (w.extractLsb' 16 4) (w.extractLsb' 12 4) (w.extractLsb' 8 4) (w.extractLsb' 5 3) (w.extractLsb' 2 3) (w.extractLsb' 0 1)) else
    none
  | 48 =>
    if w.extractLsb' 9 1 = 0 ∧ w.extractLsb' 0 4 = 0 then some (.accmovNarrow g (w.extractLsb' 14 6) (w.extractLsb' 10 4) (w.extractLsb' 8 1) (w.extractLsb' 4 4)) else
    if w.extractLsb' 8 2 = 2 ∧ w.extractLsb' 0 4 = 0 then some (.accmovWiden g (w.extractLsb' 14 6) (w.extractLsb' 10 4) (w.extractLsb' 4 4)) else
    none
  | 49 =>
    if w.extractLsb' 0 16 = 0 then some (.accZero g (w.extractLsb' 16 4)) else
    if w.extractLsb' 0 10 = 16 then some (.accDecay g (w.extractLsb' 16 4) (w.extractLsb' 10 6)) else
    if w.extractLsb' 10 6 = 0 ∧ w.extractLsb' 0 6 = 32 then some (.accSpill g (w.extractLsb' 16 4) (w.extractLsb' 6 4)) else
    if w.extractLsb' 10 6 = 0 ∧ w.extractLsb' 0 6 = 48 then some (.accFill g (w.extractLsb' 16 4) (w.extractLsb' 6 4)) else
    none
  | 50 =>
    if w.extractLsb' 12 4 = 0 ∧ w.extractLsb' 0 8 = 0 then some (.tld g (w.extractLsb' 16 4) (w.extractLsb' 8 4)) else
    if w.extractLsb' 12 4 = 0 ∧ w.extractLsb' 0 8 = 64 then some (.tst g (w.extractLsb' 16 4) (w.extractLsb' 8 4)) else
    if w.extractLsb' 0 16 = 128 then some (.tzero g (w.extractLsb' 16 4)) else
    if w.extractLsb' 0 12 = 192 then some (.ttrans g (w.extractLsb' 16 4) (w.extractLsb' 12 4)) else
    none
  | 51 =>
    if w.extractLsb' 3 5 = 0 then some (.xredAdd g (w.extractLsb' 14 6) (w.extractLsb' 8 6) (w.extractLsb' 0 3)) else
    if w.extractLsb' 3 5 = 1 then some (.xredMin g (w.extractLsb' 14 6) (w.extractLsb' 8 6) (w.extractLsb' 0 3)) else
    if w.extractLsb' 3 5 = 2 then some (.xredMax g (w.extractLsb' 14 6) (w.extractLsb' 8 6) (w.extractLsb' 0 3)) else
    if w.extractLsb' 0 8 = 25 then some (.xredAnd g (w.extractLsb' 14 6) (w.extractLsb' 8 6)) else
    if w.extractLsb' 0 8 = 33 then some (.xredOr g (w.extractLsb' 14 6) (w.extractLsb' 8 6)) else
    if w.extractLsb' 0 8 = 41 then some (.xredXor g (w.extractLsb' 14 6) (w.extractLsb' 8 6)) else
    if w.extractLsb' 3 5 = 6 then some (.xminIdx g (w.extractLsb' 14 6) (w.extractLsb' 8 6) (w.extractLsb' 0 3)) else
    if w.extractLsb' 3 5 = 7 then some (.xmaxIdx g (w.extractLsb' 14 6) (w.extractLsb' 8 6) (w.extractLsb' 0 3)) else
    if w.extractLsb' 3 5 = 8 then some (.xscanAdd g (w.extractLsb' 14 6) (w.extractLsb' 8 6) (w.extractLsb' 0 3)) else
    none
  | 52 =>
    if w.extractLsb' 0 2 = 0 then some (.pickSlot g (w.extractLsb' 14 6) (w.extractLsb' 8 6) (w.extractLsb' 2 6)) else
    if w.extractLsb' 0 2 = 1 then some (.pickRank g (w.extractLsb' 14 6) (w.extractLsb' 8 6) (w.extractLsb' 2 6)) else
    if w.extractLsb' 0 2 = 2 then some (.pickBack g (w.extractLsb' 14 6) (w.extractLsb' 8 6) (w.extractLsb' 2 6)) else
    if w.extractLsb' 0 2 = 3 then some (.pickFlip g (w.extractLsb' 14 6) (w.extractLsb' 8 6) (w.extractLsb' 2 6)) else
    none
  | 53 =>
    if w.extractLsb' 17 3 = 0 ∧ w.extractLsb' 11 3 = 0 ∧ w.extractLsb' 0 8 = 0 then some (.pollAny g (w.extractLsb' 14 3) (w.extractLsb' 8 3)) else
    if w.extractLsb' 17 3 = 0 ∧ w.extractLsb' 11 3 = 0 ∧ w.extractLsb' 0 8 = 1 then some (.pollAll g (w.extractLsb' 14 3) (w.extractLsb' 8 3)) else
    if w.extractLsb' 11 3 = 0 ∧ w.extractLsb' 0 8 = 2 then some (.pollMask g (w.extractLsb' 14 6) (w.extractLsb' 8 3)) else
    if w.extractLsb' 11 3 = 0 ∧ w.extractLsb' 0 8 = 3 then some (.pollCount g (w.extractLsb' 14 6) (w.extractLsb' 8 3)) else
    none
  | 54 =>
    if w.extractLsb' 0 6 = 0 then some (.cadv g (w.extractLsb' 16 4) (w.extractLsb' 12 4) (w.extractLsb' 6 6)) else
    if w.extractLsb' 0 6 = 1 then some (.cplace g (w.extractLsb' 16 4) (w.extractLsb' 12 4) (w.extractLsb' 6 6)) else
    if w.extractLsb' 0 6 = 2 then some (.cclip g (w.extractLsb' 16 4) (w.extractLsb' 12 4) (w.extractLsb' 6 6)) else
    if w.extractLsb' 0 6 = 3 then some (.cclipExact g (w.extractLsb' 16 4) (w.extractLsb' 12 4) (w.extractLsb' 6 6)) else
    if w.extractLsb' 0 6 = 4 then some (.cstrip g (w.extractLsb' 16 4) (w.extractLsb' 12 4) (w.extractLsb' 6 6)) else
    if w.extractLsb' 10 2 = 0 ∧ w.extractLsb' 0 6 = 5 then some (.cwrap g (w.extractLsb' 16 4) (w.extractLsb' 12 4) (w.extractLsb' 6 4)) else
    if w.extractLsb' 0 12 = 6 then some (.cwrapEntry g (w.extractLsb' 16 4) (w.extractLsb' 12 4)) else
    if w.extractLsb' 0 12 = 7 then some (.cwrapComp g (w.extractLsb' 16 4) (w.extractLsb' 12 4)) else
    if w.extractLsb' 10 2 = 0 ∧ w.extractLsb' 0 6 = 8 then some (.cunwrap g (w.extractLsb' 16 4) (w.extractLsb' 12 4) (w.extractLsb' 6 4)) else
    if w.extractLsb' 0 12 = 9 then some (.ccopy g (w.extractLsb' 16 4) (w.extractLsb' 12 4)) else
    if w.extractLsb' 0 12 = 10 then some (.cdetag g (w.extractLsb' 16 4) (w.extractLsb' 12 4)) else
    if w.extractLsb' 10 6 = 0 ∧ w.extractLsb' 0 6 = 11 then some (.cbcast g (w.extractLsb' 16 4) (w.extractLsb' 6 4)) else
    if w.extractLsb' 16 4 = 0 ∧ w.extractLsb' 0 6 = 16 then some (.creadAddr g (w.extractLsb' 12 4) (w.extractLsb' 6 6)) else
    if w.extractLsb' 16 4 = 0 ∧ w.extractLsb' 0 6 = 17 then some (.creadBase g (w.extractLsb' 12 4) (w.extractLsb' 6 6)) else
    if w.extractLsb' 16 4 = 0 ∧ w.extractLsb' 0 6 = 18 then some (.creadLen g (w.extractLsb' 12 4) (w.extractLsb' 6 6)) else
    if w.extractLsb' 16 4 = 0 ∧ w.extractLsb' 0 6 = 19 then some (.creadInfo g (w.extractLsb' 12 4) (w.extractLsb' 6 6)) else
    none
  | 55 =>
    some (.cadvImm g (w.extractLsb' 16 4) (w.extractLsb' 12 4) (w.extractLsb' 0 12))
  | 56 =>
    if w.extractLsb' 0 8 = 0 then some (.sbjRd g (w.extractLsb' 14 6) (w.extractLsb' 8 6)) else
    if w.extractLsb' 0 8 = 4 then some (.sbjWr g (w.extractLsb' 14 6) (w.extractLsb' 8 6)) else
    if w.extractLsb' 0 8 = 8 then some (.sbjLd g (w.extractLsb' 14 6) (w.extractLsb' 8 6)) else
    if w.extractLsb' 0 8 = 12 then some (.sbjSt g (w.extractLsb' 14 6) (w.extractLsb' 8 6)) else
    if w.extractLsb' 18 2 = 0 ∧ w.extractLsb' 0 8 = 16 then some (.sbjCap g (w.extractLsb' 14 4) (w.extractLsb' 8 6)) else
    if w.extractLsb' 0 8 = 20 then some (.hcause g (w.extractLsb' 14 6) (w.extractLsb' 8 6)) else
    if w.extractLsb' 14 6 = 0 ∧ w.extractLsb' 0 8 = 24 then some (.hret g (w.extractLsb' 8 6)) else
    if w.extractLsb' 14 6 = 0 ∧ w.extractLsb' 0 8 = 28 then some (.hpass g (w.extractLsb' 8 6)) else
    none
  | _ => none

/-- R30 to R37: the rows of the uniform set, by major. -/
def decodeUniform (w : Word) : Option Instr :=
  match (w.extractLsb' 24 6).toNat with
  | 1 =>
    if w.extractLsb' 0 6 = 0 then some (.uAdd (w.extractLsb' 18 6) (w.extractLsb' 12 6) (w.extractLsb' 6 6)) else
    if w.extractLsb' 0 6 = 1 then some (.uSub (w.extractLsb' 18 6) (w.extractLsb' 12 6) (w.extractLsb' 6 6)) else
    if w.extractLsb' 0 6 = 2 then some (.uMulLo (w.extractLsb' 18 6) (w.extractLsb' 12 6) (w.extractLsb' 6 6)) else
    if w.extractLsb' 0 6 = 3 then some (.uMulHiS64 (w.extractLsb' 18 6) (w.extractLsb' 12 6) (w.extractLsb' 6 6)) else
    if w.extractLsb' 0 6 = 4 then some (.uMulHiN64 (w.extractLsb' 18 6) (w.extractLsb' 12 6) (w.extractLsb' 6 6)) else
    if w.extractLsb' 0 6 = 5 then some (.uAnd (w.extractLsb' 18 6) (w.extractLsb' 12 6) (w.extractLsb' 6 6)) else
    if w.extractLsb' 0 6 = 6 then some (.uOr (w.extractLsb' 18 6) (w.extractLsb' 12 6) (w.extractLsb' 6 6)) else
    if w.extractLsb' 0 6 = 7 then some (.uXor (w.extractLsb' 18 6) (w.extractLsb' 12 6) (w.extractLsb' 6 6)) else
    if w.extractLsb' 0 6 = 8 then some (.uAndn (w.extractLsb' 18 6) (w.extractLsb' 12 6) (w.extractLsb' 6 6)) else
    if w.extractLsb' 0 6 = 9 then some (.uShl (w.extractLsb' 18 6) (w.extractLsb' 12 6) (w.extractLsb' 6 6)) else
    if w.extractLsb' 0 6 = 10 then some (.uShr (w.extractLsb' 18 6) (w.extractLsb' 12 6) (w.extractLsb' 6 6)) else
    if w.extractLsb' 0 6 = 11 then some (.uSar (w.extractLsb' 18 6) (w.extractLsb' 12 6) (w.extractLsb' 6 6)) else
    if w.extractLsb' 0 6 = 12 then some (.uMinS64 (w.extractLsb' 18 6) (w.extractLsb' 12 6) (w.extractLsb' 6 6)) else
    if w.extractLsb' 0 6 = 13 then some (.uMaxS64 (w.extractLsb' 18 6) (w.extractLsb' 12 6) (w.extractLsb' 6 6)) else
    if w.extractLsb' 0 6 = 14 then some (.uMinN64 (w.extractLsb' 18 6) (w.extractLsb' 12 6) (w.extractLsb' 6 6)) else
    if w.extractLsb' 0 6 = 15 then some (.uMaxN64 (w.extractLsb' 18 6) (w.extractLsb' 12 6) (w.extractLsb' 6 6)) else
    if w.extractLsb' 0 12 = 16 then some (.uPopc (w.extractLsb' 18 6) (w.extractLsb' 12 6)) else
    if w.extractLsb' 0 12 = 17 then some (.uClz (w.extractLsb' 18 6) (w.extractLsb' 12 6)) else
    if w.extractLsb' 0 12 = 18 then some (.uCtz (w.extractLsb' 18 6) (w.extractLsb' 12 6)) else
    none
  | 2 =>
    some (.uAddi (w.extractLsb' 18 6) (w.extractLsb' 12 6) (w.extractLsb' 0 12))
  | 3 =>
    some (.uOri (w.extractLsb' 18 6) (w.extractLsb' 12 6) (w.extractLsb' 0 12))
  | 4 =>
    some (.uAndi (w.extractLsb' 18 6) (w.extractLsb' 12 6) (w.extractLsb' 0 12))
  | 5 =>
    some (.uXori (w.extractLsb' 18 6) (w.extractLsb' 12 6) (w.extractLsb' 0 12))
  | 6 =>
    if w.extractLsb' 6 6 = 0 then some (.uShlImm (w.extractLsb' 18 6) (w.extractLsb' 12 6) (w.extractLsb' 0 6)) else
    if w.extractLsb' 6 6 = 1 then some (.uShrImm (w.extractLsb' 18 6) (w.extractLsb' 12 6) (w.extractLsb' 0 6)) else
    if w.extractLsb' 6 6 = 2 then some (.uSarImm (w.extractLsb' 18 6) (w.extractLsb' 12 6) (w.extractLsb' 0 6)) else
    if w.extractLsb' 6 6 = 3 then some (.uRotImm (w.extractLsb' 18 6) (w.extractLsb' 12 6) (w.extractLsb' 0 6)) else
    none
  | 7 =>
    some (.lui (w.extractLsb' 18 6) (w.extractLsb' 16 2) (w.extractLsb' 0 16))
  | 8 =>
    some (.bra (w.extractLsb' 0 24))
  | 9 =>
    if w.extractLsb' 21 3 = 0 then some (.bEz (w.extractLsb' 15 6) (w.extractLsb' 0 15)) else
    if w.extractLsb' 21 3 = 1 then some (.bNz (w.extractLsb' 15 6) (w.extractLsb' 0 15)) else
    if w.extractLsb' 21 3 = 2 then some (.bLz (w.extractLsb' 15 6) (w.extractLsb' 0 15)) else
    if w.extractLsb' 21 3 = 3 then some (.bGez (w.extractLsb' 15 6) (w.extractLsb' 0 15)) else
    if w.extractLsb' 21 3 = 4 then some (.bGz (w.extractLsb' 15 6) (w.extractLsb' 0 15)) else
    if w.extractLsb' 21 3 = 5 then some (.bLez (w.extractLsb' 15 6) (w.extractLsb' 0 15)) else
    none
  | 10 =>
    some (.brp (w.extractLsb' 23 1) (w.extractLsb' 20 3) (w.extractLsb' 0 20))
  | 11 =>
    if w.extractLsb' 0 24 = 0 then some .join else
    if w.extractLsb' 18 6 = 0 ∧ w.extractLsb' 0 12 = 1 then some (.ret (w.extractLsb' 12 6)) else
    if w.extractLsb' 16 2 = 0 ∧ w.extractLsb' 0 12 = 2 then some (.jmpc (w.extractLsb' 22 2) (w.extractLsb' 18 4) (w.extractLsb' 12 4)) else
    if w.extractLsb' 0 24 = 3 then some .exit else
    none
  | 12 =>
    some (.call (w.extractLsb' 0 24))
  | 13 =>
    if w.extractLsb' 21 3 = 0 then some (.loop (w.extractLsb' 15 6) (w.extractLsb' 0 15)) else
    none
  | 14 =>
    if w.extractLsb' 0 24 = 0 then some .nop else
    if w.extractLsb' 0 24 = 1 then some .trap else
    if w.extractLsb' 0 24 = 2 then some .brk else
    none
  | 16 =>
    if w.extractLsb' 0 6 = 0 then some (.mfsr (w.extractLsb' 18 6) (w.extractLsb' 6 12)) else
    if w.extractLsb' 0 6 = 1 then some (.mtsr (w.extractLsb' 18 6) (w.extractLsb' 6 12)) else
    none
  | 17 =>
    if w.extractLsb' 30 1 = 0 ∧ w.extractLsb' 0 12 = 0 then some (.rep (w.extractLsb' 18 6) (w.extractLsb' 17 1) (w.extractLsb' 16 1) (w.extractLsb' 15 1) (w.extractLsb' 12 3)) else
    none
  | 18 =>
    if w.extractLsb' 22 2 = 0 ∧ w.extractLsb' 0 10 = 0 then some (.pinPost (w.extractLsb' 10 12)) else
    if w.extractLsb' 22 2 = 1 ∧ w.extractLsb' 0 10 = 0 then some (.pinWait (w.extractLsb' 10 12)) else
    if w.extractLsb' 22 2 = 2 ∧ w.extractLsb' 0 10 = 0 then some (.pinMeet (w.extractLsb' 10 12)) else
    none
  | 19 =>
    if w.extractLsb' 21 3 = 0 ∧ w.extractLsb' 0 12 = 0 then some (.pushS (w.extractLsb' 18 3) (w.extractLsb' 12 6)) else
    if w.extractLsb' 21 3 = 0 ∧ w.extractLsb' 16 2 = 0 ∧ w.extractLsb' 0 12 = 1 then some (.pushK (w.extractLsb' 18 3) (w.extractLsb' 12 4)) else
    none
  | 20 =>
    if w.extractLsb' 15 3 = 0 ∧ w.extractLsb' 0 12 = 0 then some (.popS (w.extractLsb' 18 6) (w.extractLsb' 12 3)) else
    if w.extractLsb' 22 2 = 0 ∧ w.extractLsb' 15 3 = 0 ∧ w.extractLsb' 0 12 = 1 then some (.popK (w.extractLsb' 18 4) (w.extractLsb' 12 3)) else
    none
  | 21 =>
    some (.cpYield (w.extractLsb' 21 3) (w.extractLsb' 0 21))
  | 22 =>
    if w.extractLsb' 3 21 = 0 then some (.fence (w.extractLsb' 0 3)) else
    if w.extractLsb' 8 16 = 1024 then some (.qfence (w.extractLsb' 0 8)) else
    if w.extractLsb' 0 24 = 524288 then some .lfence else
    none
  | 23 =>
    if w.extractLsb' 22 2 = 0 ∧ w.extractLsb' 10 2 = 0 ∧ w.extractLsb' 0 6 = 0 then some (.tcfg (w.extractLsb' 18 4) (w.extractLsb' 12 6) (w.extractLsb' 6 4)) else
    none
  | 24 =>
    some (.ucap (w.extractLsb' 18 6) (w.extractLsb' 12 6) (w.extractLsb' 6 6) (w.extractLsb' 0 6))
  | 25 =>
    if w.extractLsb' 11 3 = 0 then some (.uldW (w.extractLsb' 18 6) (w.extractLsb' 14 4) (w.extractLsb' 0 11)) else
    if w.extractLsb' 11 3 = 1 then some (.uldD (w.extractLsb' 18 6) (w.extractLsb' 14 4) (w.extractLsb' 0 11)) else
    if w.extractLsb' 22 2 = 0 ∧ w.extractLsb' 11 3 = 2 then some (.uldC (w.extractLsb' 18 4) (w.extractLsb' 14 4) (w.extractLsb' 0 11)) else
    if w.extractLsb' 11 3 = 3 then some (.ustW (w.extractLsb' 18 6) (w.extractLsb' 14 4) (w.extractLsb' 0 11)) else
    if w.extractLsb' 11 3 = 4 then some (.ustD (w.extractLsb' 18 6) (w.extractLsb' 14 4) (w.extractLsb' 0 11)) else
    if w.extractLsb' 22 2 = 0 ∧ w.extractLsb' 11 3 = 5 then some (.ustC (w.extractLsb' 18 4) (w.extractLsb' 14 4) (w.extractLsb' 0 11)) else
    none
  | 26 =>
    if w.extractLsb' 0 6 = 0 then some (.spawn (w.extractLsb' 18 6) (w.extractLsb' 12 6) (w.extractLsb' 6 6)) else
    none
  | 27 =>
    if w.extractLsb' 18 6 = 0 ∧ w.extractLsb' 0 6 = 0 then some (.evtWait (w.extractLsb' 12 6) (w.extractLsb' 6 6)) else
    if w.extractLsb' 0 24 = 1 then some .evtPub else
    if w.extractLsb' 0 6 = 2 then some (.evtTest (w.extractLsb' 18 6) (w.extractLsb' 12 6) (w.extractLsb' 6 6)) else
    none
  | 28 =>
    if w.extractLsb' 0 18 = 0 then some (.seamOpen (w.extractLsb' 18 6)) else
    if w.extractLsb' 16 2 = 0 ∧ w.extractLsb' 10 2 = 0 ∧ w.extractLsb' 0 6 = 1 then some (.seamStep (w.extractLsb' 18 6) (w.extractLsb' 12 4) (w.extractLsb' 6 4)) else
    if w.extractLsb' 0 18 = 2 then some (.seamClose (w.extractLsb' 18 6)) else
    if w.extractLsb' 0 18 = 3 then some (.seamDrop (w.extractLsb' 18 6)) else
    if w.extractLsb' 0 12 = 4 then some (.seamLink (w.extractLsb' 18 6) (w.extractLsb' 12 6)) else
    if w.extractLsb' 0 12 = 5 then some (.seamState (w.extractLsb' 18 6) (w.extractLsb' 12 6)) else
    if w.extractLsb' 0 12 = 6 then some (.seamResume (w.extractLsb' 18 6) (w.extractLsb' 12 6)) else
    none
  | 29 =>
    if w.extractLsb' 16 8 = 0 ∧ w.extractLsb' 10 2 = 0 ∧ w.extractLsb' 0 6 = 0 then some (.gateCall (w.extractLsb' 12 4) (w.extractLsb' 6 4)) else
    if w.extractLsb' 0 24 = 1 then some .gateRet else
    none
  | 30 =>
    if w.extractLsb' 0 24 = 0 then some .ppoint else
    if w.extractLsb' 0 24 = 1 then some .yield else
    none
  | 31 =>
    if w.extractLsb' 16 2 = 0 ∧ w.extractLsb' 10 2 = 0 ∧ w.extractLsb' 0 6 = 0 then some (.netPut (w.extractLsb' 18 6) (w.extractLsb' 12 4) (w.extractLsb' 6 4)) else
    if w.extractLsb' 16 2 = 0 ∧ w.extractLsb' 10 2 = 0 ∧ w.extractLsb' 0 6 = 1 then some (.netGet (w.extractLsb' 18 6) (w.extractLsb' 12 4) (w.extractLsb' 6 4)) else
    if w.extractLsb' 16 2 = 0 ∧ w.extractLsb' 10 2 = 0 ∧ w.extractLsb' 0 6 = 2 then some (.netRed (w.extractLsb' 18 6) (w.extractLsb' 12 4) (w.extractLsb' 6 4)) else
    if w.extractLsb' 0 18 = 3 then some (.netDone (w.extractLsb' 18 6)) else
    none
  | 32 =>
    if w.extractLsb' 0 24 = 0 then some .soloOn else
    if w.extractLsb' 0 24 = 1 then some .soloOff else
    if w.extractLsb' 0 6 = 2 then some (.csrRd (w.extractLsb' 18 6) (w.extractLsb' 12 6) (w.extractLsb' 6 6)) else
    if w.extractLsb' 0 6 = 3 then some (.csrWr (w.extractLsb' 18 6) (w.extractLsb' 12 6) (w.extractLsb' 6 6)) else
    if w.extractLsb' 0 6 = 4 then some (.tlbInv (w.extractLsb' 18 6) (w.extractLsb' 12 6) (w.extractLsb' 6 6)) else
    if w.extractLsb' 16 2 = 0 ∧ w.extractLsb' 0 6 = 5 then some (.keyLoad (w.extractLsb' 18 6) (w.extractLsb' 12 4) (w.extractLsb' 6 6)) else
    if w.extractLsb' 0 12 = 6 then some (.keyKill (w.extractLsb' 18 6) (w.extractLsb' 12 6)) else
    if w.extractLsb' 0 6 = 7 then some (.revoke (w.extractLsb' 18 6) (w.extractLsb' 12 6) (w.extractLsb' 6 6)) else
    if w.extractLsb' 16 2 = 0 ∧ w.extractLsb' 0 6 = 8 then some (.attest (w.extractLsb' 18 6) (w.extractLsb' 12 4) (w.extractLsb' 6 6)) else
    if w.extractLsb' 18 6 = 0 ∧ w.extractLsb' 0 12 = 9 then some (.halt (w.extractLsb' 12 6)) else
    none
  | _ => none

/-- The row whose fixed bits the word has. Bit 31 tells the lane set from the uniform set (R30). -/
def decodeRow (w : Word) : Option Instr :=
  if w.getLsbD 31 then decodeUniform w else decodeLane (guardOf w) w

/-- R38: the instruction of a word, or why the word is none. -/
def decode (w : Word) : Except Reject Instr :=
  if !w.getLsbD 31 && !guardOk (guardOf w) then .error .neverGuard
  else match decodeRow w with
    | none => .error .unassigned
    | some i => if i.wellFormed then .ok i else .error .illegalField

/-- The instruction of a word, if the word is one. -/
def decodeWord? (w : Word) : Option Instr :=
  match decode w with
  | .ok i => some i
  | .error _ => none

/-- R2: four bytes make a word, the first in its low bits. -/
def wordOfBytes (b0 b1 b2 b3 : Byte) : Word := b3 ++ b2 ++ b1 ++ b0

/-- R2: the four bytes of a word, the first at the lowest address. -/
def bytesOfWord (w : Word) : List Byte :=
  [w.extractLsb' 0 8, w.extractLsb' 8 8, w.extractLsb' 16 8, w.extractLsb' 24 8]

/-- The instruction at the head of a byte string, with the bytes after it. Every instruction is 4 bytes (R30). -/
def decodeBytes : List Byte → Except Reject (Option (Instr × List Byte))
  | b0 :: b1 :: b2 :: b3 :: rest =>
    match decode (wordOfBytes b0 b1 b2 b3) with
    | .ok i => .ok (some (i, rest))
    | .error r => .error r
  | _ => .ok none

/-- The word of an instruction with switch marker `s`, from the encoding tables (R30 to R37); an event has none, and a
`rep` word carries no marker (R46). -/
def encode (s : Bool) (i : Instr) : Option Word :=
  match i with
  | .add g d a b => some (0#1 ++ b2v s ++ b2v g.neg ++ g.p ++ 1#6 ++ d ++ a ++ b ++ 0#2)
  | .sub g d a b => some (0#1 ++ b2v s ++ b2v g.neg ++ g.p ++ 1#6 ++ d ++ a ++ b ++ 1#2)
  | .addSatS32 g d a b => some (0#1 ++ b2v s ++ b2v g.neg ++ g.p ++ 1#6 ++ d ++ a ++ b ++ 2#2)
  | .subSatS32 g d a b => some (0#1 ++ b2v s ++ b2v g.neg ++ g.p ++ 1#6 ++ d ++ a ++ b ++ 3#2)
  | .minS32 g d a b => some (0#1 ++ b2v s ++ b2v g.neg ++ g.p ++ 2#6 ++ d ++ a ++ b ++ 0#2)
  | .maxS32 g d a b => some (0#1 ++ b2v s ++ b2v g.neg ++ g.p ++ 2#6 ++ d ++ a ++ b ++ 1#2)
  | .minN32 g d a b => some (0#1 ++ b2v s ++ b2v g.neg ++ g.p ++ 2#6 ++ d ++ a ++ b ++ 2#2)
  | .maxN32 g d a b => some (0#1 ++ b2v s ++ b2v g.neg ++ g.p ++ 2#6 ++ d ++ a ++ b ++ 3#2)
  | .mulLo g d a b => some (0#1 ++ b2v s ++ b2v g.neg ++ g.p ++ 3#6 ++ d ++ a ++ b ++ 0#2)
  | .mulHiS32 g d a b => some (0#1 ++ b2v s ++ b2v g.neg ++ g.p ++ 3#6 ++ d ++ a ++ b ++ 1#2)
  | .mulHiN32 g d a b => some (0#1 ++ b2v s ++ b2v g.neg ++ g.p ++ 3#6 ++ d ++ a ++ b ++ 2#2)
  | .madLo g d a b => some (0#1 ++ b2v s ++ b2v g.neg ++ g.p ++ 3#6 ++ d ++ a ++ b ++ 3#2)
  | .and g d a b => some (0#1 ++ b2v s ++ b2v g.neg ++ g.p ++ 4#6 ++ d ++ a ++ b ++ 0#2)
  | .or g d a b => some (0#1 ++ b2v s ++ b2v g.neg ++ g.p ++ 4#6 ++ d ++ a ++ b ++ 1#2)
  | .xor g d a b => some (0#1 ++ b2v s ++ b2v g.neg ++ g.p ++ 4#6 ++ d ++ a ++ b ++ 2#2)
  | .andn g d a b => some (0#1 ++ b2v s ++ b2v g.neg ++ g.p ++ 4#6 ++ d ++ a ++ b ++ 3#2)
  | .shl g d a b => some (0#1 ++ b2v s ++ b2v g.neg ++ g.p ++ 5#6 ++ d ++ a ++ b ++ 0#2)
  | .shr g d a b => some (0#1 ++ b2v s ++ b2v g.neg ++ g.p ++ 5#6 ++ d ++ a ++ b ++ 1#2)
  | .sar g d a b => some (0#1 ++ b2v s ++ b2v g.neg ++ g.p ++ 5#6 ++ d ++ a ++ b ++ 2#2)
  | .rot g d a b => some (0#1 ++ b2v s ++ b2v g.neg ++ g.p ++ 5#6 ++ d ++ a ++ b ++ 3#2)
  | .popc g d a => some (0#1 ++ b2v s ++ b2v g.neg ++ g.p ++ 6#6 ++ d ++ a ++ 0#8)
  | .clz g d a => some (0#1 ++ b2v s ++ b2v g.neg ++ g.p ++ 6#6 ++ d ++ a ++ 1#8)
  | .ctz g d a => some (0#1 ++ b2v s ++ b2v g.neg ++ g.p ++ 6#6 ++ d ++ a ++ 2#8)
  | .brev g d a => some (0#1 ++ b2v s ++ b2v g.neg ++ g.p ++ 6#6 ++ d ++ a ++ 3#8)
  | .divS32 g d a b => some (0#1 ++ b2v s ++ b2v g.neg ++ g.p ++ 7#6 ++ d ++ a ++ b ++ 0#2)
  | .divN32 g d a b => some (0#1 ++ b2v s ++ b2v g.neg ++ g.p ++ 7#6 ++ d ++ a ++ b ++ 1#2)
  | .remS32 g d a b => some (0#1 ++ b2v s ++ b2v g.neg ++ g.p ++ 7#6 ++ d ++ a ++ b ++ 2#2)
  | .remN32 g d a b => some (0#1 ++ b2v s ++ b2v g.neg ++ g.p ++ 7#6 ++ d ++ a ++ b ++ 3#2)
  | .bfxN32 g d a b => some (0#1 ++ b2v s ++ b2v g.neg ++ g.p ++ 8#6 ++ d ++ a ++ b ++ 0#2)
  | .bfxS32 g d a b => some (0#1 ++ b2v s ++ b2v g.neg ++ g.p ++ 8#6 ++ d ++ a ++ b ++ 1#2)
  | .bfi g d a b => some (0#1 ++ b2v s ++ b2v g.neg ++ g.p ++ 8#6 ++ d ++ a ++ b ++ 2#2)
  | .absS32 g d a => some (0#1 ++ b2v s ++ b2v g.neg ++ g.p ++ 8#6 ++ d ++ a ++ 3#8)
  | .addi g d a i => some (0#1 ++ b2v s ++ b2v g.neg ++ g.p ++ 9#6 ++ d ++ a ++ i)
  | .andi g d a i => some (0#1 ++ b2v s ++ b2v g.neg ++ g.p ++ 10#6 ++ d ++ a ++ i)
  | .ori g d a i => some (0#1 ++ b2v s ++ b2v g.neg ++ g.p ++ 11#6 ++ d ++ a ++ i)
  | .xori g d a i => some (0#1 ++ b2v s ++ b2v g.neg ++ g.p ++ 12#6 ++ d ++ a ++ i)
  | .shlImm g d a i => some (0#1 ++ b2v s ++ b2v g.neg ++ g.p ++ 13#6 ++ d ++ a ++ 0#3 ++ i)
  | .shrImm g d a i => some (0#1 ++ b2v s ++ b2v g.neg ++ g.p ++ 13#6 ++ d ++ a ++ 2#3 ++ i)
  | .sarImm g d a i => some (0#1 ++ b2v s ++ b2v g.neg ++ g.p ++ 13#6 ++ d ++ a ++ 4#3 ++ i)
  | .rotImm g d a i => some (0#1 ++ b2v s ++ b2v g.neg ++ g.p ++ 13#6 ++ d ++ a ++ 6#3 ++ i)
  | .icmp g p c a b t => some (0#1 ++ b2v s ++ b2v g.neg ++ g.p ++ 14#6 ++ p ++ c ++ a ++ b ++ t)
  | .icmpi g p c a i t => some (0#1 ++ b2v s ++ b2v g.neg ++ g.p ++ 15#6 ++ p ++ c ++ a ++ i ++ t)
  | .mov g d a => some (0#1 ++ b2v s ++ b2v g.neg ++ g.p ++ 16#6 ++ d ++ a ++ 0#8)
  | .bcast g d a => some (0#1 ++ b2v s ++ b2v g.neg ++ g.p ++ 16#6 ++ d ++ a ++ 1#8)
  | .movp g d => some (0#1 ++ b2v s ++ b2v g.neg ++ g.p ++ 16#6 ++ d ++ 2#14)
  | .mvp g a => some (0#1 ++ b2v s ++ b2v g.neg ++ g.p ++ 16#6 ++ 0#6 ++ a ++ 3#8)
  | .pand g d a b x y => some (0#1 ++ b2v s ++ b2v g.neg ++ g.p ++ 17#6 ++ d ++ a ++ b ++ x ++ y ++ 0#9)
  | .por g d a b x y => some (0#1 ++ b2v s ++ b2v g.neg ++ g.p ++ 17#6 ++ d ++ a ++ b ++ x ++ y ++ 1#9)
  | .pxor g d a b x y => some (0#1 ++ b2v s ++ b2v g.neg ++ g.p ++ 17#6 ++ d ++ a ++ b ++ x ++ y ++ 2#9)
  | .pandn g d a b x y => some (0#1 ++ b2v s ++ b2v g.neg ++ g.p ++ 17#6 ++ d ++ a ++ b ++ x ++ y ++ 3#9)
  | .ldi g d i => some (0#1 ++ b2v s ++ b2v g.neg ++ g.p ++ 18#6 ++ d ++ i)
  | .rdsr g d r => some (0#1 ++ b2v s ++ b2v g.neg ++ g.p ++ 19#6 ++ d ++ r ++ 0#2)
  | .faddF32 g d a b => some (0#1 ++ b2v s ++ b2v g.neg ++ g.p ++ 20#6 ++ d ++ a ++ b ++ 0#2)
  | .fsubF32 g d a b => some (0#1 ++ b2v s ++ b2v g.neg ++ g.p ++ 20#6 ++ d ++ a ++ b ++ 1#2)
  | .fmulF32 g d a b => some (0#1 ++ b2v s ++ b2v g.neg ++ g.p ++ 20#6 ++ d ++ a ++ b ++ 2#2)
  | .ffmaF32 g d a b => some (0#1 ++ b2v s ++ b2v g.neg ++ g.p ++ 20#6 ++ d ++ a ++ b ++ 3#2)
  | .faddF16x2 g d a b => some (0#1 ++ b2v s ++ b2v g.neg ++ g.p ++ 21#6 ++ d ++ a ++ b ++ 0#2)
  | .fsubF16x2 g d a b => some (0#1 ++ b2v s ++ b2v g.neg ++ g.p ++ 21#6 ++ d ++ a ++ b ++ 1#2)
  | .fmulF16x2 g d a b => some (0#1 ++ b2v s ++ b2v g.neg ++ g.p ++ 21#6 ++ d ++ a ++ b ++ 2#2)
  | .ffmaF16x2 g d a b => some (0#1 ++ b2v s ++ b2v g.neg ++ g.p ++ 21#6 ++ d ++ a ++ b ++ 3#2)
  | .faddBf16x2 g d a b => some (0#1 ++ b2v s ++ b2v g.neg ++ g.p ++ 22#6 ++ d ++ a ++ b ++ 0#2)
  | .fsubBf16x2 g d a b => some (0#1 ++ b2v s ++ b2v g.neg ++ g.p ++ 22#6 ++ d ++ a ++ b ++ 1#2)
  | .fmulBf16x2 g d a b => some (0#1 ++ b2v s ++ b2v g.neg ++ g.p ++ 22#6 ++ d ++ a ++ b ++ 2#2)
  | .ffmaBf16x2 g d a b => some (0#1 ++ b2v s ++ b2v g.neg ++ g.p ++ 22#6 ++ d ++ a ++ b ++ 3#2)
  | .fminF32 g d a b => some (0#1 ++ b2v s ++ b2v g.neg ++ g.p ++ 23#6 ++ d ++ a ++ b ++ 0#2)
  | .fmaxF32 g d a b => some (0#1 ++ b2v s ++ b2v g.neg ++ g.p ++ 23#6 ++ d ++ a ++ b ++ 1#2)
  | .fabsF32 g d a => some (0#1 ++ b2v s ++ b2v g.neg ++ g.p ++ 23#6 ++ d ++ a ++ 2#8)
  | .fnegF32 g d a => some (0#1 ++ b2v s ++ b2v g.neg ++ g.p ++ 23#6 ++ d ++ a ++ 3#8)
  | .frcp g d a => some (0#1 ++ b2v s ++ b2v g.neg ++ g.p ++ 24#6 ++ d ++ a ++ 0#8)
  | .frsq g d a => some (0#1 ++ b2v s ++ b2v g.neg ++ g.p ++ 24#6 ++ d ++ a ++ 4#8)
  | .fsqrt g d a => some (0#1 ++ b2v s ++ b2v g.neg ++ g.p ++ 24#6 ++ d ++ a ++ 8#8)
  | .fexp2 g d a => some (0#1 ++ b2v s ++ b2v g.neg ++ g.p ++ 24#6 ++ d ++ a ++ 12#8)
  | .flog2 g d a => some (0#1 ++ b2v s ++ b2v g.neg ++ g.p ++ 24#6 ++ d ++ a ++ 16#8)
  | .fsin g d a => some (0#1 ++ b2v s ++ b2v g.neg ++ g.p ++ 24#6 ++ d ++ a ++ 20#8)
  | .fcos g d a => some (0#1 ++ b2v s ++ b2v g.neg ++ g.p ++ 24#6 ++ d ++ a ++ 24#8)
  | .ftanh g d a => some (0#1 ++ b2v s ++ b2v g.neg ++ g.p ++ 24#6 ++ d ++ a ++ 28#8)
  | .frndRn g d a => some (0#1 ++ b2v s ++ b2v g.neg ++ g.p ++ 25#6 ++ d ++ a ++ 0#8)
  | .frndRz g d a => some (0#1 ++ b2v s ++ b2v g.neg ++ g.p ++ 25#6 ++ d ++ a ++ 1#8)
  | .frndRd g d a => some (0#1 ++ b2v s ++ b2v g.neg ++ g.p ++ 25#6 ++ d ++ a ++ 2#8)
  | .frndRu g d a => some (0#1 ++ b2v s ++ b2v g.neg ++ g.p ++ 25#6 ++ d ++ a ++ 3#8)
  | .fcmp g p c a b t => some (0#1 ++ b2v s ++ b2v g.neg ++ g.p ++ 26#6 ++ p ++ c ++ a ++ b ++ t)
  | .fclass g d a => some (0#1 ++ b2v s ++ b2v g.neg ++ g.p ++ 27#6 ++ d ++ a ++ 0#8)
  | .cvtRn g d a t u => some (0#1 ++ b2v s ++ b2v g.neg ++ g.p ++ 28#6 ++ d ++ a ++ t ++ u)
  | .cvtRz g d a t u => some (0#1 ++ b2v s ++ b2v g.neg ++ g.p ++ 29#6 ++ d ++ a ++ t ++ u)
  | .cvtSr g d a t u => some (0#1 ++ b2v s ++ b2v g.neg ++ g.p ++ 30#6 ++ d ++ a ++ t ++ u)
  | .cvtDyn g d a t u => some (0#1 ++ b2v s ++ b2v g.neg ++ g.p ++ 31#6 ++ d ++ a ++ t ++ u)
  | .kpack g d a t => some (0#1 ++ b2v s ++ b2v g.neg ++ g.p ++ 32#6 ++ d ++ a ++ 0#6 ++ t)
  | .kunpack g d a => some (0#1 ++ b2v s ++ b2v g.neg ++ g.p ++ 33#6 ++ d ++ a ++ 0#8)
  | .ld g d c z o => some (0#1 ++ b2v s ++ b2v g.neg ++ g.p ++ 34#6 ++ d ++ c ++ z ++ o)
  | .st g d c z o => some (0#1 ++ b2v s ++ b2v g.neg ++ g.p ++ 35#6 ++ d ++ c ++ z ++ o)
  | .ldoRlx g d c z k => some (0#1 ++ b2v s ++ b2v g.neg ++ g.p ++ 36#6 ++ d ++ c ++ z ++ 0#2 ++ k ++ 0#3)
  | .ldoAcq g d c z k => some (0#1 ++ b2v s ++ b2v g.neg ++ g.p ++ 36#6 ++ d ++ c ++ z ++ 1#2 ++ k ++ 0#3)
  | .ldoFe g d c k => some (0#1 ++ b2v s ++ b2v g.neg ++ g.p ++ 36#6 ++ d ++ c ++ 2#4 ++ k ++ 0#3)
  | .stoRlx g d c z k => some (0#1 ++ b2v s ++ b2v g.neg ++ g.p ++ 37#6 ++ d ++ c ++ z ++ 0#2 ++ k ++ 0#3)
  | .stoRel g d c z k => some (0#1 ++ b2v s ++ b2v g.neg ++ g.p ++ 37#6 ++ d ++ c ++ z ++ 1#2 ++ k ++ 0#3)
  | .stoFill g d c k => some (0#1 ++ b2v s ++ b2v g.neg ++ g.p ++ 37#6 ++ d ++ c ++ 2#4 ++ k ++ 0#3)
  | .atom g d c b o => some (0#1 ++ b2v s ++ b2v g.neg ++ g.p ++ 38#6 ++ d ++ c ++ b ++ o)
  | .red g k c b o => some (0#1 ++ b2v s ++ b2v g.neg ++ g.p ++ 39#6 ++ k ++ 0#3 ++ c ++ b ++ o)
  | .cas g d c b k z => some (0#1 ++ b2v s ++ b2v g.neg ++ g.p ++ 40#6 ++ d ++ c ++ b ++ k ++ z)
  | .mmaE4m3 g c a b k => some (0#1 ++ b2v s ++ b2v g.neg ++ g.p ++ 41#6 ++ c ++ a ++ b ++ 0#7 ++ k)
  | .mmaE5m2 g c a b k => some (0#1 ++ b2v s ++ b2v g.neg ++ g.p ++ 42#6 ++ c ++ a ++ b ++ 0#7 ++ k)
  | .mmaBf16 g c a b k => some (0#1 ++ b2v s ++ b2v g.neg ++ g.p ++ 43#6 ++ c ++ a ++ b ++ 0#7 ++ k)
  | .mmaF16 g c a b k => some (0#1 ++ b2v s ++ b2v g.neg ++ g.p ++ 44#6 ++ c ++ a ++ b ++ 0#7 ++ k)
  | .mmaKn4 g c a b v w k => some (0#1 ++ b2v s ++ b2v g.neg ++ g.p ++ 45#6 ++ c ++ a ++ b ++ v ++ w ++ k)
  | .mmaS8 g c a b k => some (0#1 ++ b2v s ++ b2v g.neg ++ g.p ++ 46#6 ++ c ++ a ++ b ++ 0#7 ++ k)
  | .mvStream g c v r f m k => some (0#1 ++ b2v s ++ b2v g.neg ++ g.p ++ 47#6 ++ c ++ v ++ r ++ f ++ m ++ 0#1 ++ k)
  | .accmovNarrow g d c x t => some (0#1 ++ b2v s ++ b2v g.neg ++ g.p ++ 48#6 ++ d ++ c ++ 0#1 ++ x ++ t ++ 0#4)
  | .accmovWiden g d c t => some (0#1 ++ b2v s ++ b2v g.neg ++ g.p ++ 48#6 ++ d ++ c ++ 2#2 ++ t ++ 0#4)
  | .accZero g c => some (0#1 ++ b2v s ++ b2v g.neg ++ g.p ++ 49#6 ++ c ++ 0#16)
  | .accDecay g c d => some (0#1 ++ b2v s ++ b2v g.neg ++ g.p ++ 49#6 ++ c ++ d ++ 16#10)
  | .accSpill g c r => some (0#1 ++ b2v s ++ b2v g.neg ++ g.p ++ 49#6 ++ c ++ 0#6 ++ r ++ 32#6)
  | .accFill g c r => some (0#1 ++ b2v s ++ b2v g.neg ++ g.p ++ 49#6 ++ c ++ 0#6 ++ r ++ 48#6)
  | .tld g t r => some (0#1 ++ b2v s ++ b2v g.neg ++ g.p ++ 50#6 ++ t ++ 0#4 ++ r ++ 0#8)
  | .tst g t r => some (0#1 ++ b2v s ++ b2v g.neg ++ g.p ++ 50#6 ++ t ++ 0#4 ++ r ++ 64#8)
  | .tzero g t => some (0#1 ++ b2v s ++ b2v g.neg ++ g.p ++ 50#6 ++ t ++ 128#16)
  | .ttrans g t u => some (0#1 ++ b2v s ++ b2v g.neg ++ g.p ++ 50#6 ++ t ++ u ++ 192#12)
  | .xredAdd g d a t => some (0#1 ++ b2v s ++ b2v g.neg ++ g.p ++ 51#6 ++ d ++ a ++ 0#5 ++ t)
  | .xredMin g d a t => some (0#1 ++ b2v s ++ b2v g.neg ++ g.p ++ 51#6 ++ d ++ a ++ 1#5 ++ t)
  | .xredMax g d a t => some (0#1 ++ b2v s ++ b2v g.neg ++ g.p ++ 51#6 ++ d ++ a ++ 2#5 ++ t)
  | .xredAnd g d a => some (0#1 ++ b2v s ++ b2v g.neg ++ g.p ++ 51#6 ++ d ++ a ++ 25#8)
  | .xredOr g d a => some (0#1 ++ b2v s ++ b2v g.neg ++ g.p ++ 51#6 ++ d ++ a ++ 33#8)
  | .xredXor g d a => some (0#1 ++ b2v s ++ b2v g.neg ++ g.p ++ 51#6 ++ d ++ a ++ 41#8)
  | .xminIdx g d a t => some (0#1 ++ b2v s ++ b2v g.neg ++ g.p ++ 51#6 ++ d ++ a ++ 6#5 ++ t)
  | .xmaxIdx g d a t => some (0#1 ++ b2v s ++ b2v g.neg ++ g.p ++ 51#6 ++ d ++ a ++ 7#5 ++ t)
  | .xscanAdd g d a t => some (0#1 ++ b2v s ++ b2v g.neg ++ g.p ++ 51#6 ++ d ++ a ++ 8#5 ++ t)
  | .pickSlot g d a b => some (0#1 ++ b2v s ++ b2v g.neg ++ g.p ++ 52#6 ++ d ++ a ++ b ++ 0#2)
  | .pickRank g d a b => some (0#1 ++ b2v s ++ b2v g.neg ++ g.p ++ 52#6 ++ d ++ a ++ b ++ 1#2)
  | .pickBack g d a b => some (0#1 ++ b2v s ++ b2v g.neg ++ g.p ++ 52#6 ++ d ++ a ++ b ++ 2#2)
  | .pickFlip g d a b => some (0#1 ++ b2v s ++ b2v g.neg ++ g.p ++ 52#6 ++ d ++ a ++ b ++ 3#2)
  | .pollAny g d a => some (0#1 ++ b2v s ++ b2v g.neg ++ g.p ++ 53#6 ++ 0#3 ++ d ++ 0#3 ++ a ++ 0#8)
  | .pollAll g d a => some (0#1 ++ b2v s ++ b2v g.neg ++ g.p ++ 53#6 ++ 0#3 ++ d ++ 0#3 ++ a ++ 1#8)
  | .pollMask g d a => some (0#1 ++ b2v s ++ b2v g.neg ++ g.p ++ 53#6 ++ d ++ 0#3 ++ a ++ 2#8)
  | .pollCount g d a => some (0#1 ++ b2v s ++ b2v g.neg ++ g.p ++ 53#6 ++ d ++ 0#3 ++ a ++ 3#8)
  | .cadv g d a b => some (0#1 ++ b2v s ++ b2v g.neg ++ g.p ++ 54#6 ++ d ++ a ++ b ++ 0#6)
  | .cplace g d a b => some (0#1 ++ b2v s ++ b2v g.neg ++ g.p ++ 54#6 ++ d ++ a ++ b ++ 1#6)
  | .cclip g d a b => some (0#1 ++ b2v s ++ b2v g.neg ++ g.p ++ 54#6 ++ d ++ a ++ b ++ 2#6)
  | .cclipExact g d a b => some (0#1 ++ b2v s ++ b2v g.neg ++ g.p ++ 54#6 ++ d ++ a ++ b ++ 3#6)
  | .cstrip g d a b => some (0#1 ++ b2v s ++ b2v g.neg ++ g.p ++ 54#6 ++ d ++ a ++ b ++ 4#6)
  | .cwrap g d a b => some (0#1 ++ b2v s ++ b2v g.neg ++ g.p ++ 54#6 ++ d ++ a ++ 0#2 ++ b ++ 5#6)
  | .cwrapEntry g d a => some (0#1 ++ b2v s ++ b2v g.neg ++ g.p ++ 54#6 ++ d ++ a ++ 6#12)
  | .cwrapComp g d a => some (0#1 ++ b2v s ++ b2v g.neg ++ g.p ++ 54#6 ++ d ++ a ++ 7#12)
  | .cunwrap g d a b => some (0#1 ++ b2v s ++ b2v g.neg ++ g.p ++ 54#6 ++ d ++ a ++ 0#2 ++ b ++ 8#6)
  | .ccopy g d a => some (0#1 ++ b2v s ++ b2v g.neg ++ g.p ++ 54#6 ++ d ++ a ++ 9#12)
  | .cdetag g d a => some (0#1 ++ b2v s ++ b2v g.neg ++ g.p ++ 54#6 ++ d ++ a ++ 10#12)
  | .cbcast g d b => some (0#1 ++ b2v s ++ b2v g.neg ++ g.p ++ 54#6 ++ d ++ 0#6 ++ b ++ 11#6)
  | .creadAddr g a b => some (0#1 ++ b2v s ++ b2v g.neg ++ g.p ++ 54#6 ++ 0#4 ++ a ++ b ++ 16#6)
  | .creadBase g a b => some (0#1 ++ b2v s ++ b2v g.neg ++ g.p ++ 54#6 ++ 0#4 ++ a ++ b ++ 17#6)
  | .creadLen g a b => some (0#1 ++ b2v s ++ b2v g.neg ++ g.p ++ 54#6 ++ 0#4 ++ a ++ b ++ 18#6)
  | .creadInfo g a b => some (0#1 ++ b2v s ++ b2v g.neg ++ g.p ++ 54#6 ++ 0#4 ++ a ++ b ++ 19#6)
  | .cadvImm g d a i => some (0#1 ++ b2v s ++ b2v g.neg ++ g.p ++ 55#6 ++ d ++ a ++ i)
  | .sbjRd g d a => some (0#1 ++ b2v s ++ b2v g.neg ++ g.p ++ 56#6 ++ d ++ a ++ 0#8)
  | .sbjWr g d a => some (0#1 ++ b2v s ++ b2v g.neg ++ g.p ++ 56#6 ++ d ++ a ++ 4#8)
  | .sbjLd g d a => some (0#1 ++ b2v s ++ b2v g.neg ++ g.p ++ 56#6 ++ d ++ a ++ 8#8)
  | .sbjSt g d a => some (0#1 ++ b2v s ++ b2v g.neg ++ g.p ++ 56#6 ++ d ++ a ++ 12#8)
  | .sbjCap g d a => some (0#1 ++ b2v s ++ b2v g.neg ++ g.p ++ 56#6 ++ 0#2 ++ d ++ a ++ 16#8)
  | .hcause g d i => some (0#1 ++ b2v s ++ b2v g.neg ++ g.p ++ 56#6 ++ d ++ i ++ 20#8)
  | .hret g i => some (0#1 ++ b2v s ++ b2v g.neg ++ g.p ++ 56#6 ++ 0#6 ++ i ++ 24#8)
  | .hpass g a => some (0#1 ++ b2v s ++ b2v g.neg ++ g.p ++ 56#6 ++ 0#6 ++ a ++ 28#8)
  | .uAdd d a b => some (1#1 ++ b2v s ++ 1#6 ++ d ++ a ++ b ++ 0#6)
  | .uSub d a b => some (1#1 ++ b2v s ++ 1#6 ++ d ++ a ++ b ++ 1#6)
  | .uMulLo d a b => some (1#1 ++ b2v s ++ 1#6 ++ d ++ a ++ b ++ 2#6)
  | .uMulHiS64 d a b => some (1#1 ++ b2v s ++ 1#6 ++ d ++ a ++ b ++ 3#6)
  | .uMulHiN64 d a b => some (1#1 ++ b2v s ++ 1#6 ++ d ++ a ++ b ++ 4#6)
  | .uAnd d a b => some (1#1 ++ b2v s ++ 1#6 ++ d ++ a ++ b ++ 5#6)
  | .uOr d a b => some (1#1 ++ b2v s ++ 1#6 ++ d ++ a ++ b ++ 6#6)
  | .uXor d a b => some (1#1 ++ b2v s ++ 1#6 ++ d ++ a ++ b ++ 7#6)
  | .uAndn d a b => some (1#1 ++ b2v s ++ 1#6 ++ d ++ a ++ b ++ 8#6)
  | .uShl d a b => some (1#1 ++ b2v s ++ 1#6 ++ d ++ a ++ b ++ 9#6)
  | .uShr d a b => some (1#1 ++ b2v s ++ 1#6 ++ d ++ a ++ b ++ 10#6)
  | .uSar d a b => some (1#1 ++ b2v s ++ 1#6 ++ d ++ a ++ b ++ 11#6)
  | .uMinS64 d a b => some (1#1 ++ b2v s ++ 1#6 ++ d ++ a ++ b ++ 12#6)
  | .uMaxS64 d a b => some (1#1 ++ b2v s ++ 1#6 ++ d ++ a ++ b ++ 13#6)
  | .uMinN64 d a b => some (1#1 ++ b2v s ++ 1#6 ++ d ++ a ++ b ++ 14#6)
  | .uMaxN64 d a b => some (1#1 ++ b2v s ++ 1#6 ++ d ++ a ++ b ++ 15#6)
  | .uPopc d a => some (1#1 ++ b2v s ++ 1#6 ++ d ++ a ++ 16#12)
  | .uClz d a => some (1#1 ++ b2v s ++ 1#6 ++ d ++ a ++ 17#12)
  | .uCtz d a => some (1#1 ++ b2v s ++ 1#6 ++ d ++ a ++ 18#12)
  | .uAddi d a i => some (1#1 ++ b2v s ++ 2#6 ++ d ++ a ++ i)
  | .uOri d a i => some (1#1 ++ b2v s ++ 3#6 ++ d ++ a ++ i)
  | .uAndi d a i => some (1#1 ++ b2v s ++ 4#6 ++ d ++ a ++ i)
  | .uXori d a i => some (1#1 ++ b2v s ++ 5#6 ++ d ++ a ++ i)
  | .uShlImm d a i => some (1#1 ++ b2v s ++ 6#6 ++ d ++ a ++ 0#6 ++ i)
  | .uShrImm d a i => some (1#1 ++ b2v s ++ 6#6 ++ d ++ a ++ 1#6 ++ i)
  | .uSarImm d a i => some (1#1 ++ b2v s ++ 6#6 ++ d ++ a ++ 2#6 ++ i)
  | .uRotImm d a i => some (1#1 ++ b2v s ++ 6#6 ++ d ++ a ++ 3#6 ++ i)
  | .lui d h i => some (1#1 ++ b2v s ++ 7#6 ++ d ++ h ++ i)
  | .bra o => some (1#1 ++ b2v s ++ 8#6 ++ o)
  | .bEz a o => some (1#1 ++ b2v s ++ 9#6 ++ 0#3 ++ a ++ o)
  | .bNz a o => some (1#1 ++ b2v s ++ 9#6 ++ 1#3 ++ a ++ o)
  | .bLz a o => some (1#1 ++ b2v s ++ 9#6 ++ 2#3 ++ a ++ o)
  | .bGez a o => some (1#1 ++ b2v s ++ 9#6 ++ 3#3 ++ a ++ o)
  | .bGz a o => some (1#1 ++ b2v s ++ 9#6 ++ 4#3 ++ a ++ o)
  | .bLez a o => some (1#1 ++ b2v s ++ 9#6 ++ 5#3 ++ a ++ o)
  | .brp n p o => some (1#1 ++ b2v s ++ 10#6 ++ n ++ p ++ o)
  | .join => some (1#1 ++ b2v s ++ 11#6 ++ 0#24)
  | .ret a => some (1#1 ++ b2v s ++ 11#6 ++ 0#6 ++ a ++ 1#12)
  | .jmpc l d a => some (1#1 ++ b2v s ++ 11#6 ++ l ++ d ++ 0#2 ++ a ++ 2#12)
  | .exit => some (1#1 ++ b2v s ++ 11#6 ++ 3#24)
  | .call o => some (1#1 ++ b2v s ++ 12#6 ++ o)
  | .loop a o => some (1#1 ++ b2v s ++ 13#6 ++ 0#3 ++ a ++ o)
  | .nop => some (1#1 ++ b2v s ++ 14#6 ++ 0#24)
  | .trap => some (1#1 ++ b2v s ++ 14#6 ++ 1#24)
  | .brk => some (1#1 ++ b2v s ++ 14#6 ++ 2#24)
  | .mfsr d r => some (1#1 ++ b2v s ++ 16#6 ++ d ++ r ++ 0#6)
  | .mtsr d r => some (1#1 ++ b2v s ++ 16#6 ++ d ++ r ++ 1#6)
  | .rep c x y z t => some (1#1 ++ 0#1 ++ 17#6 ++ c ++ x ++ y ++ z ++ t ++ 0#12)
  | .pinPost h => some (1#1 ++ b2v s ++ 18#6 ++ 0#2 ++ h ++ 0#10)
  | .pinWait h => some (1#1 ++ b2v s ++ 18#6 ++ 1#2 ++ h ++ 0#10)
  | .pinMeet h => some (1#1 ++ b2v s ++ 18#6 ++ 2#2 ++ h ++ 0#10)
  | .pushS q a => some (1#1 ++ b2v s ++ 19#6 ++ 0#3 ++ q ++ a ++ 0#12)
  | .pushK q a => some (1#1 ++ b2v s ++ 19#6 ++ 0#3 ++ q ++ 0#2 ++ a ++ 1#12)
  | .popS d q => some (1#1 ++ b2v s ++ 20#6 ++ d ++ 0#3 ++ q ++ 0#12)
  | .popK d q => some (1#1 ++ b2v s ++ 20#6 ++ 0#2 ++ d ++ 0#3 ++ q ++ 1#12)
  | .cpYield q o => some (1#1 ++ b2v s ++ 21#6 ++ q ++ o)
  | .fence k => some (1#1 ++ b2v s ++ 22#6 ++ 0#21 ++ k)
  | .qfence m => some (1#1 ++ b2v s ++ 22#6 ++ 1024#16 ++ m)
  | .lfence => some (1#1 ++ b2v s ++ 22#6 ++ 524288#24)
  | .tcfg t a n => some (1#1 ++ b2v s ++ 23#6 ++ 0#2 ++ t ++ a ++ 0#2 ++ n ++ 0#6)
  | .ucap d a b f => some (1#1 ++ b2v s ++ 24#6 ++ d ++ a ++ b ++ f)
  | .uldW d k o => some (1#1 ++ b2v s ++ 25#6 ++ d ++ k ++ 0#3 ++ o)
  | .uldD d k o => some (1#1 ++ b2v s ++ 25#6 ++ d ++ k ++ 1#3 ++ o)
  | .uldC d k o => some (1#1 ++ b2v s ++ 25#6 ++ 0#2 ++ d ++ k ++ 2#3 ++ o)
  | .ustW d k o => some (1#1 ++ b2v s ++ 25#6 ++ d ++ k ++ 3#3 ++ o)
  | .ustD d k o => some (1#1 ++ b2v s ++ 25#6 ++ d ++ k ++ 4#3 ++ o)
  | .ustC d k o => some (1#1 ++ b2v s ++ 25#6 ++ 0#2 ++ d ++ k ++ 5#3 ++ o)
  | .spawn d a b => some (1#1 ++ b2v s ++ 26#6 ++ d ++ a ++ b ++ 0#6)
  | .evtWait a b => some (1#1 ++ b2v s ++ 27#6 ++ 0#6 ++ a ++ b ++ 0#6)
  | .evtPub => some (1#1 ++ b2v s ++ 27#6 ++ 1#24)
  | .evtTest d a b => some (1#1 ++ b2v s ++ 27#6 ++ d ++ a ++ b ++ 2#6)
  | .seamOpen d => some (1#1 ++ b2v s ++ 28#6 ++ d ++ 0#18)
  | .seamStep d a b => some (1#1 ++ b2v s ++ 28#6 ++ d ++ 0#2 ++ a ++ 0#2 ++ b ++ 1#6)
  | .seamClose d => some (1#1 ++ b2v s ++ 28#6 ++ d ++ 2#18)
  | .seamDrop d => some (1#1 ++ b2v s ++ 28#6 ++ d ++ 3#18)
  | .seamLink d a => some (1#1 ++ b2v s ++ 28#6 ++ d ++ a ++ 4#12)
  | .seamState d a => some (1#1 ++ b2v s ++ 28#6 ++ d ++ a ++ 5#12)
  | .seamResume d a => some (1#1 ++ b2v s ++ 28#6 ++ d ++ a ++ 6#12)
  | .gateCall a b => some (1#1 ++ b2v s ++ 29#6 ++ 0#8 ++ a ++ 0#2 ++ b ++ 0#6)
  | .gateRet => some (1#1 ++ b2v s ++ 29#6 ++ 1#24)
  | .ppoint => some (1#1 ++ b2v s ++ 30#6 ++ 0#24)
  | .yield => some (1#1 ++ b2v s ++ 30#6 ++ 1#24)
  | .netPut d a b => some (1#1 ++ b2v s ++ 31#6 ++ d ++ 0#2 ++ a ++ 0#2 ++ b ++ 0#6)
  | .netGet d a b => some (1#1 ++ b2v s ++ 31#6 ++ d ++ 0#2 ++ a ++ 0#2 ++ b ++ 1#6)
  | .netRed d a b => some (1#1 ++ b2v s ++ 31#6 ++ d ++ 0#2 ++ a ++ 0#2 ++ b ++ 2#6)
  | .netDone d => some (1#1 ++ b2v s ++ 31#6 ++ d ++ 3#18)
  | .soloOn => some (1#1 ++ b2v s ++ 32#6 ++ 0#24)
  | .soloOff => some (1#1 ++ b2v s ++ 32#6 ++ 1#24)
  | .csrRd d a b => some (1#1 ++ b2v s ++ 32#6 ++ d ++ a ++ b ++ 2#6)
  | .csrWr d a b => some (1#1 ++ b2v s ++ 32#6 ++ d ++ a ++ b ++ 3#6)
  | .tlbInv d a b => some (1#1 ++ b2v s ++ 32#6 ++ d ++ a ++ b ++ 4#6)
  | .keyLoad d a b => some (1#1 ++ b2v s ++ 32#6 ++ d ++ 0#2 ++ a ++ b ++ 5#6)
  | .keyKill d a => some (1#1 ++ b2v s ++ 32#6 ++ d ++ a ++ 6#12)
  | .revoke d a b => some (1#1 ++ b2v s ++ 32#6 ++ d ++ a ++ b ++ 7#6)
  | .attest d a b => some (1#1 ++ b2v s ++ 32#6 ++ d ++ 0#2 ++ a ++ b ++ 8#6)
  | .halt a => some (1#1 ++ b2v s ++ 32#6 ++ 0#6 ++ a ++ 9#12)
  | .longResultReturn .. => none
  | .commit .. => none
  | .implicitMarker .. => none
  | .pillowUnpark .. => none
  | .gatherTimeout .. => none
  | .handlerStrandPlace .. => none
  | .absenceExpiry .. => none
  | .stragglerStart .. => none
  | .freshStrandReturn .. => none
  | .rollback .. => none
  | .apply .. => none
  | .fill .. => none
  | .evict .. => none
  | .readStaged .. => none
  | .readL1 .. => none
  | .readPoc .. => none
  | .modify .. => none
  | .feWaitTake .. => none
  | .feWaitFill .. => none
  | .copy .. => none
  | .stream .. => none
  | .complete .. => none
  | .layoutFill .. => none
  | .storageRead .. => none
  | .storageWrite .. => none
  | .send .. => none
  | .deliver .. => none
  | .orphanDeferredFile .. => none
  | .allreduce .. => none
  | .broadcast .. => none
  | .netBarrier .. => none
  | .seedPlace .. => none
  | .teamCompletion .. => none
  | .auditReplay .. => none
  | .auditReplayDrop .. => none
  | .hangReport .. => none
  | .preemptRequest .. => none
  | .preemptTimeout .. => none
  | .teamSave .. => none
  | .bindPlace .. => none
  | .bindStop .. => none
  | .bindResume .. => none
  | .bindRelease .. => none
  | .linkPermitReturn .. => none
  | .notify .. => none
  | .ringLoad .. => none
  | .ringStart .. => none
  | .ringUnload .. => none
  | .ringCancel .. => none
  | .vcpRegisterWrite .. => none
  | .flr .. => none
  | .flrComplete .. => none
  | .uncorrectableError .. => none
  | .targetedSelfTest .. => none
  | .clockStretch .. => none
  | .clockGate .. => none
  | .powerGate .. => none
  | .coreWake .. => none
  | .sweep .. => none
  | .packageReset .. => none
  | .debugUnlock .. => none
  | .partitionRecut .. => none
  | .compensationSpawn .. => none
  | .flitReplay .. => none
  | .targetUnreachable .. => none
  | .leaseReceive .. => none
  | .leaseLost .. => none
  | .leaseRenew .. => none
  | .leaderClaim .. => none
  | .imageReceive .. => none
  | .rosterWrite .. => none
  | .admission .. => none
  | .memberLost .. => none
  | .watchRangeArm .. => none

/-- The bytes at the place of an instruction whose bits the opcode table numbers as `w`, and the decoder's answer. -/
def decodeTableWord (_nbits w : Nat) : Option Instr :=
  match bytesOfWord (BitVec.ofNat 32 w) with
  | [b0, b1, b2, b3] => decodeWord? (wordOfBytes b0 b1 b2 b3)
  | _ => none

end Sys2Proof
end

