-- ==== Sys2Proof/Config.lean ====
section
/-! DEFINITION. What the manual leaves open, and the constants an implementation fixes.

The `opaque` constants have no body: nothing can be proved of the values they give, so a statement about a run holds
whatever they are. -/

namespace Sys2Proof.Config

/-! ### Free values -/

/-- The choice taken at a point where the manual allows several outcomes, by the step's number and by which choice of
that step it is: which agent moves next (R305), the order of lanes (R54), whether a turn passes (R59), whether a thread
moves under compaction (R60), whether a reduction finds its port entry still pending (R277), which teams the auditor
samples (R280). -/
opaque pick : Nat → Nat → Nat

/-- The cycles that pass in a step beyond its first (timing is left open: R1, R106). -/
opaque elapsed : Nat → Nat

/-- The cluster barrier handles that a launch record of an image has Preder install, with their expected counts: by image handle
and launch index (R266 says that the record supplies the counts; R341 gives it no field for them). -/
opaque clusterHandles : Nat → Nat → List (Nat × Nat)

/-- The syndrome that an error's record holds (R278 does not say what it is). -/
opaque syndrome : Nat → BitVec 64

/-- Bytes whose value the manual leaves unspecified (R399). -/
opaque freeByte : Nat → Nat → Byte

/-! ### Secrets and internal functions -/

/-- The fresh key the root of trust makes for slot 0 at a reset (R324). -/
opaque freshKey : Nat → BitVec 256

/-- The root of trust's signing key (R334): the identifiers of the trees, and by tree, leaf and chain the secrets of their leaves;
chain 67 gives the leaf's random value. -/
opaque hssTree : Nat → BitVec 128
opaque hssSecret : Nat → Nat → Nat → BitVec 256

/-- The package tree key of a reset (R323). -/
opaque treeKey : Nat → BitVec 256

/-- The ECC check bytes of an encrypted line: their construction is internal (R321). -/
opaque eccBytes : List Byte → BitVec 64

/-- The digest of the root-of-trust firmware (R333). -/
opaque firmwareDigest : BitVec 256

/-! ### Constants of this device (R1) -/

/-- Enabled cores of a die (R1, R283). -/
def coresPerDie : Nat := 128

/-- Strand slots of a core (R1). -/
def slotsPerCore : Nat := 16

/-- Pillow entries of a die's share (R159). -/
def pillowSize : Nat := 4096

/-- Entries of a die's share that causes other than 0x3F and 0x40 may hold (R159). -/
def pillowOrdinary : Nat := 3840

/-- Outstanding long results of a strand (R42). -/
def rbSize : Nat := 24

/-- Staging lines of a core (R201). -/
def stagingLines : Nat := 256

/-- Barrier words of a cluster (R258). -/
def clusterWords : Nat := 256

/-- Levels of the counter tree above the counter lines; the last stands in SRAM (R323 gives no number; DESIGN CHOICE 95). -/
def treeLevels : Nat := 3

/-- Undo-log lines of a core (R201). -/
def undoLines : Nat := 512

/-- Outstanding commands of a strand on one queue pair (R190). -/
def queueDepth : Nat := 8

/-- The default hang threshold of 2 s in cycles of 2.5 GHz (R1, R359). -/
def hangThreshold : Nat := 5000000000

/-- A stopped strand's last stop point after a request: 30,000 cycles (R348). -/
def stopLimit : Nat := 30000

/-- Markers the siblings of a ready path may issue between two of its turns (R59). -/
def turnBound : Nat := 64

/-- L1 TLB entries of a core (R273). -/
def l1TlbSize : Nat := 96

/-- L2 TLB entries of a cluster (R267). -/
def l2TlbSize : Nat := 2048

/-- Entries of a network-port TLB (R273). -/
def netTlbSize : Nat := 512

/-- Entries of a storage-port TLB (R273). -/
def storageTlbSize : Nat := 256

/-- Non-leaf entries of a walker's table cache (R273). -/
def tableCacheSize : Nat := 256

/-- Frames of a die's Unpick pool (R366). -/
def unpickFrames : Nat := 16777216

/-- Activities of the package seam table (R360). -/
def seamEntries : Nat := 65536

/-- Quotes after which `attest` refuses (R334): 2^25. -/
def quoteLimit : Nat := 33554432

end Sys2Proof.Config
end

