-- ==== Sys2Proof/Machine/State.lean ====
section
/-! DEFINITION. The state of one CZ-9 package, as plain data, and its value at reset.

Threads, strands, teams and launches are flat lists, each record naming the ones it belongs to: a thread's state belongs
to the thread and not to a lane slot (R50). Numbers of records (`tid`, `sid`, `eid`, ...) are the model's own names. -/

namespace Sys2Proof.Machine

/-! ### Outcomes -/

/-- Why the machine stops. Raised by no step of a run: `exec` alone can raise it. -/
inductive Fault where
  /-- `exec` was asked to run an instruction word while no path of a strand is issuing; no step does so. Safe. -/
  | noIssuer
  deriving DecidableEq, Repr

/-- Why an instruction has no meaning. -/
inductive Refusal where
  /-- The instruction has no meaning in the model yet. Safe. -/
  | notModelled (mnemonic : String)
  deriving DecidableEq, Repr

/-! ### Filing -/

/-- The fields of a thread's failed check that its Pillow entry records (R158). -/
structure Failure where
  cause  : BitVec 7
  addr   : DWord
  detail : Word
  asid   : BitVec 16
  deriving DecidableEq, Repr

/-- An orphaned reduction (R295): what its entry's subject names and what a retry needs. -/
structure Orphan where
  /-- Issuing launch, team and rank. -/
  launch : Nat
  x : Word
  y : Word
  z : Word
  rank : Nat
  /-- Issuing package. -/
  source : BitVec 9
  /-- Capability, operand, operation and target address of the reduction. -/
  cap : Cap
  operand : Word
  op : BitVec 4
  addr : BitVec 51
  world : BitVec 8
  serial : Nat
  pc : DWord
  word : Word
  cause : BitVec 7
  deriving DecidableEq, Repr

/-- A waiter of a hang entry (R359): its record, and the wait that it stands for: strand, path and first cycle. -/
structure Waiter where
  word  : Word
  sid   : Nat
  pid   : Nat
  since : Nat
  deriving DecidableEq, Repr

/-- The subject of a Pillow entry (R158, R295, R359, R371). -/
inductive Subject where
  | thread (tid rank : Nat)
  | orphan (o : Orphan)
  | hang   (launch : Nat) (waiters : List Waiter)
  | seam   (index gen : Nat) (step : Nat) (result : Word)
  deriving DecidableEq, Repr

/-- Where an entry stands between its filing and its end (R160, R164). -/
inductive EntryState where
  | filed
  | grouped (gid : Nat)
  | served  (tid rank : Nat)
  deriving DecidableEq, Repr

/-- A Pillow entry (R158). -/
structure Entry where
  eid    : Nat
  die    : Nat
  cause  : BitVec 7
  inner  : BitVec 7
  depth  : BitVec 2
  pc     : DWord
  word   : Word
  addr   : DWord
  detail : Word
  rep    : Word
  subject : Subject
  launch : Nat
  x : Word
  y : Word
  z : Word
  rank   : BitVec 9
  asid   : BitVec 16
  world  : BitVec 8
  colour : BitVec 4
  faultAsid : BitVec 16
  stamp  : Nat
  state  : EntryState
  deriving DecidableEq, Repr

/-- An entry of the cause table (R161). `resident` marks a cause that Preder's own handler serves (R182). -/
structure CauseEntry where
  valid   : Bool
  cls     : BitVec 2
  width   : BitVec 6
  timeout : BitVec 16
  home    : BitVec 24
  code    : Cap
  data    : Cap
  resident : Bool
  deriving DecidableEq, Repr

/-- A gathered group that waits for a core (R164, R165). -/
structure Group where
  gid     : Nat
  bank    : Nat
  cause   : Nat
  key     : Nat
  entries : List Nat
  deriving DecidableEq, Repr

/-! ### Threads -/

/-- Whether a thread is present in its path, filed, exited, or returned and waiting for a straggler strand's slot
(R32, R157, R174). -/
inductive ThreadStatus where
  | present
  | filed (eid : Nat)
  | exited
  | waitingSlot (pc : DWord) (code : Cap)
  deriving DecidableEq, Repr

/-- A thread's state (R50). -/
structure Thread where
  tid    : Nat
  rank   : Nat
  v      : Sparse Word
  /-- p1 to p7 in bits 1 to 7; p0 reads true whatever bit 0 holds. -/
  p      : BitVec 8
  c      : Sparse Cap
  fpcsr  : Word
  gen    : Word
  /-- The thread's own copy of sr.rep, written when it is filed (R49, R157). -/
  rep    : Word
  /-- The rep word of that repeat (R46, R49). -/
  repWord : Word
  status : ThreadStatus
  /-- The strand and slot where the thread stands (R51, R64). -/
  sid    : Nat
  slot   : Nat
  /-- Set when a frame closed without the filed thread (R172). -/
  straggling : Bool
  /-- The home-strand frame that a thread moved to a fresh strand still belongs to (R61, R62). -/
  homeFrame : Option Nat
  /-- The entry whose subject a handler lane serves (R164). -/
  subject : Option Nat
  /-- The code capability of the path that the thread left when it was filed (R132, R174). -/
  leftCode : Cap
  /-- For a handler lane, the pcs at which its poison has been retried (R182). -/
  retriedAt : List DWord
  /-- Event number of the thread's last acquire or fence at cluster scope or wider (R310). -/
  acq    : Nat
  /-- Event number at the thread's last acquire or fence of any scope: what was issued before it may happen before what the
  thread does next (R308). -/
  acqEv  : Nat
  /-- For each byte, the coherence number of the last write the thread has taken or made (R307). -/
  seen   : Sparse Nat
  deriving DecidableEq, Repr

/-! ### Queues -/

/-- One word pushed to an engine queue (R191, R245). -/
inductive QWord where
  | k (c : Cap)
  | s (w : DWord)
  deriving DecidableEq, Repr

/-- One write of an instruction to a register, predicate, tag, tile, accumulator or flag (R40). The thread writes go to
the lane they belong to; the others to the strand or the team. -/
inductive Write where
  | v (n : Nat) (w : Word)
  | p (n : Nat) (b : Bool)
  | c (n : Nat) (x : Cap)
  | flags (f : BitVec 5)
  | gen (g : Word)
  | s (n : Nat) (w : DWord)
  | k (n : Nat) (x : Cap)
  | mstat (b : BitVec 4)
  | tileByte (t off : Nat) (b : Byte)
  | acc (t e : Nat) (x : BitVec 56)
  deriving DecidableEq, Repr

/-- A completion record, with a stream command's pending accumulator result (R195, R226). -/
structure QRecord where
  queue  : Nat
  word   : DWord
  accWrites : List Write
  cid    : Nat
  deriving DecidableEq, Repr

/-! ### Waits, paths and frames -/

/-- The key of a team in its launch (R341, R377): kind, coordinates and stage. -/
structure TeamKey where
  kind  : BitVec 2
  x : Word
  y : Word
  z : Word
  stage : BitVec 4
  deriving DecidableEq, Repr

/-- A barrier word: at an offset of a team's activation allocation, or a word of a cluster (R197, R266). -/
inductive BarrierLoc where
  | act (tid off : Nat)
  | cluster (id : Nat)
  deriving DecidableEq, Repr

/-- One lane that has still to take or fill its full/empty word (R143). `team` owns the buffer, `off` is the byte. -/
structure FeLane where
  rank : Nat
  team : Nat
  off  : Nat
  d    : Nat
  value : Word
  deriving DecidableEq, Repr

/-- What a parked path waits for (R59, R143, R190, R240, R248, R375, R62). -/
inductive Wait where
  | feTake (lanes : List FeLane) (scope : BitVec 3) (word : Word)
  | feFill (lanes : List FeLane) (scope : BitVec 3) (word : Word)
  /-- The word, its handle, the phase that ends the wait's parking when it differs, and whether it is `pin.meet`'s. -/
  | barrier (loc : BarrierLoc) (handle : BitVec 12) (target : Bool) (meet : Bool)
  | push (q : Nat)
  | pop (q : Nat)
  | cpYield (q : Nat) (target : DWord)
  | event (key : TeamKey) (slot : Bool)
  | netDone
  | freshReturn
  | straggler
  deriving DecidableEq, Repr

/-- A path's state (R55). `solo` lanes are R171's. -/
inductive PathState where
  | ready
  /-- The cycle since which it stands at the join. -/
  | atJoin (since : Nat)
  | waiting (w : Wait) (since : Nat)
  deriving DecidableEq, Repr

/-- A lane of an access whose checks or first answer another package or core has to give (R44, R264, R289): its rank and
address, the event that asks, and once that has answered its failed check, or the bytes, the tag and the poison. -/
structure ProbeLane where
  rank  : Nat
  va    : Nat
  ev    : Nat
  answered : Bool
  cause : Option (BitVec 7)
  bytes : List Byte
  tag   : Bool
  poison : Option (BitVec 12)
  deriving DecidableEq, Repr

/-- A path record (R55, R132). -/
structure Path where
  pid    : Nat
  mask   : BitVec 32
  pc     : DWord
  parent : Option Nat
  rep    : Word
  /-- The rep word of the repeat in progress (R46). -/
  repWord : Word
  state  : PathState
  code   : Cap
  /-- Solo mode (R171). -/
  solo   : Bool
  /-- Markers the sibling paths have issued since this path's last turn (R59). -/
  marks  : Nat
  /-- The brp address and side the path has just started from, until it issues (R60). -/
  fromBrp : Option (DWord × Bool)
  /-- The fence of the path that is not performed yet: its scope and event number (R250). No other one issues before it has
  been (R305). -/
  fence  : Option (BitVec 3 × Nat)
  /-- The implicit marker before the path's next instruction has been taken (R43). -/
  marked : Bool
  /-- The lanes of the instruction at the path's PC whose checks are made elsewhere: until each has been answered the
  strand issues nothing (R44). -/
  probe : List ProbeLane
  deriving DecidableEq, Repr

/-- An absence clock: the cycle it started and its length (R172). -/
structure AbsClock where
  start : Nat
  len   : Nat
  deriving DecidableEq, Repr

/-- A frame (R55), with the code capability of the path that set its joinpc (R132) and its absence clock (R172). -/
structure Frame where
  expected : BitVec 32
  arrived  : BitVec 32
  joinpc   : Option DWord
  parent   : Option Nat
  depth    : Nat
  code     : Cap
  clock    : Option AbsClock
  /-- Filed members whose absence window has expired (R57, R172). -/
  lapsed   : BitVec 32
  deriving DecidableEq, Repr

/-- The join at which paths without a parent frame stand while members are away (R57, R172, R184). -/
structure RootJoin where
  pc    : DWord
  clock : Option AbsClock
  deriving DecidableEq, Repr

/-! ### Return buffer -/

/-- Where a long result of one lane goes once its bytes are there (R139, R213, R233, R144). -/
inductive LoadFmt where
  | ext (d size : Nat) (signed : Bool)
  | words (d n : Nat)
  | cap (n : Nat)
  | capK (n : Nat)
  | sWord (n : Nat)
  | sDword (n : Nat)
  | rows (tile row rb n : Nat)
  | acc (tile slot : Nat)
  deriving DecidableEq, Repr

/-- One lane's share of a long result: its writes, or the access it still waits for; and its poison (R41, R45). -/
structure RBLane where
  rank    : Nat
  pending : Bool
  writes  : List Write
  poison  : Option (BitVec 12)
  addr    : DWord
  /-- The ASID that `addr` was translated under, where it is not the team's own (R158, R177). -/
  asid    : Option (BitVec 16)
  deriving DecidableEq, Repr

/-- A long result in the return buffer (R41, R170). `strand` holds the writes that no lane owns. -/
structure RBEntry where
  id     : Nat
  pc     : DWord
  word   : Word
  rep    : Word
  lanes  : List RBLane
  strand : List Write
  returned : Bool
  poison : Option (BitVec 12)
  deriving DecidableEq, Repr

/-! ### Strands -/

/-- The kinds of strand (R52, R61, R174, R166). A fresh strand names the home strands that gave it threads. -/
inductive StrandKind where
  | home
  | fresh (homes : List Nat)
  /-- Its home strand, and whether it has passed a join alone. -/
  | straggler (home : Nat) (alone : Bool)
  | handler
  deriving DecidableEq, Repr

/-- The marker a strand is parked at (R41 to R43). `counted` is R42's. -/
inductive Marker where
  | explicit
  | implicit (counted : Bool)
  deriving DecidableEq, Repr

/-- Pre-emption of a strand (R348). -/
inductive StopState where
  | running
  | requested (since : Nat)
  | stopped
  deriving DecidableEq, Repr

/-- A gate record on a strand's gate stack (R380). -/
structure GateRec where
  fromC : BitVec 4
  toC   : BitVec 4
  base  : Nat
  length : Nat
  pc    : DWord
  code  : Cap
  deriving DecidableEq, Repr

/-- A `seam.step` between its stages 1 and 3 (R365). -/
structure SeamStepping where
  index : Nat
  seq   : Nat
  pc    : DWord
  deriving DecidableEq, Repr

/-- A strand's state (R52). -/
structure Strand where
  sid     : Nat
  tid     : Nat
  kind    : StrandKind
  /-- Team-relative number (R51). -/
  num     : Nat
  core    : Nat
  /-- Strand slot of the core, 0 to 15 (R1, R199). -/
  cslot   : Nat
  s       : Sparse DWord
  k       : Sparse Cap
  paths   : List Path
  cur     : Nat
  nextPid : Nat
  frames  : List (Nat × Frame)
  rb      : List RBEntry
  nextRb  : Nat
  implicit : Word
  absence : BitVec 16
  srseed  : Word
  qtile   : Sparse Word
  mstat   : Word
  seam    : DWord
  arrival : Option (BitVec 12 × Bool)
  gates   : List GateRec
  /-- Partial commands by queue pair 0 to 3 (R190). -/
  partials : Sparse (List QWord)
  records : List QRecord
  commit  : Option Marker
  /-- Filings that found no free Pillow entry (R159). -/
  parked  : List Entry
  rootJoin : Option RootJoin
  stop    : StopState
  /-- Times in a row that the core's arbiter has passed the strand over while it was ready (R199). -/
  passed  : Nat
  /-- The cycle at which the strand last became ready, while it waits for the arbiter (R199). -/
  readySince : Option Nat
  stepping : Option SeamStepping
  /-- Cause of the strand's entries and its class, for a handler strand (R164, R169). -/
  handlerCause : BitVec 7
  handlerClass : BitVec 2
  deriving DecidableEq, Repr

/-! ### Teams -/

/-- A tile: its control register and its bytes (R188). -/
structure Tile where
  ctl  : Word
  data : Sparse Byte
  deriving DecidableEq, Repr

/-- A staged line: bytes by physical address, and the tags its writes set or clear by granule (R201, R91). -/
structure StagedLine where
  line  : Nat
  /-- Virtual address of the line's first byte, for the auditor's signature (R281). -/
  va    : Nat
  bytes : Sparse Byte
  tags  : List (Nat × Bool)
  slot  : Nat
  /-- Event number of the first store staged in it (R315): the lowest of those whose bytes it holds. -/
  since : Nat
  /-- Bytes and the ranks of the threads that have staged or read them: at the drain their writes count as seen (R307). -/
  known : List (Nat × Nat)
  /-- An error in the staging line (R278). -/
  poison : Option (BitVec 12)
  deriving DecidableEq, Repr

/-- A logged line of a buffer (R201): its old bytes, full/empty bits and poison. -/
structure UndoLine where
  weight : Bool
  line  : Nat
  bytes : List Byte
  fe    : List Bool
  poison : List (Option (BitVec 12))
  deriving DecidableEq, Repr

/-- The shadow banks of a team's last checkpoint (R200). -/
structure Shadow where
  strands : List Strand
  threads : List Thread
  tiles   : Sparse Tile
  accs    : Sparse (BitVec 56)
  tilePoison : Sparse (Option (BitVec 12))
  accPoison  : Sparse (Option (BitVec 12))
  /-- Numbers that the next engine command and the next memory event had. -/
  cmd     : Nat
  ev      : Nat
  deriving DecidableEq, Repr

/-- What a team is (R24, R166, R368). -/
inductive TeamRole where
  | field
  | compensation (index gen : Nat) (seq : Nat) (step : Nat)
  | handler
  deriving DecidableEq, Repr

/-- Where a team stands (R342, R345, R348). -/
inductive TeamState where
  | created
  | running
  | stopping
  | saved
  | ended
  deriving DecidableEq, Repr

/-- A team's state (R24, R50, R187, R200 to R205, R262). -/
structure Team where
  tid    : Nat
  launch : Nat
  key    : TeamKey
  role   : TeamRole
  desc   : TeamDesc
  asid   : BitVec 16
  world  : BitVec 8
  code   : Cap
  /-- Package-logical core, while placed (R284). -/
  place  : Option Nat
  /-- For a saved team, the core that it last stood on, and the die and cluster that its peer set resumes in (R263). -/
  lastPlace : Option Nat
  bound  : Option (Nat × Nat)
  /-- Number of the set that the team was last stopped and is resumed with (R263, R346). -/
  peerSet : Option Nat
  /-- First tile, first accumulator tile, and first 64-byte units of the buffers on the team's core (R187, R345). -/
  tilesAt : Nat
  accsAt  : Nat
  actAt   : Nat
  wgtAt   : Nat
  /-- Home strands whose slots handle 0's word counts (R243). -/
  homes  : Nat
  state  : TeamState
  name   : Option Nat
  placegen  : Word
  rollbacks : BitVec 2
  tiles  : Sparse Tile
  accs   : Sparse (BitVec 56)
  act    : Sparse Byte
  fe     : Sparse Bool
  wgt    : Sparse Byte
  actPoison : Sparse (Option (BitVec 12))
  wgtPoison : Sparse (Option (BitVec 12))
  /-- Poisoned words of the tiles, by 512·tile + word, and elements of the accumulator tiles, by 256·tile + element (R278). -/
  tilePoison : Sparse (Option (BitVec 12))
  accPoison  : Sparse (Option (BitVec 12))
  /-- Installed cluster handles (R198, R266). -/
  handles : List (Nat × Nat)
  exposed : Bool
  staged : List StagedLine
  undo   : List UndoLine
  shadow : Option Shadow
  /-- A checkpoint is due before the team's strands issue again (R200, R242). -/
  ckpt   : Bool
  /-- Records popped in the interval, with their strand (R203). -/
  popped : List (Nat × QRecord)
  /-- Poison that a marker consumed and a rollback answers (R203). -/
  rolling : Option (BitVec 12)
  /-- Device-virtual base of the team's thread-local slices (R105). -/
  tlsBase : Nat
  signature : DWord
  /-- Set by what bars the auditor from sampling the team (R280). -/
  unsampled : Bool
  /-- The team ended in error: it publishes no completion of its own (R344). -/
  failed : Bool
  /-- s2 of a compensation strand when it ended, or the cause of its failure (R371, R372). -/
  result : DWord
  failure : Option Word
  /-- Order of placement, for Krahal (R346). -/
  order : Nat
  deriving DecidableEq, Repr

/-! ### Memory events -/

/-- Where one contiguous part of an access lies (R105, R301). -/
inductive Loc where
  | phys (pa : Nat) (slot : Nat)
  | act (tid off : Nat)
  | wgt (tid off : Nat)
  | remote (pkg : BitVec 9) (va : BitVec 51)
  | window (unit u : Nat)
  | sys (addr : DWord)
  deriving DecidableEq, Repr

/-- What a memory event does (R305). Operation numbers are those of R292. -/
inductive EvKind where
  | load
  | store
  | atom (op : BitVec 4)
  | red  (op : BitVec 4)
  | cas
  deriving DecidableEq, Repr

/-- The ordering an event carries (R142, R308). -/
inductive Sem where
  | plain | rlx | acq | rel
  deriving DecidableEq, Repr

/-- A memory event at its thread's issue point (R300, R302). -/
structure MemEv where
  id    : Nat
  tid   : Nat
  rank  : Nat
  sid   : Nat
  pid   : Nat
  core  : Nat
  /-- Rank slots of every thread whose event this is: one for a lane, all present ones for a uniform access (R302). -/
  owners : List Nat
  kind  : EvKind
  locs  : List (Loc × Nat)
  va    : Nat
  asid  : BitVec 16
  world : BitVec 8
  sem   : Sem
  scope : BitVec 3
  /-- The bytes of a store, the operand of an atomic, compare and new value of a cas. -/
  data  : List Byte
  /-- For a capability store the tag it writes; `none` for every other store (R91). -/
  tag   : Option Bool
  /-- For a capability load, whether the tag is kept (R91, R99). -/
  keepTag : Bool
  cap   : Cap
  dest  : Option (Nat × Nat × LoadFmt)
  acq   : Nat
  launch : Nat
  pc    : DWord
  word  : Word
  /-- A remote access whose packet has left (R319). -/
  sent  : Bool
  /-- The strand's next issue waits for its answer (R44). -/
  probe : Bool
  /-- Elements that a wide load of the alias window has taken already, each with its place, bytes and poison (R138). -/
  early : List (Nat × List Byte × Option (BitVec 12))
  deriving DecidableEq, Repr

/-- A core's L1 copy of a line: bytes and their coherence numbers, the event at which it was filled, and the key slot
(R300, R306, R325). -/
structure L1Copy where
  core   : Nat
  line   : Nat
  bytes  : List Byte
  seqs   : List Nat
  filled : Nat
  slot   : Nat
  /-- Tags of the line's four granules (R90), and its poison (R279). -/
  tags   : List Bool
  poison : Option (BitVec 12)
  deriving DecidableEq, Repr

/-- A port's pending reduction entry (R277): each element's address, its partial operand, and the cores whose reductions it
holds (R306). -/
structure RedEntry where
  line  : Nat
  op    : BitVec 4
  elems : List (Nat × Word × List Nat)
  deriving DecidableEq, Repr

/-- A translation an issuer may hold (R267, R273). -/
inductive TlbIssuer where
  | core (n : Nat)
  | cluster (die c : Nat)
  | net
  | storage
  deriving DecidableEq, Repr

/-- A TLB entry: the page's base and size in 64 KiB units, and its leaf. -/
structure TlbEntry where
  issuer : TlbIssuer
  asid   : BitVec 16
  page   : Nat
  units  : Nat
  leaf   : BitVec 128
  deriving DecidableEq, Repr

/-- A non-leaf entry in a walker's table cache (R273). -/
structure WalkEntry where
  die   : Nat
  asid  : BitVec 16
  /-- First 64 KiB page the entry's table covers, and how many. -/
  page  : Nat
  units : Nat
  pa    : Nat
  entry : BitVec 128
  deriving DecidableEq, Repr

/-- What is kept with a line of the encrypted tiers: the slot and the key under which it was stored, and its minor counter (R321
to R323). Its plaintext stands in the cells; its 80 stored bytes follow from all of these. -/
structure EncLine where
  slot  : Nat
  key   : BitVec 256
  minor : Nat
  deriving DecidableEq, Repr

/-! ### Engines -/

/-- How far an engine command has gone. -/
inductive CmdState where
  | queued
  /-- Taken, with the row and the byte of the row that come next, and whether poison has been read. -/
  | running (row off : Nat) (poisoned : Bool)
  | performed (status : Nat)
  deriving DecidableEq, Repr

/-- What another package has answered to an engine's read: the address there, its bytes, the tags of its whole aligned
granules, and its poison (R390). -/
structure Reply where
  va     : BitVec 51
  bytes  : List Byte
  tags   : List Bool
  poison : Option (BitVec 12)
  deriving DecidableEq, Repr

/-- An engine command (R191, R225, R353, R394). -/
structure Cmd where
  cid   : Nat
  sid   : Nat
  tid   : Nat
  queue : Nat
  core  : Nat
  words : List QWord
  asid  : BitVec 16
  world : BitVec 8
  solo  : Bool
  /-- Launch whose tables the command reads (R221), and who pushed it. -/
  launch : Nat
  ranks : List Nat
  /-- Event number at its push: its memory events before the push are older (R313). -/
  seq   : Nat
  /-- Commands that a qfence puts before it (R251). -/
  after : List Nat
  /-- Event number of the strand's latest lfence before the push (R315). -/
  lfence : Nat
  /-- Tile and accumulator contents captured at the push of a stream command (R226). -/
  tile  : Option Tile
  acc   : Sparse (BitVec 56)
  /-- Poison that came with them (R278). -/
  mark  : Option (BitVec 12)
  malformed : Bool
  state : CmdState
  accWrites : List Write
  /-- Peer teams of a multicast (R194), or members of a collective. -/
  peers : List Nat
  /-- What other packages have answered to the command's reads that it has not used yet. -/
  replies : List Reply
  /-- Lines of memory that the copy has written in part: how many bytes, and the poison that came with them (R279). -/
  part  : List (Nat × Nat × Option (BitVec 12))
  deriving DecidableEq, Repr

/-- A copy of a layout record, by the place of the record (R222, R315). -/
structure LayoutCopy where
  loc    : Loc
  bytes  : List Byte
  tag    : Bool
  poison : Option (BitVec 12)
  /-- Event number at the fill, the strands and numbers of the stores then pending on the record, and the teams that
  held its line staged, with the number of their line's first store. -/
  filled : Nat
  stores : List (Nat × Nat)
  held   : List (Nat × Nat)
  deriving DecidableEq, Repr

/-- A 64 KiB page of a drive with the slot and generation of the key it was written under (R353). -/
structure DrivePage where
  drive : Nat
  block : Nat
  data  : Sparse Byte
  tags  : List Nat
  slot  : Nat
  gen   : BitVec 16
  counter : Nat
  /-- The GCM tag after the page. -/
  gcm   : BitVec 128
  deriving DecidableEq, Repr

/-! ### Launches -/

/-- A capability the loader places when each team starts: minted already, or to the team's own buffer (R26, R255). -/
inductive Minted where
  | fixed (c : Cap)
  | buffer (addr : DWord) (length : Nat) (perms : BitVec 8)
  deriving DecidableEq, Repr

/-- A kind slot of a launch record (R341). -/
structure KindSlot where
  kind   : BitVec 2
  code   : Cap
  desc   : TeamDesc
  stages : Nat
  chain  : Bool
  deriving DecidableEq, Repr

/-- How a launch stands (R339, R343, R344). -/
inductive LaunchState where
  | live
  | ending (code : Nat)
  | flushing
  | ended
  deriving DecidableEq, Repr

/-- A launch: its record and the front end's state (R341 to R344). -/
structure Launch where
  num    : Nat
  vf     : Nat
  image  : Nat
  index  : Nat
  world  : BitVec 8
  asid   : BitVec 16
  priority : Nat
  cohort : Bool
  audit  : Nat
  fx : Nat
  fy : Nat
  fz : Nat
  kinds  : List (BitVec 2)
  slots  : List KindSlot
  caps   : List Minted
  /-- Handles of cluster barrier words that Preder installs for the launch's teams, with their expected counts (R266). -/
  barriers : List (Nat × Nat)
  /-- Where the table of the launch's minted capabilities lies (R341). -/
  capTable    : Nat
  gateTable   : Nat
  gateCount   : Nat
  layoutTable : Nat
  layoutCount : Nat
  completion  : Nat
  saveBase    : Nat
  /-- Event number at the launch's start (R315). -/
  began  : Nat
  /-- Next team of stage 0 that the seed places; none once the seed has ended (R342). -/
  seed    : Option Nat
  created : List TeamKey
  /-- Published event slots: false slot 0, true slot 1 (R377). -/
  events  : List (TeamKey × Bool)
  state   : LaunchState
  pmap    : Sparse (BitVec 128)
  hung    : Bool
  failPc  : DWord
  failTeam : TeamKey
  failRank : Word
  provenance : BitVec 12
  deriving DecidableEq, Repr

/-- A loaded image (R338, R340). -/
structure Loaded where
  handle  : Nat
  vf      : Nat
  world   : BitVec 8
  asid    : BitVec 16
  launches : List Launch
  deriving DecidableEq, Repr

/-- A region that Preder allocated to a context (R182). -/
structure Region where
  asid   : BitVec 16
  base   : Nat
  length : Nat
  colour : BitVec 4
  tier   : BitVec 2
  perms  : BitVec 3
  slot   : BitVec 16
  /-- Handle of the image that the region belongs to. -/
  image  : Nat
  world  : BitVec 8
  deriving DecidableEq, Repr

/-- An entry of Preder's swap map (R354): the page, its place on a drive, its leaf as it was, and its GCM tag. -/
structure SwapEntry where
  asid  : BitVec 16
  page  : Nat
  drive : Nat
  block : Nat
  leaf  : BitVec 128
  gcm   : BitVec 128
  deriving DecidableEq, Repr

/-- A virtual command processor (R336, R339). -/
structure Vcp where
  vf    : Nat
  world : BitVec 8
  asid  : BitVec 16
  notify  : DWord
  head    : DWord
  discard : DWord
  flrGen  : DWord
  ringBase : DWord
  ringSize : Word
  errIndex : Word
  errRing  : Sparse (List Byte)
  flrBusy  : Bool
  deriving DecidableEq, Repr

/-! ### Seams, keys, fabric -/

/-- A seam's state (R360, R364). -/
inductive SeamState where
  | done | open | unpicking | snagged
  deriving DecidableEq, Repr

/-- A frame of an Unpick stack (R366). -/
structure SeamFrame where
  seq   : Nat
  prev  : Nat
  comp  : Cap
  arg   : Cap
  index : Nat
  step  : Nat
  die   : Nat
  /-- The frame's place in its die's pool. -/
  slot  : Nat
  colour : BitVec 4
  /-- 1 pending, 2 armed, 3 running. -/
  state : BitVec 2
  /-- It was pending when a compensation first ran it (R369), for a retry. -/
  pend  : Bool
  issuer : Nat
  owner : Nat
  deriving DecidableEq, Repr

/-- An entry of the package seam table (R360). -/
structure SeamEntry where
  index : Nat
  gen   : BitVec 16
  state : SeamState
  world : BitVec 8
  owner : Nat
  /-- The launch in which compensation teams run (R373). -/
  runner : Nat
  asid  : BitVec 16
  frames : List SeamFrame
  steps : Nat
  links : List (Nat × BitVec 16)
  snag  : Nat
  deriving DecidableEq, Repr

/-- A key slot (R324). -/
structure KeySlot where
  state : BitVec 2
  world : BitVec 8
  colour : BitVec 4
  use   : BitVec 2
  gen   : BitVec 16
  key   : BitVec 256
  /-- Writes of pages to drives under the slot: the nonce counter (R353). -/
  writes : Nat
  deriving DecidableEq, Repr

/-- A cluster barrier word, the cluster that holds it, its launch and its handle there (R266). Its peer set is the teams that
have it installed. -/
structure ClusterWord where
  id     : Nat
  handle : Nat
  die    : Nat
  cluster : Nat
  launch : Nat
  word   : DWord
  deriving DecidableEq, Repr

/-- An error record of a die (R278, R355). -/
structure ErrRecord where
  die    : Nat
  index  : Nat
  source : BitVec 4
  addr   : Nat
  /-- The unit that the record names (R278, R355). -/
  unit   : TestUnit
  syndrome : DWord
  stamp  : Nat
  transient : Bool
  tested : Bool
  deriving DecidableEq, Repr

/-- A team sampled by the auditor (R280, R281). -/
structure AuditItem where
  index : Nat
  launch : Nat
  key   : TeamKey
  core  : Nat
  signature : DWord
  stamp : Nat
  deriving DecidableEq, Repr

/-- A roster slot (R396, R397). -/
structure Roster where
  slot   : Nat
  group  : DWord
  epoch  : Word
  world  : BitVec 8
  /-- 0 free, 1 forming, 2 active, 3 reforming. -/
  state  : Nat
  members : List (BitVec 9 × Bool)
  digest : BitVec 256
  list   : Nat
  /-- Collectives issued in the epoch by this package (R397). -/
  issued : Nat
  /-- Members that have still to present their quotes in this epoch (R396). -/
  asked : List Nat
  deriving DecidableEq, Repr

/-- The retained state of a core's power (R358). -/
inductive Power where
  | on | clockGated | powerGated
  deriving DecidableEq, Repr

/-- What the model keeps of a logical core besides its strands (R284, R287, R358). -/
structure CoreRec where
  logical : Nat
  power   : Power
  idleSince : Nat
  out     : Bool
  /-- Strand slot that issued last (R199). -/
  lastSlot : Nat
  deriving DecidableEq, Repr

/-- A message on a leaf controller's link (R259, R345): a bind record; its acknowledgement, and whether it was carried out; or
the report of an error record. -/
inductive LinkMsg where
  | record (r : BindRecord)
  | ack (r : BindRecord) (done : Bool)
  | fault (die index : Nat)
  deriving DecidableEq, Repr

/-- What has been reported to Krahal, on the head controller (R268, R345): a record refused, an error of a cluster, and a copy
command lost with its cluster. -/
inductive Report where
  | refused (r : BindRecord)
  | error (die index : Nat)
  | lostCopy (launch sid : Nat) (utag : Word)
  deriving DecidableEq, Repr

/-- A direction of a leaf controller's link (R259). -/
structure LinkDir where
  die     : Nat
  cluster : Nat
  toHead  : Bool
  permits : Nat
  /-- Messages that wait for a permit, in order. -/
  held    : List LinkMsg
  /-- Messages sent and not yet consumed. -/
  flight  : Nat
  deriving DecidableEq, Repr

/-- A Damkai link (R389). -/
structure DamkaiLink where
  number  : Nat
  replays : Nat
  window  : Nat
  retired : Bool
  deriving DecidableEq, Repr

/-- The dump of a fatal error (R356): the error rings of every die, the Pillow's entries, the slot tables (core, slot, launch and team
of each strand), the states of the leaf controllers' and the fabric's links, and the head controller's log. It holds no register,
buffer or key. -/
structure Dump where
  errors : List ErrRecord
  pillow : List Entry
  slots  : List (Nat × Nat × Nat × Nat)
  dirs   : List LinkDir
  links  : List DamkaiLink
  log    : List Report
  deriving DecidableEq, Repr

/-! ### The package, by parts -/

/-- The model's own bookkeeping of the run, and the package clock. -/
structure Run where
  /-- Steps taken. -/
  tick  : Nat
  /-- sr.clock: compute-clock cycles since package reset (R117). -/
  clock : DWord
  /-- The strand whose instruction is issuing, and the word fetched for it (R158). -/
  issuing : Option Nat
  curWord : Word
  /-- Steps that hosts, firmware, the fabric and the world outside have called for, in order. -/
  agenda : List Instr
  /-- Set by `halt` and by a fatal error: held until reset (R356, R385). -/
  halted : Bool
  nextTid : Nat
  nextSid : Nat
  nextEv  : Nat
  nextCmd : Nat
  nextHandle : Nat
  nextOrder : Nat
  deriving DecidableEq, Repr

/-- The Pillow and the cause table (R157 to R166). -/
structure Traps where
  /-- Entries in the order of filing, of every die (R159). -/
  pillow  : List Entry
  groups  : List Group
  /-- Orphaned reductions that found no Pillow entry (R295). -/
  heldOrphans : List Orphan
  /-- Cause table: bank 128·world + cause (R161). -/
  causeTable : Sparse CauseEntry
  /-- Armed watch ranges (R163). -/
  watch  : List (DWord × DWord)
  /-- Machine-check records: threads or cores named, and causes (R169, R282). -/
  machineChecks : List (List Nat)
  nextEid : Nat
  nextGid : Nat
  deriving DecidableEq, Repr

/-- Memory and the ordering machine (R269, R300). -/
structure MemState where
  /-- Physical memory in canonical form: an unlisted address reads 0. -/
  cells  : List Host.Cell
  /-- Tagged granules, rising: granule number is the address divided by 16 (R90). -/
  tags   : List Nat
  /-- Poisoned lines with their provenance (R278). -/
  poison : Sparse (Option (BitVec 12))
  /-- Retired regions: first line, number of lines, and the provenance that a read of them carries (R355). -/
  retired : List (Nat × Nat × BitVec 12)
  /-- Coherence number of the last write to each byte (R301), and the last one given. -/
  wseq   : Sparse Nat
  wseqNo : Nat
  /-- Lines of the encrypted tiers as written, and the majors of their counter lines (R321 to R323). -/
  encLines : Sparse (Option EncLine)
  encMajor : Sparse Nat
  /-- Counters that the levels above the counter lines hold, by 2^48·level + index of the counted line (R323). -/
  encTree : Sparse Nat
  l1     : List L1Copy
  events : List MemEv
  redEntries : List RedEntry
  tlb    : List TlbEntry
  walkCache : List WalkEntry
  layout : List LayoutCopy
  deriving DecidableEq, Repr

/-- Engine queues and drives (R189 to R195, R353). -/
structure Engines where
  cmds   : List Cmd
  /-- Event number of each strand's latest lfence (R315). -/
  lfences : Sparse Nat
  /-- A strand's qfences: strand, queue mask and the commands that come before (R251). -/
  qfences : List (Nat × BitVec 8 × List Nat)
  /-- A cluster's copy engine in its rotation, by 64·die + cluster: one more than the command whose row it has in progress,
  and one more than the core whose queue it served last (R265). -/
  copyTurn : Sparse Nat
  copyLast : Sparse Nat
  drives : List Nat
  drivePages : List DrivePage
  deriving DecidableEq, Repr

/-- Launches, images, virtual command processors, Preder's allocator and the auditor (R280, R336 to R347). -/
structure Front where
  launches : List Launch
  images  : List Loaded
  regions : List Region
  vcps    : List Vcp
  /-- The next megabyte of each pool that no world owns; the world that owns a megabyte of frames, plus 1, by its number; and by
  16·world + pool the frame that comes next in the world's share (R183, R329). -/
  nextChunk : Sparse Nat
  frameWorld : Sparse Nat
  nextFrame : Sparse Nat
  /-- Frames freed. -/
  freeFrames : List Nat
  /-- Preder's swap map, and how many pages it has swapped out (R354). -/
  swaps : List SwapEntry
  nextSwap : Nat
  /-- Next 64 KiB page that the loader gives out, by ASID. -/
  nextVa : Sparse Nat
  /-- Krahal's hang threshold in cycles (R359). -/
  hangThreshold : Nat
  /-- What has been reported to Krahal, oldest first (R268, R345). -/
  reports : List Report
  audits  : List AuditItem
  auditNo : Nat
  auditDropped : Nat
  deriving DecidableEq, Repr

/-- The seam table (R360). -/
structure Seams where
  entries : List SeamEntry
  /-- Generation that each index was last allocated with. -/
  gens : Sparse (BitVec 16)
  seq  : Nat
  deriving DecidableEq, Repr

/-- The trust state (R324, R333 to R335, R385). -/
structure Trust where
  keys   : Sparse KeySlot
  /-- csr.meas0 to csr.meas7: byte i of the digest in bits [8i+7:8i] (R333, R384). -/
  meas   : Sparse (BitVec 256)
  lifecycle : Word
  /-- The lifecycle state that the fuses hold (R335). -/
  fuseLifecycle : Word
  devid  : BitVec 128
  unlockCounter : Nat
  /-- A debug unlock in progress (R335). -/
  unlocking : Bool
  /-- Digest of that unlock's token. -/
  unlockDigest : BitVec 256
  portOpen  : Bool
  sigIndex : Nat
  resets : Nat
  deriving DecidableEq, Repr

/-- Cores, clusters, links, errors and health (R258, R278, R283, R329, R355, R358). -/
structure Plant where
  /-- Fuses: physical core numbers fused off, by die (R283). -/
  harvest : Sparse (List Nat)
  /-- Owner world of each cluster plus 1, by 64·die + cluster; 0 for none (R329). -/
  clusterWorld : Sparse Nat
  /-- Mask of a die's L2 ways that a world owns, by 256·die + world (R329). -/
  ways : Sparse Nat
  /-- Clusters taken out whole (R268, R287). -/
  clustersOut : List (Nat × Nat)
  cores  : List CoreRec
  linkDirs : List LinkDir
  clusterWords : List ClusterWord
  errors : List ErrRecord
  /-- Next index of each die's ring of 256 error records. -/
  errNext : Sparse Nat
  health : DWord
  /-- The unit recorded by the last replace request (R355). -/
  replace : Option TestUnit
  /-- Krahal's dump of a fatal error has been written (R356). -/
  dumped : Bool
  /-- That dump, which the host reads through the physical function after the reset (R356). -/
  dump : Option Dump
  deriving DecidableEq, Repr

/-- The fabric as this package holds it (R389 to R402). -/
structure Fabric where
  pkgNo  : BitVec 9
  /-- Members of the domain: package number and identity. -/
  members : List (BitVec 9 × BitVec 128)
  /-- The import table: ASID for each issuing world (R392). -/
  imports : List (BitVec 8 × BitVec 16)
  links  : List DamkaiLink
  /-- Packets at their port, and in flight (R300). -/
  outbox : List Packet
  flight : List Packet
  nextSerial : Nat
  rosters : List Roster
  leaseTerm : Nat
  leaseLeader : Option (BitVec 128)
  leaseAt : Nat
  leading : Bool
  bootImage : Option (BitVec 256 × BitVec 256)
  deriving DecidableEq, Repr

/-- One CZ-9 package. -/
structure State where
  run     : Run
  threads : List Thread
  strands : List Strand
  teams   : List Team
  traps   : Traps
  mem     : MemState
  eng     : Engines
  front   : Front
  seams   : Seams
  trust   : Trust
  plant   : Plant
  fabric  : Fabric
  deriving DecidableEq, Repr

/-! ### Reset -/

/-- The harvest the model's device has at reset: clusters 32 to 35 of every die fused whole (R283 leaves the choice to
the part). DESIGN CHOICE 3, unsafe. -/
def resetHarvest : Sparse (List Nat) :=
  (List.range 8).map fun d => (d, (List.range 16).map (· + 128))

/-- The cause-table entry of a cause that Preder's resident handler serves: kernel class, width 32, timeout 256 (R161,
R182). DESIGN CHOICE 6, unsafe. -/
def residentEntry : CauseEntry :=
  { valid := true, cls := 2, width := 32, timeout := 256, home := 0, code := ⟨0, false⟩, data := ⟨0, false⟩
    resident := true }

/-- Bank 0 at reset: the causes that R182 and R359 give to Preder's own handlers, and the orphaned reduction. -/
def resetCauses : Sparse CauseEntry :=
  [0x10, 0x11, 0x12, 0x18, 0x3F, 0x40, 0x48].map fun c => (c, residentEntry)

/-- Slot 0 at reset: loaded with a fresh key for Preder, of world 0 and colour 0 (R324). -/
def resetSlot0 : KeySlot :=
  { state := 1, world := 0, colour := 0, use := 0, gen := 0, key := Config.freshKey 0, writes := 0 }

/-- The package right after reset: no image, no launch, no team and no strand; nothing in memory. -/
def State.reset : State where
  run := { tick := 0, clock := 0, issuing := none, curWord := 0, agenda := [], halted := false, nextTid := 0
           nextSid := 0, nextEv := 0, nextCmd := 0, nextHandle := 1, nextOrder := 0 }
  threads := []
  strands := []
  teams := []
  traps := { pillow := [], groups := [], heldOrphans := [], causeTable := resetCauses, watch := []
             machineChecks := [], nextEid := 0, nextGid := 0 }
  mem := { cells := [], tags := [], poison := [], retired := [], wseq := [], wseqNo := 0, encLines := [], encMajor := [], encTree := [], l1 := []
           events := [], redEntries := [], tlb := [], walkCache := [], layout := [] }
  eng := { cmds := [], lfences := [], qfences := [], copyTurn := [], copyLast := [], drives := [], drivePages := [] }
  front := { launches := [], images := [], regions := [], vcps := [], nextChunk := [], frameWorld := [], nextFrame := [], freeFrames := [], swaps := [], nextSwap := 0, nextVa := []
             hangThreshold := Config.hangThreshold, reports := [], audits := [], auditNo := 0, auditDropped := 0 }
  seams := { entries := [], gens := [], seq := 0 }
  trust := { keys := [(0, resetSlot0)], meas := [], lifecycle := 1, fuseLifecycle := 1, devid := 0
             unlockCounter := 0, unlocking := false, unlockDigest := 0, portOpen := false, sigIndex := 0, resets := 0 }
  plant := { harvest := resetHarvest, clusterWorld := [], ways := [], clustersOut := [], cores := [], linkDirs := []
             clusterWords := [], errors := [], errNext := [], health := 0, replace := none, dumped := false, dump := none }
  fabric := { pkgNo := 0, members := [], imports := [], links := [], outbox := [], flight := [], nextSerial := 0
              rosters := [], leaseTerm := 0, leaseLeader := none, leaseAt := 0, leading := false, bootImage := none }

end Sys2Proof.Machine
end

