-- ==== Sys2Proof/Machine/Data.lean ====
section
/-! DEFINITION. Operations over plain data: sparse maps, memory in its canonical form, and the bytes of a word. -/

namespace Sys2Proof.Machine

/-! ### Sparse data -/

/-- The value at key `k`, `d` where none is listed. -/
def sget {α : Type} (d : α) : Sparse α → Nat → α
  | [], _ => d
  | (j, x) :: m, k => if k = j then x else if k < j then d else sget d m k

/-- `m` with key `k` at `x`; a default value is not listed. -/
def sput {α : Type} [DecidableEq α] (d : α) : Sparse α → Nat → α → Sparse α
  | [], k, x => if x = d then [] else [(k, x)]
  | (j, y) :: m, k, x =>
    if k = j then (if x = d then m else (j, x) :: m)
    else if k < j then (if x = d then (j, y) :: m else (k, x) :: (j, y) :: m)
    else (j, y) :: sput d m k x

/-- Every key of `m` lies above `b`. -/
def sAbove {α : Type} (b : Nat) : Sparse α → Bool
  | [] => true
  | (j, _) :: m => decide (b < j) && sAbove b m

/-- The canonical form: strictly rising keys and no default value. -/
def swf {α : Type} [DecidableEq α] (d : α) : Sparse α → Bool
  | [] => true
  | (j, x) :: m => sAbove j m && decide (x ≠ d) && swf d m

/-- `m` with the keys that `p` holds at their default. -/
def sdrop {α : Type} (p : Nat → Bool) (m : Sparse α) : Sparse α := m.filter fun e => !p e.1

/-- A rising list of numbers with `k` in it. -/
def nins (k : Nat) : List Nat → List Nat
  | [] => [k]
  | j :: m => if k = j then j :: m else if k < j then k :: j :: m else j :: nins k m

/-! ### Memory: physical bytes, an unlisted one reads 0 -/

/-- What an address that memory does not list reads as. DESIGN CHOICE 1, unsafe. -/
def unlistedByte : Byte := 0

/-- A list of cells is in the canonical form. -/
def Memory.wf (m : List Host.Cell) : Bool := swf unlistedByte m

/-- The byte at a physical address. -/
def cellGet (m : List Host.Cell) (a : Nat) : Byte := sget unlistedByte m a

/-- Memory with the byte at `a` written. -/
def cellPut (m : List Host.Cell) (a : Nat) (b : Byte) : List Host.Cell := sput unlistedByte m a b

/-- The `n` bytes from `a` on. -/
def cellGets (m : List Host.Cell) (a : Nat) : Nat → List Byte
  | 0 => []
  | n + 1 => cellGet m a :: cellGets m (a + 1) n

/-- Memory with bytes written from `a` on. -/
def cellPuts (m : List Host.Cell) (a : Nat) : List Byte → List Host.Cell
  | [] => m
  | b :: bs => cellPuts (cellPut m a b) (a + 1) bs

/-! ### Bytes (R2: little-endian) -/

/-- The number of a byte string, first byte lowest. -/
def natOfBytes : List Byte → Nat
  | [] => 0
  | b :: bs => b.toNat + 256 * natOfBytes bs

/-- The low `n` bytes of a number. -/
def bytesOfNat : Nat → Nat → List Byte
  | 0, _ => []
  | n + 1, x => BitVec.ofNat 8 x :: bytesOfNat n (x / 256)

/-- The 32-bit word of four bytes. -/
def wordOf (bs : List Byte) : Word := BitVec.ofNat 32 (natOfBytes bs)

/-- Bytes of a sparse byte store from `a` on. -/
def sbytes (m : Sparse Byte) (a : Nat) : Nat → List Byte
  | 0 => []
  | n + 1 => sget 0 m a :: sbytes m (a + 1) n

/-- A sparse byte store with bytes written from `a` on. -/
def sputs (m : Sparse Byte) (a : Nat) : List Byte → Sparse Byte
  | [] => m
  | b :: bs => sputs (sput 0 m a b) (a + 1) bs

/-! ### Lists -/

/-- The list with `f` applied to the elements that `p` holds for. -/
def mapIf {α : Type} (p : α → Bool) (f : α → α) (l : List α) : List α := l.map fun x => if p x then f x else x

/-- The first `some` of `f` over a list. -/
def firstSome {α β : Type} (f : α → Option β) : List α → Option β
  | [] => none
  | x :: xs => match f x with
    | some y => some y
    | none => firstSome f xs

/-- The greatest of a list, 0 when it is empty. -/
def maxOf (l : List Nat) : Nat := l.foldl max 0

/-- Bit `i` of a 32-bit mask. -/
def bitOf (m : BitVec 32) (i : Nat) : Bool := m.getLsbD i

/-- A 32-bit mask of slots. -/
def maskOf (slots : List Nat) : BitVec 32 := slots.foldl (fun m i => m ||| (1#32 <<< i)) 0

/-- The lowest set bit of a mask, if any. -/
def lowestBit (m : BitVec 32) : Option Nat := (List.range 32).find? (bitOf m)

/-- Sign extension of the low `n` bits of a number into an integer. -/
def sextNat (n x : Nat) : Int :=
  let y := x % 2 ^ n
  if y < 2 ^ (n - 1) then (y : Int) else (y : Int) - (2 ^ n : Nat)

end Sys2Proof.Machine
end

