-- ==== Sys2Proof/Machine/Crypto.lean ====
section
/-! DEFINITION. The outside standards that the spec names: SHA-256 (FIPS 180-4), AES-256 (FIPS 197), key wrap KW (SP 800-38F),
GCM (SP 800-38D) and the hash-based signatures LMS and HSS (RFC 8554), as R321, R324, R333, R334 and R353 use them. -/

namespace Sys2Proof.Machine

/-! ### Bytes with the most significant first -/

/-- The `n` bytes of a number, most significant first. -/
def beBytes (n x : Nat) : List Byte := (bytesOfNat n x).reverse

/-- The number of a byte string, most significant first. -/
def natOfBe (bs : List Byte) : Nat := natOfBytes bs.reverse

/-- Bytes combined by exclusive or. -/
def xorBytes (a b : List Byte) : List Byte := a.zipWith (· ^^^ ·) b

/-- A list in pieces of `k`, at most `n` of them. -/
def pieces {α : Type} (k : Nat) : Nat → List α → List (List α)
  | 0, _ => []
  | _, [] => []
  | n + 1, l => l.take k :: pieces k n (l.drop k)

/-! ### SHA-256 -/

/-- The round constants. -/
def shaK : List Word :=
  [0x428A2F98, 0x71374491, 0xB5C0FBCF, 0xE9B5DBA5, 0x3956C25B, 0x59F111F1, 0x923F82A4, 0xAB1C5ED5] ++
  [0xD807AA98, 0x12835B01, 0x243185BE, 0x550C7DC3, 0x72BE5D74, 0x80DEB1FE, 0x9BDC06A7, 0xC19BF174] ++
  [0xE49B69C1, 0xEFBE4786, 0x0FC19DC6, 0x240CA1CC, 0x2DE92C6F, 0x4A7484AA, 0x5CB0A9DC, 0x76F988DA] ++
  [0x983E5152, 0xA831C66D, 0xB00327C8, 0xBF597FC7, 0xC6E00BF3, 0xD5A79147, 0x06CA6351, 0x14292967] ++
  [0x27B70A85, 0x2E1B2138, 0x4D2C6DFC, 0x53380D13, 0x650A7354, 0x766A0ABB, 0x81C2C92E, 0x92722C85] ++
  [0xA2BFE8A1, 0xA81A664B, 0xC24B8B70, 0xC76C51A3, 0xD192E819, 0xD6990624, 0xF40E3585, 0x106AA070] ++
  [0x19A4C116, 0x1E376C08, 0x2748774C, 0x34B0BCB5, 0x391C0CB3, 0x4ED8AA4A, 0x5B9CCA4F, 0x682E6FF3] ++
  [0x748F82EE, 0x78A5636F, 0x84C87814, 0x8CC70208, 0x90BEFFFA, 0xA4506CEB, 0xBEF9A3F7, 0xC67178F2]

/-- The first hash value. -/
def shaH : List Word :=
  [0x6A09E667, 0xBB67AE85, 0x3C6EF372, 0xA54FF53A, 0x510E527F, 0x9B05688C, 0x1F83D9AB, 0x5BE0CD19]

/-- A 32-bit word turned right. -/
def rotr (x : Word) (n : Nat) : Word := x >>> n ||| x <<< (32 - n)

/-- A message padded to whole blocks of 64 bytes. -/
def shaPad (bs : List Byte) : List Byte :=
  bs ++ [0x80] ++ List.replicate ((119 - bs.length % 64) % 64) 0 ++ beBytes 8 (8 * bs.length)

/-- The message schedule: `n` more words before those of `w`, which stand last first. -/
def shaExpand : Nat → List Word → List Word
  | 0, w => w
  | n + 1, w =>
    let at' := fun (i : Nat) => (w[i]?).getD 0
    let s0 := rotr (at' 14) 7 ^^^ rotr (at' 14) 18 ^^^ at' 14 >>> 3
    let s1 := rotr (at' 1) 17 ^^^ rotr (at' 1) 19 ^^^ at' 1 >>> 10
    shaExpand n ((at' 15 + s0 + at' 6 + s1) :: w)

/-- The eight working words. -/
structure ShaState where
  a : Word
  b : Word
  c : Word
  d : Word
  e : Word
  f : Word
  g : Word
  h : Word

/-- One round. -/
def shaRound (x : ShaState) (kw : Word × Word) : ShaState :=
  let s1 := rotr x.e 6 ^^^ rotr x.e 11 ^^^ rotr x.e 25
  let ch := (x.e &&& x.f) ^^^ (~~~x.e &&& x.g)
  let t1 := x.h + s1 + ch + kw.1 + kw.2
  let s0 := rotr x.a 2 ^^^ rotr x.a 13 ^^^ rotr x.a 22
  let maj := (x.a &&& x.b) ^^^ (x.a &&& x.c) ^^^ (x.b &&& x.c)
  ⟨t1 + (s0 + maj), x.a, x.b, x.c, x.d + t1, x.e, x.f, x.g⟩

/-- One block of 64 bytes. -/
def shaBlock (hs : List Word) (block : List Byte) : List Word :=
  let words := (pieces 4 16 block).map fun b => BitVec.ofNat 32 (natOfBe b)
  let at' := fun (i : Nat) => (hs[i]?).getD 0
  let x := (shaK.zip (shaExpand 48 words.reverse).reverse).foldl shaRound ⟨at' 0, at' 1, at' 2, at' 3, at' 4, at' 5, at' 6, at' 7⟩
  [at' 0 + x.a, at' 1 + x.b, at' 2 + x.c, at' 3 + x.d, at' 4 + x.e, at' 5 + x.f, at' 6 + x.g, at' 7 + x.h]

/-- The digest of a byte string as its 32 bytes. -/
def shaBytes (bs : List Byte) : List Byte :=
  let m := shaPad bs
  ((pieces 64 (m.length / 64) m).foldl shaBlock shaH).flatMap fun w => beBytes 4 w.toNat

/-- The digest as a value: byte i in bits [8i+7:8i] (R384). -/
def sha256 (bs : List Byte) : BitVec 256 := BitVec.ofNat 256 (natOfBytes (shaBytes bs))

/-! ### AES-256 -/

/-- The substitution table in eight parts of 32 bytes, first byte lowest, and its inverse. -/
def sboxParts : List Nat :=
  [0xC072A49CAFA2D4ADF04759FA7DC982CA76ABD7FE2B670130C56F6BF27B777C63,
   0x75B227EBE28012079A059618C323C7041531D871F1E5A534CCF73F362693FDB7,
   0xCF584C4A39BECB6A5BB1FC20ED00D153842FE329B3D63B52A05A6E1B1A2C8309,
   0xD2F3FF1021DAB6BCF5389D928F40A351A89F3C507F02F94585334D43FBAAEFD0,
   0xDB0B5EDE14B8EE4688902A22DC4F816073195D643D7EA7C41744975FEC130CCD,
   0x08AE7A65EAF4566CA94ED58D6D37C8E779E4959162ACD3C25C2406490A3A32E0,
   0x9E1DC186B95735610EF6034866B53E708A8BBD4B1F74DDE8C6B4A61C2E2578BA,
   0x16BB54B00F2D99416842E6BF0D89A18CDF2855CEE9871E9B948ED9691198F8E1]
def sboxInvParts : List Nat :=
  [0xCBE9DEC444438E3487FF2F9B8239E37CFBD7F3819EA340BF38A53630D56A0952,
   0x25D18B6D49A25B76B224D92866A12E084EC3FA420B954CEE3D23C2A632947B54,
   0x849D8DA75746155EDAB9EDFD5048706C92B6655DCC5CA4D41698688664F6F872,
   0x6B8A130103BDAFC1020F3FCA8F1E2CD00645B3B80558E4F70AD3BC8C00ABD890,
   0x6EDF751CE837F9E28535ADE72274AC9673E6B4F0CECFF297EADC674F4111913A,
   0xF45ACD78FEC0DB9A2079D2C64B3E56FC1BBE18AA0E62B76F89C5291D711AF147,
   0xEF9CC9939F7AE52D0D4AB519A97F51605FEC8027591012B131C7078833A8DD1F,
   0x7D0C2155631469E126D677BA7E042B17619953833CBBEBC8B0F52AAE4D3BE0A0]

/-- A byte of such a table. -/
def tableByte (parts : List Nat) (x : Byte) : Byte :=
  BitVec.ofNat 8 ((parts[x.toNat / 32]?).getD 0 / 256 ^ (x.toNat % 32))

def subByte (x : Byte) : Byte := tableByte sboxParts x
def subByteInv (x : Byte) : Byte := tableByte sboxInvParts x

/-- Products in the field of AES. -/
def xtime (x : Byte) : Byte := x <<< 1 ^^^ (if x.getLsbD 7 then 0x1B else 0)
def fieldMul : Nat → Byte → Byte → Byte
  | 0, _, _ => 0
  | n + 1, k, x => (if k.getLsbD 0 then x else 0) ^^^ fieldMul n (k >>> 1) (xtime x)

/-- Four bytes, or a column, multiplied by a fixed row that turns. -/
def mixWith (row : List Byte) (col : List Byte) : List Byte :=
  (List.range 4).map fun i => ((List.range 4).map fun j => fieldMul 4 ((row[(j + 4 - i) % 4]?).getD 0) ((col[j]?).getD 0)).foldl (· ^^^ ·) 0

/-- The round keys' words. `n` more come before those of `w`, which stand last first; `i` is the number of the next. -/
def keyWords : Nat → Nat → List (List Byte) → List (List Byte)
  | 0, _, w => w
  | n + 1, i, w =>
    let last := (w[0]?).getD []
    let temp := if i % 8 == 0 then
        xorBytes ((last.drop 1 ++ last.take 1).map subByte) [(List.range (i / 8 - 1)).foldl (fun x _ => xtime x) 1, 0, 0, 0]
      else if i % 8 == 4 then last.map subByte else last
    keyWords n (i + 1) (xorBytes ((w[7]?).getD []) temp :: w)

/-- The 15 round keys of a 32-byte key. -/
def roundKeys (key : List Byte) : List (List Byte) := pieces 16 15 ((keyWords 52 8 (pieces 4 8 key).reverse).reverse.flatten)

/-- The rows of a block turned: byte `r` of column `c` comes from column c + r, or c − r. -/
def shiftRows (back : Bool) (b : List Byte) : List Byte :=
  (List.range 16).map fun i => (b[4 * ((i / 4 + (if back then 4 - i % 4 else i % 4)) % 4) + i % 4]?).getD 0

/-- A block enciphered. -/
def aesEncrypt (key block : List Byte) : List Byte :=
  match roundKeys key with
  | [] => block
  | k0 :: ks =>
    let b := ks.dropLast.foldl (fun b k => xorBytes k ((pieces 4 4 (shiftRows false (b.map subByte))).flatMap (mixWith [2, 3, 1, 1])))
      (xorBytes k0 block)
    xorBytes ((ks.getLast?).getD []) (shiftRows false (b.map subByte))

/-- A block deciphered. -/
def aesDecrypt (key block : List Byte) : List Byte :=
  match (roundKeys key).reverse with
  | [] => block
  | k0 :: ks =>
    let b := ks.dropLast.foldl (fun b k =>
      (pieces 4 4 (xorBytes k ((shiftRows true b).map subByteInv))).flatMap (mixWith [14, 11, 13, 9])) (xorBytes k0 block)
    xorBytes ((ks.getLast?).getD []) ((shiftRows true b).map subByteInv)

/-- A key as its 32 bytes. -/
def keyBytes (k : BitVec 256) : List Byte := bytesOfNat 32 k.toNat

/-! ### Key wrap (SP 800-38F, KW) -/

/-- The steps of the unwrapping, from number `t` down, over the first semiblock and the other four. -/
def kwSteps (key : List Byte) : Nat → List Byte → List (List Byte) → List Byte × List (List Byte)
  | 0, a, rs => (a, rs)
  | t + 1, a, rs =>
    let i := t % 4
    let b := aesDecrypt key (xorBytes a (beBytes 8 (t + 1)) ++ (rs[i]?).getD [])
    kwSteps key t (b.take 8) (rs.set i (b.drop 8))

/-- R324, R385: a 40-byte wrapped key unwrapped; none when the integrity check fails. -/
def unwrapKey (kek : BitVec 256) (wrapped : List Byte) : Option (BitVec 256) :=
  let (a, rs) := kwSteps (keyBytes kek) 24 (wrapped.take 8) (pieces 8 4 (wrapped.drop 8))
  if a == List.replicate 8 0xA6 then some (BitVec.ofNat 256 (natOfBytes rs.flatten)) else none

/-! ### GCM (SP 800-38D) -/

/-- The product in the field of GHASH, over `n` more bits of `x` from bit 127 − i down. -/
def ghashMul (y : BitVec 128) : Nat → BitVec 128 → BitVec 128 → BitVec 128
  | 0, _, z => z
  | n + 1, v, z =>
    let z := if y.getLsbD n then z ^^^ v else z
    ghashMul y n (v >>> 1 ^^^ (if v.getLsbD 0 then 0xE1000000000000000000000000000000 else 0)) z

/-- GHASH of whole blocks under a hash key. -/
def ghash (h : BitVec 128) (blocks : List (List Byte)) : BitVec 128 :=
  blocks.foldl (fun y b => ghashMul (y ^^^ BitVec.ofNat 128 (natOfBe b)) 128 h 0) 0

/-- Bytes filled up with zeros to whole blocks of 16. -/
def fillBlock (bs : List Byte) : List Byte := bs ++ List.replicate ((16 - bs.length % 16) % 16) 0

/-- The tag over some bytes, with the counter block that masks it. -/
def gcmTagWith (key mask bs : List Byte) : List Byte :=
  let h := BitVec.ofNat 128 (natOfBe (aesEncrypt key (List.replicate 16 0)))
  let all := fillBlock bs ++ beBytes 8 0 ++ beBytes 8 (8 * bs.length)
  xorBytes (beBytes 16 (ghash h (pieces 16 (all.length / 16) all)).toNat) (aesEncrypt key mask)

/-- The keystream of counter blocks. -/
def keystream (key : List Byte) (blocks : List (List Byte)) : List Byte := blocks.flatMap (aesEncrypt key)

/-- A byte string enciphered under a key and a 96-bit nonce. -/
def gcmCipher (key nonce bs : List Byte) : List Byte :=
  xorBytes bs (keystream key ((List.range ((bs.length + 15) / 16)).map fun i => nonce ++ beBytes 4 (i + 2)))

/-- R353: the tag of AES-256-GCM over a byte string that it enciphers. -/
def gcmTag (key : BitVec 256) (nonce : BitVec 96) (bs : List Byte) : BitVec 128 :=
  let k := keyBytes key
  let iv := beBytes 12 nonce.toNat
  BitVec.ofNat 128 (natOfBytes (gcmTagWith k (iv ++ beBytes 4 1) (gcmCipher k iv bs)))

/-! ### LMS and HSS (RFC 8554): hash of 32 bytes, Winternitz parameter w = 4 -/

/-- The digits of a digest and its checksum. -/
def lmDigits (q : List Byte) : List Nat :=
  let ds := q.flatMap fun b => [b.toNat / 16, b.toNat % 16]
  let sum := (ds.map (15 - ·)).foldl (· + ·) 0 * 16
  ds ++ [sum / 4096 % 16, sum / 256 % 16, sum / 16 % 16]

/-- The head of every hash of a tree: its identifier, a leaf or node number and a type. -/
def lmHead (tree : List Byte) (q kind : Nat) : List Byte := tree ++ beBytes 4 q ++ beBytes 2 kind

/-- A chain of one-time hashes: `n` steps from step `j` on. -/
def lmChain (tree : List Byte) (q i : Nat) : Nat → Nat → List Byte → List Byte
  | 0, _, x => x
  | n + 1, j, x => lmChain tree q i n (j + 1) (shaBytes (lmHead tree q i ++ beBytes 1 j ++ x))

/-- A tree of the signing key: its identifier, the secrets of its leaves, and its height and types. -/
structure LmTree where
  ident  : List Byte
  secret : Nat → Nat → List Byte
  rand   : Nat → List Byte
  height : Nat
  type   : Nat

/-- LMOTS_SHA256_N32_W4. -/
def lmotsType : Nat := 3

/-- The one-time public key of a leaf. -/
def lmotsPublic (t : LmTree) (q : Nat) : List Byte :=
  shaBytes (lmHead t.ident q 0x8080 ++ (List.range 67).flatMap fun i => lmChain t.ident q i 15 0 (t.secret q i))

/-- The one-time signature of a message. -/
def lmotsSign (t : LmTree) (q : Nat) (msg : List Byte) : List Byte :=
  let digest := shaBytes (lmHead t.ident q 0x8181 ++ t.rand q ++ msg)
  beBytes 4 lmotsType ++ t.rand q ++
    (lmDigits digest).zipIdx.flatMap fun x => lmChain t.ident q x.2 x.1 0 (t.secret q x.2)

/-- The node `r` of the tree, `n` levels above its leaves. -/
def lmNode (t : LmTree) : Nat → Nat → List Byte
  | 0, r => shaBytes (lmHead t.ident r 0x8282 ++ lmotsPublic t (r - 2 ^ t.height))
  | n + 1, r => shaBytes (lmHead t.ident r 0x8383 ++ lmNode t n (2 * r) ++ lmNode t n (2 * r + 1))

/-- The public key of a tree: 56 bytes. -/
def lmsPublic (t : LmTree) : List Byte := beBytes 4 t.type ++ beBytes 4 lmotsType ++ t.ident ++ lmNode t t.height 1

/-- The signature of a message with leaf `q`. -/
def lmsSign (t : LmTree) (q : Nat) (msg : List Byte) : List Byte :=
  beBytes 4 q ++ lmotsSign t q msg ++ beBytes 4 t.type ++
    (List.range t.height).flatMap fun i => lmNode t i ((2 ^ t.height + q) / 2 ^ i ^^^ 1)

/-- A 32-byte secret, or a random value, of the root of trust. -/
def secretBytes (x : BitVec 256) : List Byte := bytesOfNat 32 x.toNat

/-- R334: the trees of the two levels: LMS_SHA256_M32_H10 (type 6) and, below its leaf `n`, LMS_SHA256_M32_H15 (type 7). -/
def hssTop : LmTree :=
  { ident := bytesOfNat 16 (Config.hssTree 0).toNat, secret := fun q i => secretBytes (Config.hssSecret 0 q i)
    rand := fun q => secretBytes (Config.hssSecret 0 q 67), height := 10, type := 6 }
def hssLow (n : Nat) : LmTree :=
  { ident := bytesOfNat 16 (Config.hssTree (n + 1)).toNat, secret := fun q i => secretBytes (Config.hssSecret (n + 1) q i)
    rand := fun q => secretBytes (Config.hssSecret (n + 1) q 67), height := 15, type := 7 }

/-- R334: the HSS signature with a signature index: Nspk = 1, the level-0 signature of the level-1 key, that key, and the
level-1 signature of the message. -/
def hssSign (index : Nat) (msg : List Byte) : List Byte :=
  let low := hssLow (index / 2 ^ 15)
  beBytes 4 1 ++ lmsSign hssTop (index / 2 ^ 15) (lmsPublic low) ++ lmsPublic low ++ lmsSign low (index % 2 ^ 15) msg

end Sys2Proof.Machine
end

