-- ==== Sys2Proof/Machine/Ops.lean ====
section
/-! DEFINITION. The named operations over the state: finding and changing records, registers, paths and frames, the turn,
filing a thread (taking an exception) and its return, the end of a launch in error. -/

namespace Sys2Proof.Machine

/-- The outcome of a step. -/
abbrev Out := Host.Outcome State Fault Refusal

/-! ### Finding records -/

/-- The strand of a number. -/
def strandOf (s : State) (sid : Nat) : Option Strand := s.strands.find? fun x => x.sid == sid

/-- The team of a number. -/
def teamOf (s : State) (tid : Nat) : Option Team := s.teams.find? fun x => x.tid == tid

/-- The launch of a number. -/
def launchOf (s : State) (num : Nat) : Option Launch := s.front.launches.find? fun x => x.num == num

/-- The thread of a team and rank. -/
def threadOf (s : State) (tid rank : Nat) : Option Thread := s.threads.find? fun x => x.tid == tid && x.rank == rank

/-- The Pillow entry of a number. -/
def entryOf (s : State) (eid : Nat) : Option Entry := s.traps.pillow.find? fun x => x.eid == eid

/-- The thread in a slot of a strand. -/
def slotThread (s : State) (sid slot : Nat) : Option Thread :=
  s.threads.find? fun x => x.sid == sid && x.slot == slot && x.status != .exited

/-- The path of a number in a strand. -/
def Strand.path? (st : Strand) (pid : Nat) : Option Path := st.paths.find? fun x => x.pid == pid

/-- The frame of a number in a strand. -/
def Strand.frame? (st : Strand) (fid : Nat) : Option Frame := (st.frames.find? fun x => x.1 == fid).map (·.2)

/-! ### Changing records -/

/-- The state with `f` applied to one strand. -/
def updStrand (s : State) (sid : Nat) (f : Strand → Strand) : State :=
  { s with strands := mapIf (fun x => x.sid == sid) f s.strands }

/-- The state with `f` applied to one team. -/
def updTeam (s : State) (tid : Nat) (f : Team → Team) : State :=
  { s with teams := mapIf (fun x => x.tid == tid) f s.teams }

/-- The state with `f` applied to one thread. -/
def updThread (s : State) (tid rank : Nat) (f : Thread → Thread) : State :=
  { s with threads := mapIf (fun x => x.tid == tid && x.rank == rank) f s.threads }

/-- The state with `f` applied to every thread that `p` holds for. -/
def updThreads (s : State) (p : Thread → Bool) (f : Thread → Thread) : State :=
  { s with threads := mapIf p f s.threads }

/-- The state with `f` applied to one launch. -/
def updLaunch (s : State) (num : Nat) (f : Launch → Launch) : State :=
  { s with front := { s.front with launches := mapIf (fun x => x.num == num) f s.front.launches } }

/-- The state with `f` applied to one Pillow entry. -/
def updEntry (s : State) (eid : Nat) (f : Entry → Entry) : State :=
  { s with traps := { s.traps with pillow := mapIf (fun x => x.eid == eid) f s.traps.pillow } }

/-- A strand with `f` applied to one path. -/
def Strand.updPath (st : Strand) (pid : Nat) (f : Path → Path) : Strand :=
  { st with paths := mapIf (fun x => x.pid == pid) f st.paths }

/-- A strand with `f` applied to one frame. -/
def Strand.updFrame (st : Strand) (fid : Nat) (f : Frame → Frame) : Strand :=
  { st with frames := st.frames.map fun x => if x.1 == fid then (x.1, f x.2) else x }

/-- The state with `f` applied to one path of a strand. -/
def updPath (s : State) (sid pid : Nat) (f : Path → Path) : State := updStrand s sid fun st => st.updPath pid f

/-! ### Registers -/

/-- No capability: untagged zero (R50, R52). -/
def nullCap : Cap := ⟨0, false⟩

/-- v register (R50). -/
def Thread.getV (t : Thread) (n : Nat) : Word := sget 0 t.v n

/-- The thread with a v register written. -/
def Thread.setV (t : Thread) (n : Nat) (w : Word) : Thread := { t with v := sput 0 t.v n w }

/-- Predicate; p0 reads 1 (R50). -/
def Thread.getP (t : Thread) (n : Nat) : Bool := n == 0 || t.p.getLsbD n

/-- The thread with a predicate written; writes of p0 are discarded (R50). -/
def Thread.setP (t : Thread) (n : Nat) (b : Bool) : Thread :=
  if n == 0 then t else { t with p := if b then t.p ||| (1#8 <<< n) else t.p &&& ~~~(1#8 <<< n) }

/-- c register (R50). -/
def Thread.getC (t : Thread) (n : Nat) : Cap := sget nullCap t.c n

/-- The thread with a c register written. -/
def Thread.setC (t : Thread) (n : Nat) (x : Cap) : Thread := { t with c := sput nullCap t.c n x }

/-- s register; s63 reads 0 (R52). -/
def Strand.getS (st : Strand) (n : Nat) : DWord := if n == 63 then 0 else sget 0 st.s n

/-- The strand with an s register written; writes of s63 are discarded (R52). -/
def Strand.setS (st : Strand) (n : Nat) (w : DWord) : Strand := if n == 63 then st else { st with s := sput 0 st.s n w }

/-- k register (R52). -/
def Strand.getK (st : Strand) (n : Nat) : Cap := sget nullCap st.k n

/-- The strand with a k register written. -/
def Strand.setK (st : Strand) (n : Nat) (x : Cap) : Strand := { st with k := sput nullCap st.k n x }

/-- A tile whose control register and bytes are zero (R187, R188). -/
def zeroTile : Tile := ⟨0, []⟩

/-- R40: one write of a thread's own state; the writes that belong to the strand or team are not its own. -/
def Thread.write (t : Thread) : Write → Thread
  | .v n w => t.setV n w
  | .p n b => t.setP n b
  | .c n x => t.setC n x
  | .flags f => { t with fpcsr := t.fpcsr ||| f.setWidth 32 }
  | .gen g => { t with gen := g }
  | _ => t

/-- Several writes, first to last. -/
def Thread.writes (t : Thread) (ws : List Write) : Thread := ws.foldl Thread.write t

/-- R40: one write of the strand's own state. -/
def Strand.write (st : Strand) : Write → Strand
  | .s n w => st.setS n w
  | .k n x => st.setK n x
  | .mstat b => { st with mstat := st.mstat ||| b.setWidth 32 }
  | _ => st

/-- R40: one write of the team's tiles or accumulators. -/
def Team.write (tm : Team) : Write → Team
  | .tileByte t off b =>
    let x := sget zeroTile tm.tiles t
    { tm with tiles := sput zeroTile tm.tiles t { x with data := sput 0 x.data off b }
              tilePoison := if off % 4 == 3 then sput none tm.tilePoison (512 * t + off / 4) none else tm.tilePoison }
  | .acc t e x => { tm with accs := sput 0 tm.accs (256 * t + e) x, accPoison := sput none tm.accPoison (256 * t + e) none }
  | _ => tm

/-- Writes that no lane owns, to the strand and its team. -/
def strandWrites (s : State) (st : Strand) (ws : List Write) : State :=
  updTeam (updStrand s st.sid fun x => ws.foldl Strand.write x) st.tid fun tm => ws.foldl Team.write tm

/-! ### Paths, presence and the turn -/

/-- R32: the threads of a path that are present, in slot order. -/
def presentOf (s : State) (sid : Nat) (p : Path) : List Thread :=
  (List.range 32).filterMap fun i =>
    if bitOf p.mask i then
      match slotThread s sid i with
      | some t => if t.status = .present then some t else none
      | none => none
    else none

/-- The threads that execute an instruction of a path: the present ones, and in solo mode the lowest alone (R171). -/
def executing (s : State) (sid : Nat) (p : Path) : List Thread :=
  if p.solo then (presentOf s sid p).take 1 else presentOf s sid p

/-- R55, R59: a path can take a turn when it is ready and a thread of it is present. -/
def pathReady (s : State) (sid : Nat) (p : Path) : Bool :=
  p.state = .ready && !(presentOf s sid p).isEmpty

/-- The ready paths of a strand other than the current one, in the order in which they get the turn (R59). -/
def turnOrder (s : State) (st : Strand) : List Path :=
  let ready := st.paths.filter fun p => p.pid != st.cur && pathReady s st.sid p
  (ready.filter fun p => decide (st.cur < p.pid)) ++ ready.filter fun p => decide (p.pid < st.cur)

/-- R59: the turn goes to the next ready path. With no other ready path it stays. -/
def passTurn (s : State) (sid : Nat) : State :=
  match strandOf s sid with
  | none => s
  | some st =>
    match turnOrder s st with
    | [] => s
    | p :: _ => updStrand s sid fun x => { x.updPath p.pid fun q => { q with marks := 0 } with cur := p.pid }

/-- The frames that enclose a path, from its parent frame `fid` outwards (R55). -/
def enclosing : Nat → Strand → Option Nat → List Nat
  | 0, _, _ => []
  | _, _, none => []
  | n + 1, st, some fid => fid :: enclosing n st ((st.frame? fid).bind (·.parent))

/-- R59: the paths, ready or not, that stand before `p` in the order of turns. -/
def aheadOf (st : Strand) (p : Path) : Nat :=
  (st.paths.filter fun q => q.pid != st.cur && q.pid != p.pid &&
    if st.cur < p.pid then decide (st.cur < q.pid) && decide (q.pid < p.pid)
    else decide (st.cur < q.pid) || decide (q.pid < p.pid)).length

/-- R59: the paths that may still come into being before `p`'s turn without a marker of their own: a divergence, a filing or a
join that has taken its marker, a filed thread's return and a frame that closes. New paths stand last in the order, so none
comes before a path that the order still reaches ahead of them. -/
def lateOf (s : State) (st : Strand) (p : Path) : Nat :=
  if st.cur < p.pid then 0
  else
    let marked := (st.paths.filter fun q => q.marked && q.pid != p.pid).flatMap (presentOf s st.sid)
    let away := s.threads.filter fun t => t.sid == st.sid && t.status != .present && t.status != .exited
    let outer := enclosing 17 st p.parent
    marked.length + away.length + (st.frames.filter fun x => !outer.contains x.1).length

/-- R59: a ready path's turn is due: one marker more before it could make 65, with one marker for each path that is, or may
yet come, before it. The bound of 64 so holds whatever the paths do in between. -/
def turnDue (s : State) (st : Strand) : Bool :=
  (turnOrder s st).any fun p => decide (Config.turnBound < p.marks + 1 + aheadOf st p + lateOf s st p)

/-- R59: the Commit() of a marker counts against the ready siblings and passes the turn or keeps it. -/
def markTurn (s : State) (sid : Nat) : State :=
  match strandOf s sid with
  | none => s
  | some st =>
    let others := (turnOrder s st).map (·.pid)
    if others.isEmpty then s
    else
      let s := updStrand s sid fun x =>
        { x with paths := mapIf (fun p => others.contains p.pid) (fun p => { p with marks := p.marks + 1 }) x.paths }
      match strandOf s sid with
      | none => s
      | some st => if turnDue s st || Config.pick s.run.tick 1 % 2 == 1 then passTurn s sid else s

/-- A path as it becomes ready at `pc`. -/
def Path.resume (p : Path) (pc : DWord) : Path := { p with state := .ready, pc := pc, marks := 0 }

/-! ### Slots held in frames -/

/-- The strand is the home of ranks of its own (R50): a home strand, or a handler strand (R166, R185). -/
def Strand.isHome (st : Strand) : Bool := st.kind == .home || st.kind == .handler

/-- R174: the strand is a straggler strand, which is the origin strand of what its thread files. -/
def StrandKind.isStraggler : StrandKind → Bool
  | .straggler _ _ => true
  | _ => false

/-- R164, R185: the strand serves subjects: a handler strand, or the straggler strand of one of its lanes. -/
def Strand.serves (st : Strand) : Bool := st.kind == .handler || (st.kind.isStraggler && st.handlerCause != 0)

/-- The home strand of a rank in a team and its home slot (R50). -/
def homeStrand? (s : State) (tid rank : Nat) : Option Strand :=
  s.strands.find? fun x => x.tid == tid && x.isHome && x.num == rank / 32

/-- A thread belongs to a strand: it stands there, or the strand is its home (R50, R61). -/
def ofStrand (st : Strand) (t : Thread) : Bool :=
  t.tid == st.tid && (t.sid == st.sid || (st.isHome && t.rank / 32 == st.num))

/-- The slot that a strand's masks give a thread of it. -/
def maskSlot (st : Strand) (t : Thread) : Nat := if t.sid == st.sid then t.slot else t.rank % 32

/-- A thread is filed, or has been returned and waits for a slot (R157, R174). -/
def ThreadStatus.away : ThreadStatus → Bool
  | .filed _ => true
  | .waitingSlot _ _ => true
  | _ => false

/-- R57, R62, R172: a thread straggles with respect to a strand's frames. One that straggles in a fresh strand still belongs to
the frame of its home strand that it left. -/
def stragglesFor (st : Strand) (t : Thread) : Bool :=
  ofStrand st t && t.straggling && (t.homeFrame.isNone || !st.isHome)

/-- The slots of threads that straggle with respect to the strand's frames (R172). A member that straggles counts as gone for
every open frame of the strand, with no further window of its own for an outer one (DESIGN CHOICE 91). -/
def stragglingSlots (s : State) (st : Strand) : BitVec 32 :=
  maskOf ((s.threads.filter (stragglesFor st)).map (maskSlot st))

/-- The slots of a strand whose threads are filed or straggling, so absent from the strand's paths (R57, R172). -/
def absentSlots (s : State) (st : Strand) : BitVec 32 :=
  maskOf ((s.threads.filter fun t => (ofStrand st t && t.status.away) || stragglesFor st t).map (maskSlot st))

/-- The filed members whose window has not expired (R172). -/
def filedSlots (s : State) (st : Strand) : BitVec 32 := absentSlots s st &&& ~~~(stragglingSlots s st)

/-- R57: frame F can close: the arrived threads and the absent members whose window has expired make up `expected`. -/
def frameComplete (s : State) (st : Strand) (f : Frame) : Bool :=
  f.expected &&& ~~~(f.arrived ||| stragglingSlots s st ||| (f.lapsed &&& absentSlots s st)) == 0

/-- The members of a strand's paths below frame `fid`. -/
def childMask (st : Strand) (fid : Nat) : BitVec 32 :=
  (st.paths.filter fun p => p.parent == some fid).foldl (fun m p => m ||| p.mask) 0

/-- R57, R58: the frame closes. Its child paths become one path of the arrived threads at joinpc + 4; members still away
straggle. A frame that no thread has arrived at is discarded. A thread moved to a fresh strand leaves its home strand's frame
when that frame closes without it, and keeps it when a frame of the fresh strand does (R62). -/
def closeFrame (s : State) (sid fid : Nat) : State :=
  match strandOf s sid with
  | none => s
  | some st =>
    match st.frame? fid with
    | none => s
    | some f =>
      let gone := f.expected &&& ~~~f.arrived
      let paths := st.paths.filter fun p => p.parent != some fid
      let frames := st.frames.filter fun x => x.1 != fid
      let merged : Path :=
        { pid := st.nextPid, mask := f.arrived, pc := f.joinpc.getD 0 + 4, parent := f.parent, rep := 0, repWord := 0
          state := .ready, code := f.code, solo := false, marks := 0, fromBrp := none, fence := none, marked := false, probe := [] }
      let s := updStrand s sid fun x =>
        { x with paths := if f.arrived == 0 then paths else paths ++ [merged], frames := frames, nextPid := x.nextPid + 1 }
      updThreads s (fun t => ofStrand st t && t.status.away && bitOf gone (maskSlot st t))
        fun t => { t with straggling := true, homeFrame := if st.isHome then none else t.homeFrame }

/-- R172: the absence clocks of a strand's frames, with its `absent` members and those of them that are `filed` with a window
of their own. A clock starts where every present member has arrived and a filed one has still to return; it runs while one
has, and stops when none is left. -/
def frameClocks (now : Nat) (absent filed : BitVec 32) (x : Strand) : Strand :=
  { x with frames := x.frames.map fun (fid, f) =>
      let pending := f.expected &&& ~~~f.arrived &&& filed &&& ~~~f.lapsed
      if f.clock.isNone && f.joinpc.isSome && !(x.frames.any fun y => y.2.parent == some fid) && pending != 0
          && f.expected &&& ~~~(f.arrived ||| absent) == 0 then
        (fid, { f with clock := some ⟨now, x.absence.toNat⟩ })
      else if f.clock.isSome && pending == 0 then (fid, { f with clock := none })
      else (fid, f) }

/-- R172, R173: the window of a frame expires for the members that are filed now. A member that returns before the frame has
closed is waited for again. -/
def lapseFrame (filed : BitVec 32) (f : Frame) : Frame := { f with clock := none, lapsed := f.lapsed ||| (f.expected &&& filed) }

/-- R173: a member that has come back is no lapsed one. -/
def unlapse (slot : Nat) (st : Strand) : Strand :=
  { st with frames := st.frames.map fun x => (x.1, { x.2 with lapsed := x.2.lapsed &&& ~~~(1#32 <<< slot) }) }

/-- R57, R172: closes the strand's frames that can close, innermost first, and starts an absence clock where every
present member has arrived and a filed one has not. -/
def settleFrames (s : State) (sid : Nat) : Nat → State
  | 0 => s
  | n + 1 =>
    match strandOf s sid with
    | none => s
    | some st =>
      match st.frames.find? fun x => frameComplete s st x.2 && !(st.frames.any fun y => y.2.parent == some x.1) with
      | some x => settleFrames (closeFrame s sid x.1) sid n
      | none => updStrand s sid (frameClocks s.run.clock.toNat (absentSlots s st) (filedSlots s st))

/-- A path without a parent frame, as it stands at `pc` with the given threads. -/
def rootPath (st : Strand) (mask : BitVec 32) (pc : DWord) (code : Cap) : Path :=
  { pid := st.nextPid, mask := mask, pc := pc, parent := none, rep := 0, repWord := 0, state := .ready, code := code
    solo := false, marks := 0, fromBrp := none, fence := none, marked := false, probe := [] }

/-- The paths without a parent frame that have a present thread. -/
def liveRoots (s : State) (st : Strand) : List Path :=
  st.paths.filter fun p => p.parent.isNone && !(presentOf s st.sid p).isEmpty

/-- A path stands parked at a join. -/
def Path.stands (p : Path) : Bool :=
  match p.state with
  | .atJoin _ => true
  | _ => false

/-- R172, R184: every path without a parent frame that has a present thread stands at a join. -/
def rootWaits (s : State) (st : Strand) : Bool :=
  let live := liveRoots s st
  !live.isEmpty && st.frames.isEmpty && live.all Path.stands

/-- R172, R184: the absence clock of a root join starts while a member is filed, runs on while one is, and stops when none
is. -/
def rootClock (s : State) (st : Strand) : Strand :=
  match st.rootJoin with
  | none => st
  | some rj =>
    if filedSlots s st == 0 then { st with rootJoin := some { rj with clock := none } }
    else if rootWaits s st && rj.clock.isNone then
      { st with rootJoin := some { rj with clock := some ⟨s.run.clock.toNat, st.absence.toNat⟩ } }
    else st

/-- R172, R184: when every path without a parent frame that has a present thread stands at a join, and no member is filed
whose window has not expired, they become one path at the join's PC + 4, under the code capability of the first of them
(DESIGN CHOICE 91). While a member is filed the absence clock runs. -/
def settleRoot (s : State) (sid : Nat) : State :=
  match strandOf s sid with
  | none => s
  | some st =>
    match st.rootJoin with
    | none => s
    | some rj =>
      if rootWaits s st && filedSlots s st == 0 then
        let live := liveRoots s st
        let mask := maskOf (live.flatMap fun p => (presentOf s sid p).map (·.slot))
        let code := match live with
          | p :: _ => p.code
          | [] => nullCap
        updStrand s sid fun x =>
          { x with paths := (x.paths.filter fun p => p.parent.isSome) ++ [rootPath x mask (rj.pc + 4) code]
                   nextPid := x.nextPid + 1, rootJoin := none }
      else updStrand s sid (rootClock s)

/-- R172: the clocks of a strand start also when its last member on the way to the join is filed. -/
def startClocks (s : State) (st : Strand) : Strand := rootClock s (frameClocks s.run.clock.toNat (absentSlots s st) (filedSlots s st) st)

/-- R57, R172, R184: the frames and the root join of a strand, settled. A strand has at most 16 frames. -/
def settle (s : State) (sid : Nat) : State := settleRoot (settleFrames s sid 17) sid

/-- R58: the thread in `slot` leaves the paths and frames of a strand. -/
def removeSlot (st : Strand) (slot : Nat) : Strand :=
  let m : BitVec 32 := ~~~(1#32 <<< slot)
  { st with
    paths := (st.paths.map fun p => { p with mask := p.mask &&& m }).filter fun p => p.mask != 0
    frames := (st.frames.map fun (i, f) => (i, { f with expected := f.expected &&& m, arrived := f.arrived &&& m })).filter
      fun x => x.2.expected != 0 }

/-- R58, R166: a strand with no thread present, filed or straggling releases its slot. A home strand stays while a
thread of its own ranks lives elsewhere (R174), and a handler strand while it is parked for an entry that `hpass` files again
(R159). -/
def strandLive (s : State) (st : Strand) : Bool :=
  (st.kind == .handler && !st.parked.isEmpty) || s.threads.any fun t => t.tid == st.tid && t.status != .exited &&
    (t.sid == st.sid || (st.isHome && t.rank / 32 == st.num))

/-- R58, R62, R166: drops the strand when no thread of it lives. s2 of a home strand as it ends stays with its team, for
R371. -/
def releaseStrand (s : State) (sid : Nat) : State :=
  match strandOf s sid with
  | none => s
  | some st =>
    if strandLive s st then s
    else
      let s := { s with strands := s.strands.filter fun x => x.sid != sid }
      if st.kind == .handler then
        { s with teams := s.teams.filter fun x => x.tid != st.tid, threads := s.threads.filter fun t => t.tid != st.tid }
      else if st.kind == .home then updTeam s st.tid fun tm => { tm with result := st.getS 2 }
      else s

/-- A thread stands present in a strand. -/
def anyPresent (s : State) (sid : Nat) : Bool := s.threads.any fun t => t.sid == sid && t.status = .present

/-- A path waits, in a straggler strand, for a join of its home strand. -/
def Path.awaitsHome (p : Path) : Bool :=
  match p.state with
  | .waiting .straggler _ => true
  | _ => false

/-- R174: the straggler strands of a home strand that are parked at their join. -/
def waitingStragglers (s : State) (home : Nat) : List Strand :=
  s.strands.filter fun x => x.kind = .straggler home false && x.paths.any Path.awaitsHome

/-- R174: parked stragglers whose home strand has no thread present take their join as a root join, and go on alone
(DEDUCED 89). -/
def freeStragglers (s : State) (home : Nat) : State :=
  if anyPresent s home then s
  else (waitingStragglers s home).foldl (fun s x =>
    settle (updStrand s x.sid fun st =>
      { st with kind := .straggler home true, rootJoin := (st.paths.find? Path.awaitsHome).map fun p => ⟨p.pc, none⟩
                paths := st.paths.map fun p => if p.awaitsHome then { p with state := .atJoin s.run.clock.toNat } else p }) x.sid) s

/-- R58: a thread exits. Its records leave its strand and, if it stands elsewhere, its home strand's frames. -/
def exitThread (s : State) (tid rank : Nat) : State :=
  match threadOf s tid rank with
  | none => s
  | some t =>
    let s := updThread s tid rank fun x => { x with status := .exited, straggling := false, homeFrame := none }
    let s := updStrand s t.sid fun st => removeSlot st t.slot
    let s := match homeStrand? s tid rank with
      | some h => if h.sid != t.sid then
          settle (updStrand s h.sid fun st => removeSlot st (rank % 32)) h.sid else s
      | none => s
    let s := settle s t.sid
    let s := releaseStrand s t.sid
    match homeStrand? s tid rank with
    | some h => releaseStrand (freeStragglers s h.sid) h.sid
    | none => s

/-- R59: when the current path can no longer run, the turn passes. -/
def yieldIfParked (s : State) (sid : Nat) : State :=
  match strandOf s sid with
  | none => s
  | some st =>
    match st.path? st.cur with
    | some p => if pathReady s sid p then s else passTurn s sid
    | none => passTurn s sid

/-! ### Launches and teams ending in error -/

/-- R160: the Pillow entries that `p` holds for are withdrawn. -/
def withdraw (s : State) (p : Entry → Bool) : State :=
  { s with traps := { s.traps with pillow := s.traps.pillow.filter fun e => !p e } }

/-- An entry's subject is a thread of the team. -/
def Subject.ofTeam (tid : Nat) : Subject → Bool
  | .thread t _ => t == tid
  | _ => false

/-- A plain store to translated device space: in an unexposed interval it is held for staging (R201). -/
def MemEv.plainStore (e : MemEv) : Bool :=
  e.kind = .store && e.sem = .plain && e.locs.all fun x => match x.1 with
    | .phys _ _ => true
    | _ => false

/-- R344: a team stops for good before its next issue. The staged lines of an unexposed interval are discarded, and the
plain stores that would enter them; its entries are withdrawn; its commands, other stores and reductions stay to be
performed. -/
def endTeam (s : State) (tid : Nat) : State :=
  let held := match teamOf s tid with
    | some tm => !tm.exposed
    | none => false
  let s := withdraw s fun e => e.subject.ofTeam tid
  let s := { s with threads := s.threads.filter fun t => t.tid != tid
                    strands := s.strands.filter fun x => x.tid != tid
                    mem := { s.mem with events := s.mem.events.filter fun e =>
                      e.tid != tid || !(e.kind = .load || (held && e.plainStore)) } }
  updTeam s tid fun tm =>
    { tm with state := .ended, failed := true, staged := [], undo := [], shadow := none, ckpt := false
              popped := [], rolling := none, name := none }

/-- R373: when its launch ends in error, each activity it holds in OPEN enters UNPICKING. -/
def unpickOwned (s : State) (num : Nat) : State :=
  { s with seams := { s.seams with entries := s.seams.entries.map fun a =>
      if a.owner == num && a.state == .open then { a with state := .unpicking, runner := num } else a } }

/-- A team that an error end does not stop: a compensation team (R344, R373). -/
def TeamRole.compensates : TeamRole → Bool
  | .compensation _ _ _ _ => true
  | _ => false

/-- R295: an entry of cause 0x40 or 0x48 of a launch of this package. An orphan from another package names a launch there. -/
def Entry.ofLaunch (s : State) (num : Nat) (e : Entry) : Bool :=
  e.launch == num && (e.cause == 0x40 || e.cause == 0x48) && match e.subject with
    | .orphan o => o.source == s.fabric.pkgNo
    | _ => true

/-- R295, R344: the entries of causes 0x40 and 0x48 of a launch that ends are withdrawn, and reductions held for one are
dropped with them. A withdrawn reduction is performed no more. -/
def withdrawLaunch (s : State) (num : Nat) : State :=
  let mine := fun (o : Orphan) => o.launch == num && o.source == s.fabric.pkgNo
  let gone := (s.traps.pillow.filterMap fun e => match e.subject with
    | .orphan o => if e.ofLaunch s num then some (o.serial / 2) else none
    | _ => none) ++ (s.traps.heldOrphans.filter mine).map fun o => o.serial / 2
  let s := withdraw s (Entry.ofLaunch s num)
  { s with traps := { s.traps with heldOrphans := s.traps.heldOrphans.filter fun o => !mine o }
           mem := { s.mem with events := s.mem.events.filter fun e => !gone.contains e.id } }

/-- R344: a launch ends in error with a code of R347. Later events of the launch write no further record. -/
def endLaunch (s : State) (num code : Nat) (pc : DWord) (key : TeamKey) (rank : Word) (prov : BitVec 12) : State :=
  match launchOf s num with
  | none => s
  | some l =>
    if l.state ≠ .live then s
    else
      let teams := (s.teams.filter fun tm => tm.launch == num && !tm.role.compensates).map (·.tid)
      let s := teams.foldl endTeam s
      let s := withdrawLaunch s num
      let s := updLaunch s num fun l =>
        { l with state := .ending code, failPc := pc, failTeam := key, failRank := rank, provenance := prov, seed := none }
      unpickOwned s num

/-- R371: a compensation team meets an event that ends it alone. `w` is what index 3 of R372 reads. -/
def endCompensation (s : State) (tid : Nat) (w : Word) : State :=
  updTeam (endTeam s tid) tid fun tm => { tm with failure := some w }

/-- R162, R344, R371: the team's launch ends in error, or the compensation team alone. -/
def endOwner (s : State) (tm : Team) (launch code : Nat) (pc : DWord) (rank : Word) (prov : BitVec 12) (w : Word) :
    State :=
  if tm.role.compensates then endCompensation s tm.tid w else endLaunch s launch code pc tm.key rank prov

/-! ### Answers, and reductions that are lost (R295, R296) -/

/-- The op field of a packet that carries bytes: their poison and its provenance. -/
def poisonOp (p : Option (BitVec 12)) : BitVec 16 :=
  match p with
  | some x => 0x4000 ||| x.setWidth 16
  | none => 0

/-- The answer to a packet goes to the port. -/
def answer (s : State) (p : Packet) (status : Nat) (bs : List Byte) (tags : List Bool) (poison : Option (BitVec 12)) : State :=
  let r := { p with ptype := .response, target := p.source, source := s.fabric.pkgNo, payload := bs, tags := tags
                    status := status, op := poisonOp poison }
  { s with fabric := { s.fabric with outbox := s.fabric.outbox ++ [r] } }

/-- A thread's compartment: the colour of its path's code capability (R88, R331). -/
def colourOf (c : Cap) : BitVec 4 := c.bits.extractLsb' 116 4

/-- The packet of an orphan, as it came. -/
def orphanPacket (s : State) (o : Orphan) : Packet :=
  { ptype := .red, target := s.fabric.pkgNo, source := o.source, world := o.world, colour := colourOf o.cap, addr := o.addr
    cap := o.cap, payload := bytesOfWord o.operand, length := 4, tags := [], op := o.op.setWidth 16, serial := o.serial
    launch := o.launch, x := o.x, y := o.y, z := o.z, rank := o.rank, pc := o.pc, word := o.word, status := 0 }

/-- R296, R347: *reduction lost* goes to the issuing package, with the code of the completion that it makes: 0x40 for a handler's
`hret 1`, the code of the rule that ends the service, and 0x85 for every other loss (DEDUCED 71). -/
def loseOrphan (s : State) (o : Orphan) (code : Nat) : State := answer s (orphanPacket s o) code [] [] none

/-! ### Filing: taking an exception (R157 to R170) -/

/-- The die of a package-logical core (R284). -/
def dieOf (core : Nat) : Nat := core / Config.coresPerDie

/-- R161: causes that bank 0 alone serves. -/
def bankZeroOnly (cause : Nat) : Bool := [0x10, 0x11, 0x12, 0x18, 0x3F, 0x40, 0x48].contains cause

/-- A cause-table entry as it stands before any write. -/
def noCause : CauseEntry := ⟨false, 0, 0, 0, 0, nullCap, nullCap, false⟩

/-- The cause-table entry of a bank and cause (R161). -/
def causeEntry (s : State) (bank cause : Nat) : CauseEntry := sget noCause s.traps.causeTable (128 * bank + cause)

/-- R161: the bank whose entry serves a cause for a subject of `world`, if one does. -/
def servingBank (s : State) (world cause : Nat) : Option Nat :=
  if !bankZeroOnly cause && (causeEntry s world cause).valid then some world
  else if (causeEntry s 0 cause).valid then some 0
  else none

/-- R159: the die's Pillow share has an entry that this cause may take. -/
def pillowRoom (s : State) (die : Nat) (cause : BitVec 7) : Bool :=
  let mine := s.traps.pillow.filter fun e => e.die == die
  decide (mine.length < Config.pillowSize) &&
    (cause == 0x3F || cause == 0x40 ||
      decide ((mine.filter fun e => e.cause != 0x3F && e.cause != 0x40).length < Config.pillowOrdinary))

/-- Where a thread fails: its strand's number, the instruction, the path's repeat state and code capability (R158). -/
structure At where
  sid  : Nat
  pc   : DWord
  word : Word
  rep  : Word
  code : Cap
  deriving DecidableEq, Repr

/-- R157, R280: the thread leaves its path, its state frozen; the auditor samples its team no more. -/
def freezeThread (s : State) (c : At) (t : Thread) (eid : Nat) : State :=
  updTeam (updThread s t.tid t.rank fun x => { x with status := .filed eid, rep := c.rep, leftCode := c.code }) t.tid
    fun tm => { tm with unsampled := true }

/-- R158: the entry of a thread's failure. A handler lane's launch is its own subject's (R168). -/
def entryFor (s : State) (c : At) (st : Strand) (tm : Team) (t : Thread) (cause inner : BitVec 7) (depth : BitVec 2)
    (f : Failure) (eid : Nat) : Entry :=
  let own := (t.subject.bind (entryOf s)).map (·.launch)
  { eid := eid, die := dieOf st.core, cause := cause, inner := inner, depth := depth, pc := c.pc, word := c.word
    addr := f.addr, detail := f.detail, rep := c.rep, subject := .thread t.tid t.rank, launch := own.getD tm.launch
    x := tm.key.x, y := tm.key.y, z := tm.key.z, rank := BitVec.ofNat 9 t.rank, asid := tm.asid, world := tm.world
    colour := colourOf c.code, faultAsid := f.asid, stamp := s.run.clock.toNat, state := .filed }

/-- R159: the entry takes a place in the Pillow share, or the strand parks until one frees. -/
def putEntry (s : State) (sid : Nat) (e : Entry) : State :=
  let s := { s with traps := { s.traps with nextEid := e.eid + 1 } }
  match strandOf s sid with
  | some st =>
    if st.parked.isEmpty && pillowRoom s e.die e.cause then
      { s with traps := { s.traps with pillow := s.traps.pillow ++ [e] } }
    else updStrand s sid fun x => { x with parked := x.parked ++ [e] }
  | none => s

/-- R162, R169, R182: a handler lane's service ends with its subject. The lane leaves its strand, its subject's entry is freed, and
the original subject's launch ends; a compensation team ends alone (R371), and an orphaned reduction is lost (R296). That the
lane leaves is DEDUCED 98. -/
def endService (s : State) (t : Thread) (launch code : Nat) (pc : DWord) (rank : Word) (prov : BitVec 12) (w : Word) : State :=
  let own := t.subject.bind (entryOf s)
  let key := ((teamOf s t.tid).map (·.key)).getD { kind := 0, x := 0, y := 0, z := 0, stage := 0 }
  let s := withdraw (exitThread s t.tid t.rank) fun x => some x.eid == own.map (·.eid)
  match own.map Entry.subject with
  | some (.orphan o) => loseOrphan s o code
  | some (.thread a _) => match teamOf s a with
    | some tm => endOwner s tm launch code pc rank prov w
    | none => endLaunch s launch code pc key rank prov
  | _ => endLaunch s launch code pc key rank prov

/-- R169: a lane of a strand that serves cause 0x3F or 0x18 fails. A machine-check record names the three threads and both causes,
the lane and the one that it served leave their strands, and the original subject's launch ends. An original subject that is no
thread stands in the record as 0, 0. -/
def nestTooDeep (s : State) (c : At) (t : Thread) (st : Strand) (cause : BitVec 7) : State :=
  match t.subject.bind (entryOf s) with
  | none => exitThread s t.tid t.rank
  | some e =>
    let lane := match e.subject with
      | .thread a b => threadOf s a b
      | _ => none
    let first : Nat × Nat := match (lane.bind fun x => x.subject.bind (entryOf s)).map Entry.subject with
      | some (.thread a b) => (a, b)
      | _ => (0, 0)
    let mid := (lane.map fun x => (x.tid, x.rank)).getD (0, 0)
    let rec0 := [first.1, first.2, mid.1, mid.2, t.tid, t.rank, st.handlerCause.toNat, cause.toNat]
    let s := { s with traps := { s.traps with machineChecks := s.traps.machineChecks ++ [rec0] } }
    let s := exitThread (withdraw s fun x => x.eid == e.eid) t.tid t.rank
    match lane with
    | some x => endService s x e.launch 0x83 c.pc (BitVec.ofNat 32 first.2) 0 0x8000007F
    | none => s

/-- R157, R162, R168, R169: one thread of a strand is filed for a failed check. -/
def fileThread (s : State) (c : At) (t : Thread) (f : Failure) : State :=
  match strandOf s c.sid, teamOf s t.tid with
  | some st, some tm =>
    if st.serves then
      if st.handlerCause == 0x3F || st.handlerCause == 0x18 then nestTooDeep s c t st f.cause
      else
        let cause : BitVec 7 := if f.cause == 0x18 then 0x18 else 0x3F
        let inner : BitVec 7 := if f.cause == 0x18 then 0 else f.cause
        let f := { f with detail := if f.cause == 0x18 then f.detail else 0 }
        let e := entryFor s c st tm t cause inner 1 f s.traps.nextEid
        match servingBank s tm.world.toNat cause.toNat with
        | some _ => putEntry (freezeThread s c t e.eid) c.sid e
        | none => endService s t e.launch cause.toNat c.pc (BitVec.ofNat 32 t.rank) 0 0x8000007F
    else
      match servingBank s tm.world.toNat f.cause.toNat with
      | some _ =>
        let e := entryFor s c st tm t f.cause 0 0 f s.traps.nextEid
        putEntry (freezeThread s c t e.eid) c.sid e
      | none =>
        endOwner s tm tm.launch f.cause.toNat c.pc (BitVec.ofNat 32 t.rank) 0 (0x80000000 + f.cause.setWidth 32)
  | _, _ => s

/-- Several threads are filed, in the order given: the callers give them by rising slot, which the spec leaves open
(DESIGN CHOICE 91). A thread that has gone meanwhile is not. -/
def fileThreads (s : State) (c : At) : List (Thread × Failure) → State
  | [] => s
  | (t, f) :: rest =>
    match threadOf s t.tid t.rank with
    | some t' => fileThreads (if t'.status = .present then fileThread s c t' f else s) c rest
    | none => fileThreads s c rest

/-- A failure that carries a cause alone. -/
def failure (cause : BitVec 7) : Failure := { cause := cause, addr := 0, detail := 0, asid := 0 }

/-! ### Return (R173, R174, R179, R184) -/

/-- R59, R60: the strand slots of a core that are taken. A moved thread's home strand keeps its slot; a saved team whose
slots have been released holds none. -/
def coreSlots (s : State) (core : Nat) : List Nat :=
  (s.strands.filter fun x => x.core == core && s.teams.any fun tm => tm.tid == x.tid && tm.place.isSome).map (·.cslot)

/-- The lowest strand slot of a core that is free. -/
def freeSlot (s : State) (core : Nat) : Option Nat :=
  (List.range Config.slotsPerCore).find? fun i => !(coreSlots s core).contains i

/-- R60: a free team-relative number for a fresh strand: of those that are free the lowest (DESIGN CHOICE 91). -/
def freeNum (s : State) (tm : Team) : Option Nat :=
  (List.range 16).find? fun n => decide (tm.desc.strands ≤ n) &&
    !(s.strands.any fun x => x.tid == tm.tid && x.num == n)

/-- R61, R174: a strand that starts with a copy of another's uniform state, and one path. -/
def copyStrand (st : Strand) (sid num : Nat) (kind : StrandKind) (mask : BitVec 32) (pc : DWord) (code : Cap)
    (rep repWord : Word) : Strand :=
  { st with
    sid := sid, num := num, kind := kind
    paths := [{ pid := 0, mask := mask, pc := pc, parent := none, rep := rep, repWord := repWord, state := .ready
                code := code, solo := false, marks := 0, fromBrp := none, fence := none, marked := false, probe := [] }]
    cur := 0, nextPid := 1, frames := [], rb := [], nextRb := 0, implicit := 0, mstat := 0, arrival := none, gates := []
    partials := [], records := [], commit := none, parked := [], rootJoin := none, stepping := none, passed := 0, readySince := none }

/-- R62: the strand that a thread leaves ends with its last member, if it is no home strand. -/
def endsWithout (s : State) (t : Thread) (x : Strand) : Bool :=
  x.sid == t.sid && !x.isHome && !(s.threads.any fun y => y.sid == x.sid && y.rank != t.rank && y.status != .exited)

/-- R174: the thread becomes a straggler strand of its origin core, with a copy of its home strand's uniform state, when
a slot is free there, and waits otherwise. The strand goes by its home strand's number (DESIGN CHOICE 91). -/
def startStraggler (s : State) (st : Strand) (t : Thread) (pc : DWord) (rep repWord : Word) : State :=
  let home := (homeStrand? s t.tid t.rank).getD st
  let wait := updThread s t.tid t.rank fun x => { x with status := .waitingSlot pc t.leftCode, rep := rep, repWord := repWord }
  match freeSlot s st.core with
  | some slot =>
    let sid := s.run.nextSid
    let new := { copyStrand home sid home.num (.straggler home.sid false) (1#32 <<< (t.rank % 32)) pc t.leftCode rep repWord with
      core := st.core, cslot := slot }
    let s := { s with strands := (s.strands.filter fun x => !endsWithout s t x) ++ [new], run := { s.run with nextSid := sid + 1 } }
    updThread s t.tid t.rank fun x => { x with sid := sid, slot := t.rank % 32, status := .present }
  | none => wait

/-- R173, R174, R184: a filed thread comes back to its strand at `pc`, as a path of its own below the frame it left, or
as a straggler strand when that frame has closed. -/
def returnThread (s : State) (tid rank : Nat) (pc : DWord) (rep repWord : Word) : State :=
  match threadOf s tid rank with
  | none => s
  | some t =>
    match strandOf s t.sid with
    | some st =>
      if t.straggling && !st.kind.isStraggler then startStraggler s st t pc rep repWord
      else
        let old := st.paths.find? fun p => bitOf p.mask t.slot
        let bit : BitVec 32 := 1#32 <<< t.slot
        let new : Path :=
          { pid := st.nextPid, mask := bit, pc := pc, parent := (old.map (·.parent)).getD none, rep := rep
            repWord := repWord, state := .ready, code := t.leftCode, solo := false, marks := 0, fromBrp := none
            fence := none, marked := false, probe := [] }
        let s := updStrand s t.sid fun x => unlapse t.slot
          { x with paths := ((x.paths.map fun p => { p with mask := p.mask &&& ~~~bit }).filter fun p => p.mask != 0) ++ [new]
                   nextPid := x.nextPid + 1 }
        let s := updThread s tid rank fun x => { x with status := .present }
        let s := match homeStrand? s tid rank with
          | some h => if h.sid == t.sid then s else updStrand s h.sid (unlapse (rank % 32))
          | none => s
        settle s t.sid
    | none => s

/-- R49: repetitions of a rep word. -/
def repCount (w : Word) : Nat := (w.extractLsb' 18 6).toNat + 1

/-- R49: sr.rep while repetition `i` issues. -/
def repState (i : Nat) : Word := 0x80000000 ||| BitVec.ofNat 32 i

/-- R49: a repeat is in progress, and its index. -/
def repActive (r : Word) : Bool := r.getLsbD 31
def repIndex (r : Word) : Nat := (r.extractLsb' 0 6).toNat

/-- R179: where an entry's thread resumes: at the instruction itself (`next` false) or at the one after it, with the
repeat state that goes with it. -/
def resumeAt (e : Entry) (next : Bool) : DWord × Word :=
  if !next then (e.pc, e.rep)
  else if repActive e.rep then
    if repIndex e.rep + 1 < repCount e.word then (e.pc, repState (repIndex e.rep + 1)) else (e.pc + 8, 0)
  else (e.pc + 4, 0)

/-- R179: the thread of an entry returns, and the entry is freed. -/
def returnEntry (s : State) (e : Entry) (next : Bool) : State :=
  let s := withdraw s fun x => x.eid == e.eid
  let (pc, rep) := resumeAt e next
  match e.subject with
  | .thread tid rank => returnThread s tid rank pc rep e.word
  | _ => s

end Sys2Proof.Machine
end

