-- ==== Sys2Proof/Machine/Caps.lean ====
section
/-! DEFINITION. Capabilities: the layout and Decode (R88, R89), derivation (R94 to R96), sealing (R97) and what the read
operations give (R154). The lane and uniform instructions share these. -/

namespace Sys2Proof

open Sys2Proof.Machine

/-! ### Fields (R88) -/

/-- The permission byte, L in bit 7 down to Y in bit 0. -/
def Cap.perms (c : Cap) : BitVec 8 := c.bits.extractLsb' 120 8
/-- Compartment colour. -/
def Cap.colour (c : Cap) : BitVec 4 := c.bits.extractLsb' 116 4
/-- Seal. -/
def Cap.seal (c : Cap) : Nat := (c.bits.extractLsb' 112 4).toNat
/-- Version. -/
def Cap.version (c : Cap) : BitVec 8 := c.bits.extractLsb' 104 8
/-- Exponent. -/
def Cap.xp (c : Cap) : Nat := (c.bits.extractLsb' 98 6).toNat
/-- Base mantissa. -/
def Cap.bm (c : Cap) : Nat := (c.bits.extractLsb' 81 17).toNat
/-- Length mantissa. -/
def Cap.lm (c : Cap) : Nat := (c.bits.extractLsb' 64 17).toNat
/-- Current address. -/
def Cap.addr (c : Cap) : Nat := (c.bits.extractLsb' 0 64).toNat

/-- Permission bits. -/
def permL : BitVec 8 := 0x80
def permS : BitVec 8 := 0x40
def permLC : BitVec 8 := 0x20
def permSC : BitVec 8 := 0x10
def permX : BitVec 8 := 0x08
def permE : BitVec 8 := 0x04
def permG : BitVec 8 := 0x02
def permY : BitVec 8 := 0x01

/-- The capability holds every permission of `p`. -/
def Cap.has (c : Cap) (p : BitVec 8) : Bool := c.perms &&& p == p

/-- The bits with one field replaced. -/
def setField (bits : CapBits) (lo n : Nat) (x : Nat) : CapBits :=
  (bits &&& ~~~(BitVec.ofNat 128 (2 ^ n - 1) <<< lo)) ||| (BitVec.ofNat 128 (x % 2 ^ n) <<< lo)

def Cap.withAddr (c : Cap) (a : Nat) : Cap := { c with bits := setField c.bits 0 64 a }
def Cap.withSeal (c : Cap) (x : Nat) : Cap := { c with bits := setField c.bits 112 4 x }
def Cap.withPerms (c : Cap) (p : BitVec 8) : Cap := { c with bits := setField c.bits 120 8 p.toNat }
def Cap.withColour (c : Cap) (x : BitVec 4) : Cap := { c with bits := setField c.bits 116 4 x.toNat }
def Cap.tagged (c : Cap) (b : Bool) : Cap := { c with tag := b }

/-! ### Decode (R89) -/

/-- R89: base and top of a capability's region, 0 and 0 where xp is above 47 or the base would be negative. -/
def Cap.region (c : Cap) : Nat × Nat :=
  if 47 < c.xp then (0, 0)
  else
    let a := c.addr / 2 ^ c.xp
    let hi := c.addr / 2 ^ (c.xp + 17)
    let low := decide (a % 2 ^ 17 < c.bm)
    if low && hi == 0 then (0, 0)
    else
      let hi := if low then hi - 1 else hi
      let base := (hi * 2 ^ 17 + c.bm) * 2 ^ c.xp
      (base, base + c.lm * 2 ^ c.xp)

/-- R89: the address lies in the representable window of a base and exponent. -/
def inWindow (base xp a : Nat) : Bool := decide (base ≤ a) && decide (a < base + 2 ^ (xp + 17))

/-- The bits of a capability pattern that no derivation makes: xp above 47, a negative base, seal 15 (R89). -/
def Cap.representable (c : Cap) : Bool :=
  decide (c.xp ≤ 47) && c.seal != 15 &&
    !(decide (c.addr / 2 ^ c.xp % 2 ^ 17 < c.bm) && c.addr / 2 ^ (c.xp + 17) == 0)

/-! ### Derivation (R94 to R97, R152, R153) -/

/-- R95: the address moved; the tag stays while the source is tagged and unsealed and the address lies in the window. -/
def Cap.moveTo (c : Cap) (a : Nat) : Cap :=
  (c.withAddr a).tagged (c.tag && c.seal == 0 && c.representable && inWindow c.region.1 c.xp (a % 2 ^ 64))

/-- R96: the exponent for a region [b, t), if one from 0 to 47 does. -/
def boundsXp (b t : Nat) : Option Nat :=
  (List.range 48).find? fun (x : Nat) => decide ((t + 2 ^ x - 1) / 2 ^ x - b / 2 ^ x ≤ 2 ^ 17 - 1)

/-- The bits with exponent, base mantissa, length mantissa and address. -/
def withBounds (c : Cap) (xp bm lm a : Nat) : CapBits :=
  setField (setField (setField (setField c.bits 98 6 xp) 81 17 bm) 64 17 lm) 0 64 a

/-- R96: bounds set to [b, t). The result is tagged under R94; `exact` also asks that neither bound moved. -/
def Cap.setBounds (c : Cap) (b t : Nat) (exact : Bool) : Cap :=
  match boundsXp b t with
  | none => ⟨withBounds c 47 (b / 2 ^ 47) (2 ^ 17 - 1) b, false⟩
  | some x =>
    let lo := b / 2 ^ x
    let hi := (t + 2 ^ x - 1) / 2 ^ x
    let base := lo * 2 ^ x
    let top := hi * 2 ^ x
    let (cb, ct) := c.region
    let keep := c.tag && c.seal == 0 && c.representable && decide (cb ≤ base) && decide (top ≤ ct) &&
      (!exact || (base == b && top == t))
    ⟨withBounds c x lo (hi - lo) b, keep⟩

/-- R152 op 4: permissions masked. As in every derivation, a pattern that R89 knows only untagged stays untagged. -/
def Cap.strip (c : Cap) (mask : BitVec 8) : Cap :=
  (c.withPerms (c.perms &&& mask)).tagged (c.tag && c.seal == 0 && c.representable)

/-- R153: the software seal type an authority names, and whether it has the authority. -/
def sealType (auth : Cap) : Int := (auth.addr : Int) - (0xF000000000000000 : Nat)

def sealAuthority (auth : Cap) : Bool :=
  auth.tag && auth.seal == 0 && auth.has permY && decide (auth.region.1 ≤ auth.addr) && decide (auth.addr < auth.region.2)
    && decide (4 ≤ sealType auth) && decide (sealType auth ≤ 14)

/-- R152 op 5, R153. Where the type lies outside 0 to 15 the untagged result holds it modulo 16 (DESIGN CHOICE 91). -/
def Cap.wrap (c auth : Cap) : Cap :=
  (c.withSeal ((sealType auth) % 16).toNat).tagged (c.tag && c.seal == 0 && c.representable && sealAuthority auth)

/-- R152 ops 6 and 7: sealed as an entry (1) or a compensation (3). -/
def Cap.wrapAs (c : Cap) (x : Nat) : Cap :=
  (c.withSeal x).tagged (c.tag && c.seal == 0 && c.representable && c.has permX)

/-- R152 op 8, R153. -/
def Cap.unwrap (c auth : Cap) : Cap :=
  (c.withSeal 0).tagged (c.tag && c.representable && sealAuthority auth && (c.seal : Int) == sealType auth)

/-! ### Reads (R154) -/

/-- R154: min(top − base, 2^64 − 1). -/
def Cap.length (c : Cap) : Nat := min (c.region.2 - c.region.1) (2 ^ 64 - 1)

/-- R154: the cread.info word. -/
def Cap.info (c : Cap) : Word :=
  (if c.tag then 0x80000000 else 0) ||| (c.version.setWidth 32 <<< 16) ||| (BitVec.ofNat 32 c.seal <<< 12) |||
    (c.colour.setWidth 32 <<< 8) ||| c.perms.setWidth 32

/-- R154: the value a read operation gives, by op 16 to 19. -/
def Cap.read (c : Cap) (op : Nat) : DWord :=
  match op with
  | 16 => BitVec.ofNat 64 c.addr
  | 17 => BitVec.ofNat 64 c.region.1
  | 18 => BitVec.ofNat 64 c.length
  | _ => c.info.setWidth 64

/-- R88: a capability over [base, base + length) at `base`, of seal 0, colour and version as given. -/
def mintCap (base length : Nat) (perms : BitVec 8) (colour : BitVec 4) (version : BitVec 8) : Cap :=
  let root : Cap := ⟨setField (setField (setField 0 120 8 perms.toNat) 116 4 colour.toNat) 104 8 version.toNat, false⟩
  (root.setBounds base (base + length) false).tagged true

/-- R91: the 16 bytes of a capability. -/
def Cap.toBytes (c : Cap) : List Byte := bytesOfNat 16 c.bits.toNat

/-- The capability of 16 bytes and a tag. -/
def capOfBytes (bs : List Byte) (tag : Bool) : Cap := ⟨BitVec.ofNat 128 (natOfBytes bs), tag⟩

end Sys2Proof
end

