-- ==== Sys2Proof/Machine/Flags.lean ====
section
/-! DEFINITION. sr.fpcsr (R73 to R75): the flags an operation raises, the dynamic rounding mode, flushing and trap
enables. A set of flags is five bits: nv 16, dz 8, of 4, uf 2, nx 1. -/

namespace Sys2Proof.Machine

/-- The flags an operation raises (R73 bits [4:0]). -/
abbrev Flags := BitVec 5

/-- Invalid. -/
def fNV : Flags := 16
/-- Divide by zero. -/
def fDZ : Flags := 8
/-- Overflow; it always raises inexact too (R73). -/
def fOF : Flags := 4
/-- Underflow. -/
def fUF : Flags := 2
/-- Inexact. -/
def fNX : Flags := 1

/-- Rounding modes that a register holds (R76); stochastic rounding is its own operation (R77). -/
inductive RMode where
  | rn | rz | rd | ru
  deriving DecidableEq, Repr

/-- R73: sr.fpcsr.rm. -/
def fpRm (w : Word) : RMode :=
  match (w.extractLsb' 11 2).toNat with
  | 0 => .rn
  | 1 => .rz
  | 2 => .rd
  | _ => .ru

/-- R72: sr.fpcsr.ftz. -/
def fpFtz (w : Word) : Bool := w.getLsbD 13

/-- R68: sr.fpcsr.dz_quiet. -/
def fpDzQuiet (w : Word) : Bool := w.getLsbD 14

/-- R74: a raised flag is trap-enabled. -/
def fpTraps (w : Word) (f : Flags) : Bool := f &&& w.extractLsb' 5 5 != 0

/-- R73: what a write leaves: bits [31:15] and [10] read 0. -/
def fpWritable : Word := 0x7BFF

/-- R73: a write of sr.fpcsr. -/
def fpWrite (w : Word) : Word := w &&& fpWritable

/-- R75: what `mfsr sr.fpcsr` returns: the control bits of the first copy, the flags of all. -/
def fpRead : List Word → Word
  | [] => 0
  | w :: ws => (w &&& 0x7FE0) ||| ((w :: ws).foldl (fun a x => a ||| x) 0 &&& 0x1F)

end Sys2Proof.Machine
end

