-- ==== Sys2Proof/Machine/Numbers.lean ====
section
/-! DEFINITION. Number formats and arithmetic, bit for bit (R67 to R87): decoding to exact values, one rounding at the
end, NaNs, conversions, KN4 blocks. -/

namespace Sys2Proof.Machine

/-! ### Formats (R70) -/

/-- A floating format: exponent bits, fraction bits, bias, largest finite code, and the code of infinity and of the
canonical NaN. E4M3 has no infinity: its `inf` is the NaN code that stands for an infinite result. -/
structure Fmt where
  eb   : Nat
  mb   : Nat
  bias : Nat
  max  : Nat
  inf  : Nat
  nan  : Nat
  noInf : Bool
  deriving DecidableEq, Repr

def f32 : Fmt := ⟨8, 23, 127, 0x7F7FFFFF, 0x7F800000, 0x7FC00000, false⟩
def f16 : Fmt := ⟨5, 10, 15, 0x7BFF, 0x7C00, 0x7E00, false⟩
def bf16 : Fmt := ⟨8, 7, 127, 0x7F7F, 0x7F80, 0x7FC0, false⟩
def e4m3 : Fmt := ⟨4, 3, 7, 0x7E, 0x7F, 0x7F, true⟩
def e5m2 : Fmt := ⟨5, 2, 15, 0x7B, 0x7C, 0x7E, false⟩
/-- R84: A56 in floating mode. -/
def a56 : Fmt := ⟨11, 44, 1023, 0x7FEFFFFFFFFFFF, 0x7FF00000000000, 0x7FF80000000000, false⟩

/-- The sign bit's place, and the width less one. -/
def Fmt.sb (f : Fmt) : Nat := f.eb + f.mb

/-- An exact value: a NaN by its code, an infinity, or ±m·2^e. Zero has m = 0. -/
inductive FVal where
  | nan (code : Nat)
  | inf (neg : Bool)
  | fin (neg : Bool) (m : Nat) (e : Int)
  deriving DecidableEq, Repr

/-- The code with sign. -/
def Fmt.signed (f : Fmt) (neg : Bool) (mag : Nat) : Nat := mag + (if neg then 2 ^ f.sb else 0)

/-- The exact value of a code (R70). -/
def Fmt.decode (f : Fmt) (code : Nat) : FVal :=
  let neg := code / 2 ^ f.sb % 2 == 1
  let mag := code % 2 ^ f.sb
  let x := mag / 2 ^ f.mb
  let frac := mag % 2 ^ f.mb
  if f.noInf && mag == f.nan then .nan (code % 2 ^ (f.sb + 1))
  else if !f.noInf && decide (f.inf < mag) then .nan (code % 2 ^ (f.sb + 1))
  else if !f.noInf && mag == f.inf then .inf neg
  else if x == 0 then .fin neg frac (1 - (f.bias : Int) - f.mb)
  else .fin neg (2 ^ f.mb + frac) ((x : Int) - f.bias - f.mb)

/-- R71: a NaN is signalling. Both E4M3 NaNs are quiet. -/
def Fmt.signalling (f : Fmt) (code : Nat) : Bool := !f.noInf && code / 2 ^ (f.mb - 1) % 2 == 0

/-- R71: Quiet(n). -/
def Fmt.quiet (f : Fmt) (code : Nat) : Nat := if f.noInf then code else code ||| 2 ^ (f.mb - 1)

/-- R72: a subnormal magnitude. -/
def Fmt.subnormal (f : Fmt) (code : Nat) : Bool :=
  let mag := code % 2 ^ f.sb
  decide (0 < mag) && decide (mag < 2 ^ f.mb)

/-- R72: an operand as it is read under ftz. -/
def Fmt.flushIn (f : Fmt) (ftz : Bool) (code : Nat) : Nat :=
  if ftz && f.subnormal code then f.signed (code / 2 ^ f.sb % 2 == 1) 0 else code

/-- R72: a result as it is written under ftz. -/
def Fmt.flushOut (f : Fmt) (ftz : Bool) (r : Nat × Flags) : Nat × Flags :=
  if ftz && f.subnormal r.1 then (f.signed (r.1 / 2 ^ f.sb % 2 == 1) 0, r.2 ||| fUF ||| fNX) else r

/-! ### Rounding (R76, R77) -/

/-- m·2^(e − q) as a whole part and what is left over, the latter as a numerator over a power of two. -/
def splitAt (m : Nat) (e q : Int) : Nat × Nat × Nat :=
  if q ≤ e then (m * 2 ^ (e - q).toNat, 0, 1)
  else
    let d := 2 ^ (q - e).toNat
    (m / d, m % d, d)

/-- R76: whether a magnitude with whole part `n` and left-over `r / d` rounds away from zero. -/
def roundUp (mode : RMode) (neg : Bool) (n r d : Nat) : Bool :=
  match mode with
  | .rn => decide (d < 2 * r) || (2 * r == d && n % 2 == 1)
  | .rz => false
  | .rd => neg && r != 0
  | .ru => !neg && r != 0

/-- The exponent of a nonzero magnitude's leading bit. -/
def topExp (m : Nat) (e : Int) : Int := e + ((Nat.log2 m : Nat) : Int)

/-- The least exponent of a format's quantum. -/
def Fmt.qmin (f : Fmt) : Int := 1 - (f.bias : Int) - f.mb

/-- The quantum's exponent in the binade that holds a magnitude. -/
def Fmt.quantum (f : Fmt) (m : Nat) (e : Int) : Int :=
  if topExp m e - (f.mb : Int) < f.qmin then f.qmin else topExp m e - (f.mb : Int)

/-- The code of n quanta of exponent q, without a limit above. -/
def Fmt.codeOf (f : Fmt) (n : Nat) (q : Int) : Nat := (q - f.qmin).toNat * 2 ^ f.mb + n

/-- R76: what an overflow gives. -/
def Fmt.overflow (f : Fmt) (mode : RMode) (neg : Bool) : Nat :=
  match mode, neg with
  | .rn, _ => f.signed neg f.inf
  | .rz, _ => f.signed neg f.max
  | .rd, false => f.signed false f.max
  | .rd, true => f.signed true f.inf
  | .ru, false => f.signed false f.inf
  | .ru, true => f.signed true f.max

/-- R73: tininess after rounding: the value rounded with an unbounded exponent is below the least normal. -/
def Fmt.tiny (f : Fmt) (mode : RMode) (neg : Bool) (m : Nat) (e : Int) : Bool :=
  let q := topExp m e - (f.mb : Int)
  let (n, r, d) := splitAt m e q
  let n := if roundUp mode neg n r d then n + 1 else n
  decide (q + ((Nat.log2 n : Nat) : Int) < 1 - (f.bias : Int))

/-- R76: the exact value ±m·2^e rounded once, with the flags it raises. -/
def Fmt.round (f : Fmt) (mode : RMode) (neg : Bool) (m : Nat) (e : Int) : Nat × Flags :=
  if m == 0 then (f.signed neg 0, 0)
  else
    let q := f.quantum m e
    let (n, r, d) := splitAt m e q
    let n := if roundUp mode neg n r d then n + 1 else n
    let code := f.codeOf n q
    if f.max < code then (f.overflow mode neg, fOF ||| fNX)
    else
      let nx : Flags := if r == 0 then 0 else fNX
      let uf : Flags := if r != 0 && f.tiny mode neg m e then fUF else 0
      (f.signed neg code, nx ||| uf)

/-- R77: RoundSR of a nonzero magnitude with the 16 bits drawn. -/
def Fmt.roundSr (f : Fmt) (rand : Nat) (neg : Bool) (m : Nat) (e : Int) : Nat × Flags :=
  if m == 0 then (f.signed neg 0, 0)
  else
    let q := f.quantum m e
    let n := ((splitAt (m * 65536) e q).1 + rand) / 65536
    let code := f.codeOf n q
    let exact := (splitAt m e q).2.1 == 0 && n == (splitAt m e q).1
    if f.max < code then (f.signed neg f.inf, fOF ||| fNX)
    else
      let uf : Flags := if !exact && decide (code < 2 ^ f.mb) then fUF else 0
      (f.signed neg code, (if exact then 0 else fNX) ||| uf)

/-- R77: Reseed. -/
def reseed (rank : Nat) (seed : Word) : Word :=
  let g := seed ^^^ (BitVec.ofNat 32 rank * 0x9E3779B9)
  if g == 0 then 0x6D2B79F5 else g

/-- R77: Advance, a 32-bit xorshift. -/
def advanceGen (g : Word) : Word :=
  let g := g ^^^ (g <<< 13)
  let g := g ^^^ (g >>> 17)
  g ^^^ (g <<< 5)

/-! ### Arithmetic (R78, R119, R120) -/

/-- The sum of two exact finite values, and the sign that an exact zero takes (R76). -/
def addExact (mode : RMode) (n1 : Bool) (m1 : Nat) (e1 : Int) (n2 : Bool) (m2 : Nat) (e2 : Int) : Bool × Nat × Int :=
  let e := min e1 e2
  let a : Int := (m1 * 2 ^ (e1 - e).toNat : Nat)
  let b : Int := (m2 * 2 ^ (e2 - e).toNat : Nat)
  let s := (if n1 then -a else a) + (if n2 then -b else b)
  if s = 0 then ((if m1 == 0 && m2 == 0 && n1 == n2 then n1 else mode == .rd), 0, e)
  else (decide (s < 0), s.natAbs, e)

/-- A NaN operand's result and the invalid flag, first operand first. -/
def Fmt.nanOf (f : Fmt) (codes : List Nat) : Option Nat :=
  firstSome (fun c => match f.decode c with
    | .nan n => some (f.quiet n)
    | _ => none) codes

/-- Some operand is a signalling NaN. -/
def Fmt.anySignal (f : Fmt) (codes : List Nat) : Bool :=
  codes.any fun c => match f.decode c with
    | .nan n => f.signalling n
    | _ => false

/-- The flag of an invalid operation. -/
def nvIf (b : Bool) : Flags := if b then fNV else 0

/-- R78: a + b rounded once. -/
def Fmt.add (f : Fmt) (mode : RMode) (a b : Nat) : Nat × Flags :=
  match f.nanOf [a, b] with
  | some n => (n, nvIf (f.anySignal [a, b]))
  | none =>
    match f.decode a, f.decode b with
    | .inf x, .inf y => if x == y then (f.signed x f.inf, 0) else (f.nan, fNV)
    | .inf x, _ => (f.signed x f.inf, 0)
    | _, .inf y => (f.signed y f.inf, 0)
    | .fin n1 m1 e1, .fin n2 m2 e2 =>
      let (n, m, e) := addExact mode n1 m1 e1 n2 m2 e2
      f.round mode n m e
    | _, _ => (f.nan, 0)

/-- The code with its sign inverted. -/
def Fmt.negate (f : Fmt) (a : Nat) : Nat := a ^^^ 2 ^ f.sb

/-- R78: a − b rounded once. A NaN operand b keeps its own sign. -/
def Fmt.sub (f : Fmt) (mode : RMode) (a b : Nat) : Nat × Flags :=
  match f.nanOf [a, b] with
  | some n => (n, nvIf (f.anySignal [a, b]))
  | none => f.add mode a (f.negate b)

/-- R78: a·b rounded once. -/
def Fmt.mul (f : Fmt) (mode : RMode) (a b : Nat) : Nat × Flags :=
  match f.nanOf [a, b] with
  | some n => (n, nvIf (f.anySignal [a, b]))
  | none =>
    match f.decode a, f.decode b with
    | .inf x, .inf y => (f.signed (x ^^ y) f.inf, 0)
    | .inf x, .fin y m _ => if m == 0 then (f.nan, fNV) else (f.signed (x ^^ y) f.inf, 0)
    | .fin x m _, .inf y => if m == 0 then (f.nan, fNV) else (f.signed (x ^^ y) f.inf, 0)
    | .fin n1 m1 e1, .fin n2 m2 e2 => f.round mode (n1 ^^ n2) (m1 * m2) (e1 + e2)
    | _, _ => (f.nan, 0)

/-- R78: a·b + d rounded once. -/
def Fmt.fma (f : Fmt) (mode : RMode) (a b d : Nat) : Nat × Flags :=
  match f.decode d with
  | .nan n => (f.quiet n, nvIf (f.signalling n))
  | vd =>
    match f.nanOf [a, b] with
    | some n => (n, nvIf (f.anySignal [a, b]))
    | none =>
      match f.decode a, f.decode b with
      | .inf x, vb =>
        let y := match vb with
          | .inf y => y
          | .fin y _ _ => y
          | .nan _ => false
        let zero := match vb with
          | .fin _ m _ => m == 0
          | _ => false
        if zero then (f.nan, fNV)
        else match vd with
          | .inf z => if z == (x ^^ y) then (f.signed z f.inf, 0) else (f.nan, fNV)
          | _ => (f.signed (x ^^ y) f.inf, 0)
      | .fin x m _, .inf y =>
        if m == 0 then (f.nan, fNV)
        else match vd with
          | .inf z => if z == (x ^^ y) then (f.signed z f.inf, 0) else (f.nan, fNV)
          | _ => (f.signed (x ^^ y) f.inf, 0)
      | .fin n1 m1 e1, .fin n2 m2 e2 =>
        match vd with
        | .inf z => (f.signed z f.inf, 0)
        | .fin n3 m3 e3 =>
          let (n, m, e) := addExact mode (n1 ^^ n2) (m1 * m2) (e1 + e2) n3 m3 e3
          f.round mode n m e
        | .nan _ => (f.nan, 0)
      | _, _ => (f.nan, 0)

/-- The order of non-NaN codes as integers: −0 lies below +0 (R78). -/
def Fmt.ordKey (f : Fmt) (a : Nat) : Int :=
  let mag : Int := (a % 2 ^ f.sb : Nat)
  if a / 2 ^ f.sb % 2 == 1 then -mag - 1 else mag

/-- The code is a NaN. -/
def Fmt.isNan (f : Fmt) (a : Nat) : Bool :=
  match f.decode a with
  | .nan _ => true
  | _ => false

/-- R78, R120: fmin (`greater` false) and fmax. -/
def Fmt.minmax (f : Fmt) (greater : Bool) (a b : Nat) : Nat × Flags :=
  let nv := nvIf (f.anySignal [a, b])
  if f.isNan a && f.isNan b then (f.quiet a, nv)
  else if f.isNan a then (b, nv)
  else if f.isNan b then (a, nv)
  else if greater then (if f.ordKey a < f.ordKey b then b else a, nv)
  else (if f.ordKey b < f.ordKey a then b else a, nv)

/-- R125: the exact comparison of non-NaN values: −0 equals +0, and an infinity lies beyond every finite value. -/
def Fmt.cmpKey (f : Fmt) (a : Nat) : Int :=
  let mag : Int := (a % 2 ^ f.sb : Nat)
  if a / 2 ^ f.sb % 2 == 1 then -mag else mag

/-- R113, R125: the relations by code. -/
def relation (c : Nat) (x y : Int) : Bool :=
  match c with
  | 0 => x == y
  | 1 => x != y
  | 2 => decide (x < y)
  | 3 => decide (x ≤ y)
  | 4 => decide (y < x)
  | 5 => decide (y ≤ x)
  | _ => false

/-- R78, R125: fcmp. -/
def Fmt.compare (f : Fmt) (c a b : Nat) : Bool × Flags :=
  let un := f.isNan a || f.isNan b
  let sig := f.anySignal [a, b]
  match c with
  | 6 => (un, nvIf sig)
  | 7 => (!un, nvIf sig)
  | _ =>
    if un then (c == 1, nvIf (if c == 0 || c == 1 then sig else true))
    else (relation c (f.cmpKey a) (f.cmpKey b), 0)

/-- R126: fclass. -/
def Fmt.classBit (f : Fmt) (a : Nat) : Nat :=
  match f.decode a with
  | .nan n => if f.signalling n then 8 else 9
  | .inf n => if n then 0 else 7
  | .fin n m _ =>
    if m == 0 then (if n then 3 else 4)
    else if f.subnormal a then (if n then 2 else 5)
    else if n then 1 else 6

/-- ±m·2^e rounded to an integer by the mode: the magnitude and whether it changed. -/
def roundInt (mode : RMode) (neg : Bool) (m : Nat) (e : Int) : Nat × Bool :=
  let (n, r, d) := splitAt m e 0
  (if roundUp mode neg n r d then n + 1 else n, r != 0)

/-- R124: frnd. -/
def Fmt.roundIntegral (f : Fmt) (mode : RMode) (a : Nat) : Nat × Flags :=
  match f.decode a with
  | .nan n => (f.quiet n, nvIf (f.signalling n))
  | .inf _ => (a, 0)
  | .fin neg m e => if m == 0 then (a, 0) else ((f.round .rn neg (roundInt mode neg m e).1 0).1, 0)

/-! ### Conversions (R67, R79, R127 to R129) -/

/-- R67: the type of a code, as a floating format. -/
def fmtOf (t : Nat) : Option Fmt :=
  match t with
  | 6 => some f32
  | 7 => some f16
  | 8 => some bf16
  | 9 => some e4m3
  | 10 => some e5m2
  | _ => none

/-- R67: the width and signedness of an integer type. -/
def intOf (t : Nat) : Nat × Bool :=
  match t with
  | 0 => (32, true)
  | 1 => (32, false)
  | 2 => (16, true)
  | 3 => (16, false)
  | 4 => (8, true)
  | _ => (8, false)

/-- The range of an integer type. -/
def intMin (t : Nat) : Int := if (intOf t).2 then -(2 ^ ((intOf t).1 - 1) : Nat) else 0
def intMax (t : Nat) : Int := if (intOf t).2 then (2 ^ ((intOf t).1 - 1) : Nat) - 1 else (2 ^ (intOf t).1 : Nat) - 1

/-- An integer clamped to a range. -/
def clampInt (lo hi x : Int) : Int := if x < lo then lo else if hi < x then hi else x

/-- R69: the value of an integer operand. -/
def intValue (t : Nat) (w : Nat) : Int :=
  let (n, sg) := intOf t
  if sg then sextNat n w else (w % 2 ^ n : Nat)

/-- R69: the register image of an integer, two's complement in 32 bits. -/
def intImage (x : Int) : Nat := (x % (2 ^ 32 : Nat)).toNat

/-- Every value of format `s` is a value of format `d` (R79's "wider"). -/
def Fmt.holds (d s : Fmt) : Bool :=
  decide (s.mb ≤ d.mb) && decide (d.qmin ≤ s.qmin) && decide ((s.max / 2 ^ s.mb : Nat) + d.bias ≤ d.max / 2 ^ d.mb + s.bias)
    && !d.noInf

/-- R79: a NaN carried into another format: sign and the top of the payload, quiet. -/
def carryNan (d s : Fmt) (code : Nat) : Nat :=
  let neg := code / 2 ^ s.sb % 2 == 1
  if d.noInf then d.signed neg d.nan
  else
    let frac := code % 2 ^ s.mb
    let frac := if s.mb ≤ d.mb then frac * 2 ^ (d.mb - s.mb) else frac / 2 ^ (s.mb - d.mb)
    d.quiet (d.signed neg (d.inf + frac))

/-- How a conversion rounds: by a mode, or with 16 drawn bits (R76, R77). -/
inductive Rounding where
  | mode (m : RMode)
  | sr (rand : Nat)
  deriving DecidableEq, Repr

/-- One rounding to a format. -/
def Fmt.roundBy (f : Fmt) (r : Rounding) (neg : Bool) (m : Nat) (e : Int) : Nat × Flags :=
  match r with
  | .mode md => f.round md neg m e
  | .sr rand => f.roundSr rand neg m e

/-- One rounding to an integer; RoundSR takes the spacing as 1 (R128). -/
def roundIntBy (r : Rounding) (neg : Bool) (m : Nat) (e : Int) : Nat × Bool :=
  match r with
  | .mode md => roundInt md neg m e
  | .sr rand =>
    let (n, _, _) := splitAt (m * 65536) e 0
    let k := (n + rand) / 65536
    let (w, x, _) := splitAt m e 0
    (k, x != 0 || k != w)

/-- R79: one element converted from type `st` to type `dt`. -/
def convert (ftz : Bool) (r : Rounding) (dt st : Nat) (w : Nat) : Nat × Flags :=
  match fmtOf dt, fmtOf st with
  | none, none => (intImage (clampInt (intMin dt) (intMax dt) (intValue st w)), 0)
  | some d, none =>
    let x := intValue st w
    d.flushOut ftz (d.roundBy r (decide (x < 0)) x.natAbs 0)
  | none, some s =>
    match s.decode (s.flushIn ftz (w % 2 ^ (s.sb + 1))) with
    | .nan _ => (0, fNV)
    | .inf neg => (intImage (if neg then intMin dt else intMax dt), fNV)
    | .fin neg m e =>
      let (n, nx) := roundIntBy r neg m e
      let x : Int := if neg then -(n : Int) else n
      if x < intMin dt then (intImage (intMin dt), fNV)
      else if intMax dt < x then (intImage (intMax dt), fNV)
      else (intImage x, if nx then fNX else 0)
  | some d, some s =>
    let w := s.flushIn ftz (w % 2 ^ (s.sb + 1))
    match s.decode w with
    | .nan n =>
      if d = s then (s.quiet n, nvIf (s.signalling n)) else (carryNan d s n, nvIf (s.signalling n))
    | .inf neg => (d.signed neg d.inf, nvIf d.noInf)
    | .fin neg m e => if d = s then (w, 0) else d.flushOut ftz (d.roundBy r neg m e)

/-- R128: the conversion rounds, so it draws under .sr. -/
def convertDraws (dt st : Nat) : Bool :=
  match fmtOf dt, fmtOf st with
  | none, none => false
  | some _, none => true
  | none, some _ => true
  | some d, some s => d ≠ s && !d.holds s

/-! ### KN4 blocks (R80 to R83) -/

/-- R81: a code's magnitude in halves, by block type, and its sign. -/
def kn4Halves (ty code : Nat) : Bool × Nat :=
  if ty == 0 then
    let c := code % 16
    if c < 8 then (false, 2 * c) else (true, 2 * (16 - c))
  else
    let neg := code / 8 % 2 == 1
    let c := code % 8
    let h : List Nat := match ty with
      | 1 => [0, 1, 2, 3, 4, 6, 8, 12]
      | 2 => [0, 2, 4, 8, 16, 32, 64, 128]
      | _ => [0, 2, 4, 6, 8, 12, 16, 24]
    (neg, (h[c]?).getD 0)

/-- R81: an element's exact value; every element of a NaN block is a NaN. -/
def kn4Value (scale group i : Nat) : FVal :=
  let e := scale % 64
  if e == 63 then .nan 0x7FC00000
  else
    let (neg, h) := kn4Halves (scale / 64 % 4) (group / 16 ^ i % 16)
    .fin neg h ((e : Int) - 33)

/-- The magnitude that a type's range allows at scale 1, by sign (R82 step 2). -/
def kn4Max (ty : Nat) (neg : Bool) : Nat :=
  match ty with
  | 0 => if neg then 8 else 7
  | 1 => 6
  | 2 => 64
  | _ => 12

/-- ±m·2^e ≤ k·2^x in magnitude. -/
def magLe (m : Nat) (e : Int) (k : Nat) (x : Int) : Bool :=
  let b := min e x
  decide (m * 2 ^ (e - b).toNat ≤ k * 2 ^ (x - b).toNat)

/-- R82 step 2: the smallest e from 0 to 62 that holds every value. -/
def kn4Scale (ty : Nat) (xs : List (Bool × Nat × Int)) : Nat :=
  ((List.range 63).find? fun (k : Nat) =>
    xs.all fun (neg, m, e) => magLe m e (kn4Max ty neg) ((k : Int) - 32)).getD 62

/-- R82 step 3: one element's code at scale 2^(k − 32): the nearest grid point, ties to the code whose bit 0 is 0; the
flag that it overflows; and whether it changed. -/
def kn4Code (ty k : Nat) (neg : Bool) (m : Nat) (e : Int) : Nat × Bool × Bool :=
  let codes : List Nat := (if ty == 0 then (if neg then [0, 15, 14, 13, 12, 11, 10, 9, 8] else [0, 1, 2, 3, 4, 5, 6, 7])
    else if neg then [8, 9, 10, 11, 12, 13, 14, 15] else [0, 1, 2, 3, 4, 5, 6, 7])
  -- distances in units of 2^b
  let b := min e ((k : Int) - 33)
  let x := m * 2 ^ (e - b).toNat
  let at' := fun c => (kn4Halves ty c).2 * 2 ^ ((k : Int) - 33 - b).toNat
  let dist := fun c => if at' c ≤ x then x - at' c else at' c - x
  let best := codes.foldl (fun acc c =>
    match acc with
    | none => some c
    | some a => if dist c < dist a || (dist c == dist a && c % 2 == 0 && a % 2 == 1) then some c else some a) none
  let c := best.getD 0
  let overflow := !magLe m e (kn4Max ty neg) ((k : Int) - 32)
  let c := if ty == 0 && (kn4Halves ty c).2 == 0 then 0 else c
  (c, overflow, dist c != 0)

/-- R82: four exact values packed as a block of a type: code group, scale byte and flags. `f` reads the operands. -/
def kn4Pack (f : Fmt) (ty : Nat) (codes : List Nat) : Nat × Nat × Flags :=
  let vals := codes.map f.decode
  let bad := vals.any fun v => match v with
    | .fin _ _ _ => false
    | _ => true
  if bad then
    let inv := (vals.any fun v => match v with
      | .inf _ => true
      | _ => false) || f.anySignal codes
    (0, ty * 64 + 63, nvIf inv)
  else
    let xs := vals.map fun v => match v with
      | .fin n m e => (n, m, e)
      | _ => (false, 0, 0)
    let k := kn4Scale ty xs
    let rs := xs.map fun (n, m, e) => kn4Code ty k n m e
    let group := (rs.map (·.1)).foldr (fun c a => a * 16 + c) 0
    let fo : Flags := if rs.any (·.2.1) then fOF else 0
    let fx : Flags := if rs.any (·.2.2) then fNX else 0
    (group, ty * 64 + k, fo ||| fx)

/-- R83: an element as f32, exact. -/
def kn4ToF32 (scale group i : Nat) : Nat :=
  match kn4Value scale group i with
  | .fin neg m e => (f32.round .rn neg m e).1
  | _ => 0x7FC00000

end Sys2Proof.Machine
end

