-- ==== Sys2Proof/Machine/Atomic.lean ====
section
/-! DEFINITION. What an atomic or reduction makes of a word (R292). The floating adds round to nearest even, keep
subnormals and touch no flag. -/

namespace Sys2Proof.Machine

/-- Both halves of a packed add, each rounded once to its format (R292 ops 10 and 11). -/
def packedAdd (f : Fmt) (m x : Word) : Word :=
  let lo := (f.add .rn (m.toNat % 65536) (x.toNat % 65536)).1
  let hi := (f.add .rn (m.toNat / 65536) (x.toNat / 65536)).1
  BitVec.ofNat 32 (hi * 65536 + lo)

/-- R292: Op(m, x) by operation number. -/
def atomOp (op : Nat) (m x : Word) : Word :=
  match op with
  | 0 => m + x
  | 1 => BitVec.ofNat 32 (f32.add .rn m.toNat x.toNat).1
  | 2 => if m.toInt ≤ x.toInt then m else x
  | 3 => if x.toInt ≤ m.toInt then m else x
  | 4 => if m.toNat ≤ x.toNat then m else x
  | 5 => if x.toNat ≤ m.toNat then m else x
  | 6 => m &&& x
  | 7 => m ||| x
  | 8 => m ^^^ x
  | 9 => x
  | 10 => packedAdd bf16 m x
  | _ => packedAdd f16 m x

end Sys2Proof.Machine
end

