-- ==== Sys2Proof/Machine/Issue.lean ====
section
/-! DEFINITION. How an instruction issues: the context of the issuing path, markers and Commit() (R41 to R45), the lane and
uniform frames that every meaning uses (R32, R38, R44), and the return buffer. -/

namespace Sys2Proof.Machine

/-! ### The issuing path -/

/-- The strand, path and team of the instruction that issues, and its word. -/
structure Ctx where
  st   : Strand
  p    : Path
  tm   : Team
  word : Word
  deriving DecidableEq, Repr

/-- The context of the strand in `run.issuing`. -/
def ctxOf (s : State) : Option Ctx := do
  let sid ← s.run.issuing
  let st ← strandOf s sid
  let p ← st.path? st.cur
  let tm ← teamOf s st.tid
  some ⟨st, p, tm, s.run.curWord⟩

/-- Runs a meaning in the context of the issuing path. -/
def inCtx (s : State) (k : Ctx → State) : Out :=
  match ctxOf s with
  | some c => .next (k c)
  | none => .fault .noIssuer

/-- R158: the word an entry records is the one at its pc: under `rep`, the rep word. -/
def Ctx.at (c : Ctx) : At :=
  { sid := c.st.sid, pc := c.p.pc, word := if repActive c.p.rep then c.p.repWord else c.word, rep := c.p.rep, code := c.p.code }

/-- The threads that execute the instruction (R32, R171). -/
def Ctx.threads (c : Ctx) (s : State) : List Thread := executing s c.st.sid c.p

/-- R32: the guard as it reads in a thread. -/
def guardHolds (g : Guard) (t : Thread) : Bool := t.getP g.p.toNat ^^ g.neg

/-- R32: Active(). -/
def Ctx.active (c : Ctx) (s : State) (g : Guard) : List Thread := (c.threads s).filter fun t => guardHolds g t

/-! ### Advancing, and the switch marker -/

/-- R47, R49: the path after an instruction: the next word, the next repetition, or the word after a finished repeat. -/
def Path.advanced (p : Path) : Path :=
  let q := { p with marked := false, fromBrp := none, probe := [] }
  if repActive p.rep then
    if repIndex p.rep + 1 < repCount p.repWord then { q with rep := repState (repIndex p.rep + 1) }
    else { q with rep := 0, pc := p.pc + 8 }
  else { q with pc := p.pc + 4 }

/-- R41: a word with S = 1 parks the strand at a commit once it has taken effect. -/
def putMarker (s : State) (c : Ctx) : State :=
  if markerOf c.word then updStrand s c.st.sid fun st => { st with commit := some .explicit } else s

/-- The end of an instruction that goes on at the next one. -/
def finish (s : State) (c : Ctx) : State := putMarker (updPath s c.st.sid c.p.pid Path.advanced) c

/-- The end of an instruction that sets the PC. -/
def finishAt (s : State) (c : Ctx) (pc : DWord) : State :=
  putMarker (updPath s c.st.sid c.p.pid fun p => { p with pc := pc, marked := false, fromBrp := none, probe := [] }) c

/-- R43, R59: an implicit marker before the instruction. When RB holds nothing its commit is empty, and the turn may
pass; otherwise the strand parks at it. The instruction issues again after the marker. -/
def afterMarker (s : State) (c : Ctx) (counted : Bool) (k : State → State) : State :=
  if c.p.marked then k s
  else if c.st.rb.isEmpty then
    let s := markTurn (updPath s c.st.sid c.p.pid fun p => { p with marked := true }) c.st.sid
    if (strandOf s c.st.sid).map (·.cur) = some c.p.pid then k s else s
  else updStrand s c.st.sid fun st => { st with commit := some (.implicit counted) }

/-- R44: every executing thread of the path is filed with one failure, after the marker. -/
def fileAllWith (s : State) (c : Ctx) (f : Failure) : State :=
  afterMarker s c false fun s => fileThreads s c.at ((c.threads s).map fun t => (t, f))

/-- R38, R39: every executing thread of the path is filed with a cause. -/
def fileAll (s : State) (c : Ctx) (cause : BitVec 7) : State := fileAllWith s c (failure cause)

/-! ### Lane instructions -/

/-- What an instruction does in one active thread: its failed check, or its writes. -/
structure LaneRes where
  fail   : Option Failure
  writes : List Write
  deriving DecidableEq, Repr

/-- A lane that passes, with its writes. -/
def LaneRes.ok (ws : List Write) : LaneRes := ⟨none, ws⟩

/-- A lane that fails a check. -/
def LaneRes.bad (f : Failure) : LaneRes := ⟨some f, []⟩

/-- The lanes that fail, with their failures. -/
def failures (rs : List (Thread × LaneRes)) : List (Thread × Failure) :=
  rs.filterMap fun (t, r) => r.fail.map fun f => (t, f)

/-- The lanes that pass. -/
def passing (rs : List (Thread × LaneRes)) : List (Thread × LaneRes) := rs.filter fun x => x.2.fail.isNone

/-- R41: the short writes of the passing lanes. -/
def writeLanes (s : State) (rs : List (Thread × LaneRes)) : State :=
  { s with threads := s.threads.map fun t =>
      match rs.find? fun x => x.1.tid == t.tid && x.1.rank == t.rank with
      | some x => if x.2.fail.isNone then t.writes x.2.writes else t
      | none => t }

/-- R41: a long result enters RB. -/
def pushRb (s : State) (c : Ctx) (lanes : List RBLane) (own : List Write) (returned : Bool) (poison : Option (BitVec 12)) :
    State :=
  updStrand s c.st.sid fun st =>
    { st with rb := st.rb ++ [{ id := st.nextRb, pc := c.p.pc, word := c.at.word, rep := c.p.rep, lanes := lanes
                                strand := own, returned := returned, poison := poison }]
              nextRb := st.nextRb + 1 }

/-- One lane's share of a long result that is computed already. -/
def RBLane.done (t : Thread) (ws : List Write) : RBLane := ⟨t.rank, false, ws, none, 0, none⟩

/-- R41: the long result of the passing lanes. -/
def longLanes (s : State) (c : Ctx) (rs : List (Thread × LaneRes)) : State :=
  pushRb s c ((passing rs).map fun x => RBLane.done x.1 x.2.writes) [] false none

/-- R44: a lane instruction over its active threads: after the marker where a lane fails, the effect in the lanes that
pass, then the filings. -/
def runLanes (s : State) (c : Ctx) (g : Guard) (f : State → Thread → LaneRes)
    (apply : State → List (Thread × LaneRes) → State) : State :=
  let go := fun (s : State) =>
    let rs := (c.active s g).map fun t => (t, f s t)
    finish (fileThreads (apply s rs) c.at (failures rs)) c
  if ((c.active s g).any fun t => (f s t).fail.isSome) then afterMarker s c false go else go s

/-- R38: v registers below the team's `regs`. -/
def Ctx.vOk (c : Ctx) (ns : List Nat) : Bool := ns.all fun n => decide (n < c.tm.desc.regs)

/-- R38: c registers below the team's `caps`. -/
def Ctx.cOk (c : Ctx) (ns : List Nat) : Bool := ns.all fun n => decide (n < c.tm.desc.caps)

/-- R38: tiles and accumulator tiles below the team's allocation. -/
def Ctx.tOk (c : Ctx) (ns : List Nat) : Bool := ns.all fun n => decide (n < c.tm.desc.tiles)
def Ctx.aOk (c : Ctx) (ns : List Nat) : Bool := ns.all fun n => decide (n < c.tm.desc.accs)

/-- A short lane instruction. `legal` is R38's check of the registers that the word names. -/
def laneShort (s : State) (g : Guard) (legal : Ctx → Bool) (f : Ctx → State → Thread → LaneRes) : Out :=
  inCtx s fun c =>
    if legal c then runLanes s c g (f c) writeLanes else fileAll s c 0x01

/-- R42: a long instruction that would be the 25th outstanding waits for a counted implicit marker. -/
def afterRbRoom (s : State) (c : Ctx) (k : State → State) : State :=
  if c.st.rb.length < Config.rbSize then k s else afterMarker s c true k

/-- A long lane instruction whose result does not come from memory. -/
def laneLong (s : State) (g : Guard) (legal : Ctx → Bool) (f : Ctx → State → Thread → LaneRes) : Out :=
  inCtx s fun c =>
    if legal c then afterRbRoom s c fun s => runLanes s c g (f c) fun s rs => longLanes s c rs else fileAll s c 0x01

/-! ### Uniform instructions -/

/-- A short uniform instruction without a check that can file. -/
def uniShort (s : State) (f : Ctx → State → State) : Out := inCtx s fun c => finish (f c s) c

/-- The strand of the context with `f` applied. -/
def onStrand (s : State) (c : Ctx) (f : Strand → Strand) : State := updStrand s c.st.sid f

/-- R32, R302: the threads whose event a uniform access is. -/
def Ctx.ranks (c : Ctx) (s : State) : List Nat := (c.threads s).map (·.rank)

/-! ### Privilege (R39) -/

/-- The strand is a handler strand, or the straggler strand of a handler lane (R185). -/
def Ctx.handler (c : Ctx) : Bool := c.st.serves

/-- The strand is a kernel-class handler strand. -/
def Ctx.kernel (c : Ctx) : Bool := c.handler && c.st.handlerClass == 2

/-- R63: matrix, tile and accumulator instructions are illegal in a fresh strand. -/
def Ctx.notFresh (c : Ctx) : Bool :=
  match c.st.kind with
  | .fresh _ => false
  | _ => true

/-! ### Commit (R41, R45, R170, R203) -/

/-- R203: a strand of the team consumes poison. In an unexposed interval the team rolls back, at most three times; in an
exposed one it is ended with the poison's provenance. -/
def consumePoison (s : State) (tid : Nat) (pc : DWord) (rank : Nat) (prov : BitVec 12) : State :=
  match teamOf s tid with
  | none => s
  | some tm =>
    if !tm.exposed && tm.rollbacks != 3 then updTeam s tid fun x => { x with rolling := some prov }
    else
      endOwner s tm tm.launch (if tm.exposed then 0x80 else 0x81) pc (BitVec.ofNat 32 rank) prov 0x8000007F

/-- The first poison among the results of RB, by issue, with the entry and the lanes it concerns. -/
def firstPoison : List RBEntry → Option (RBEntry × Nat × BitVec 12)
  | [] => none
  | e :: es =>
    match e.poison with
    | some p => some (e, ((e.lanes.head?).map (·.rank)).getD 0, p)
    | none =>
      match firstSome (fun l : RBLane => l.poison.map fun p => (l.rank, p)) e.lanes with
      | some (r, p) => some (e, r, p)
      | none => firstPoison es

/-- R41: the writes of one result in the lanes whose value is not poisoned. -/
def applyEntry (s : State) (st : Strand) (e : RBEntry) : State :=
  let s := { s with threads := s.threads.map fun t =>
    if t.tid == st.tid then
      match e.lanes.find? fun l => l.rank == t.rank with
      | some l => if l.poison.isNone then t.writes l.writes else t
      | none => t
    else t }
  if e.poison.isNone then strandWrites s st e.strand else s

/-- R170: the lanes of a handler strand that consume poison, each with its oldest poisoned result. -/
def poisonedLanes (s : State) (st : Strand) : List (Thread × RBEntry × BitVec 12 × RBLane) :=
  (s.threads.filter fun t => t.tid == st.tid && t.sid == st.sid && t.status = .present).filterMap fun t =>
    firstSome (fun e : RBEntry =>
      match e.lanes.find? fun l => l.rank == t.rank with
      | some l =>
        match l.poison with
        | some p => some (t, e, p, l)
        | none => e.poison.map fun p => (t, e, p, l)
      | none => none) st.rb

/-- R158, R170: the filings of a handler strand's commit. An address that was translated for a subject names its ASID. -/
def filePoisoned (s : State) (st : Strand) (code : Cap) (asid : BitVec 16) :
    List (Thread × RBEntry × BitVec 12 × RBLane) → State
  | [] => s
  | (t, e, p, l) :: rest =>
    let c : At := { sid := st.sid, pc := e.pc, word := e.word, rep := e.rep, code := code }
    let f : Failure := { cause := 0x18, addr := l.addr, detail := p.setWidth 32, asid := l.asid.getD asid }
    filePoisoned (fileThread s c t f) st code asid rest

/-- R41: every result of RB has returned. -/
def rbReturned (st : Strand) : Bool := st.rb.all (·.returned)

/-- R41, R45, R59, R170, R203, R348: Commit() once RB has returned: the results, oldest first, RB cleared, poison
consumed, the turn passed or kept, and a requested stop taken. -/
def commitStrand (s : State) (sid : Nat) : State :=
  match strandOf s sid with
  | none => s
  | some st =>
    match st.commit with
    | none => s
    | some m =>
      let clear := fun (s : State) => updStrand s sid fun x =>
        let x := { x with rb := [], commit := none
                          stop := match x.stop with
                            | .requested _ => .stopped
                            | y => y
                          implicit := if m = .implicit true then x.implicit + 1 else x.implicit }
        match m with
        | .implicit _ => x.updPath x.cur fun p => { p with marked := true }
        | .explicit => x
      if st.serves then
        let bad := poisonedLanes s st
        let code := ((st.path? st.cur).map (·.code)).getD nullCap
        let asid := ((teamOf s st.tid).map (·.asid)).getD 0
        let s := st.rb.foldl (fun s e => applyEntry s st e) s
        markTurn (filePoisoned (clear s) st code asid bad) sid
      else
        match firstPoison st.rb with
        | some (e, rank, prov) => consumePoison (clear s) st.tid e.pc rank prov
        | none => markTurn (clear (st.rb.foldl (fun s e => applyEntry s st e) s)) sid

end Sys2Proof.Machine
end

