-- ==== Sys2Proof/Machine/Memory.lean ====
section
/-! DEFINITION. Memory below the events: physical bytes, tags, poison and encrypted lines at their point of coherence
(R90, R269, R278, R279, R301, R321 to R323), the page walk and TLBs (R270 to R274), the checks of R98 to R100, staging,
the undo log and exposure (R201, R202). -/

namespace Sys2Proof.Machine

/-! ### Physical memory (R269) -/

/-- The line of a physical address. -/
def lineOf (pa : Nat) : Nat := pa / 64

/-- R269: the tier whose range a physical address lies in, frames of HBM4 only for tier 0. -/
def tierAt (pa : Nat) : Option Nat :=
  if pa < 0x8000000000 then (if pa % 0x1000000000 < 0xBE8000000 then some 0 else none)
  else if 0x10000000000 ≤ pa && pa < 0x20000000000 then some 1
  else if 0x100000000000 ≤ pa && pa < 0x200000000000 then some 2
  else none

/-- A tag's value at a physical address (R90). -/
def tagAt (m : MemState) (pa : Nat) : Bool := m.tags.contains (pa / 16)

/-- The tag of a granule set or cleared. -/
def setTag (m : MemState) (granule : Nat) (b : Bool) : MemState :=
  { m with tags := if b then nins granule m.tags else m.tags.filter fun g => g != granule }

/-- The granules that `n` bytes from `pa` on touch. -/
def granulesOf (pa n : Nat) : List Nat := (List.range ((pa + n - 1) / 16 + 1 - pa / 16)).map (· + pa / 16)

/-- The lines that `n` bytes from `pa` on touch. -/
def linesOf (pa n : Nat) : List Nat := (List.range ((pa + n - 1) / 64 + 1 - pa / 64)).map (· + pa / 64)

/-- R355: the provenance of a line that has been retired. -/
def retiredLine (m : MemState) (line : Nat) : Option (BitVec 12) :=
  (m.retired.find? fun r => decide (r.1 ≤ line) && decide (line < r.1 + r.2.1)).map (·.2.2)

/-- The poison of a line (R278). A retired line stays poisoned (R355). -/
def poisonOf (m : MemState) (line : Nat) : Option (BitVec 12) :=
  match sget none m.poison line with
  | some p => some p
  | none => retiredLine m line

/-- The lower of two provenances (R279). -/
def minPoison : Option (BitVec 12) → Option (BitVec 12) → Option (BitVec 12)
  | some x, some y => some (if x.toNat < y.toNat then x else y)
  | none, y => y
  | x, none => x

/-- A line poisoned; two sources leave the lower provenance (R279). -/
def addPoison (m : MemState) (line : Nat) (prov : BitVec 12) : MemState :=
  let p := match poisonOf m line with
    | some q => if q.toNat < prov.toNat then q else prov
    | none => prov
  { m with poison := sput none m.poison line (some p) }

/-- R278: an error in a unit writes a record in its die's ring of 256, and gives its provenance. -/
def recordError (s : State) (die : Nat) (source : BitVec 4) (addr : Nat) (unit : TestUnit) : State × BitVec 12 :=
  let i := sget 0 s.plant.errNext die
  let r : ErrRecord :=
    { die := die, index := i, source := source, addr := addr, unit := unit, syndrome := Config.syndrome s.run.tick
      stamp := s.run.clock.toNat, transient := false, tested := false }
  let errs := (s.plant.errors.filter fun e => !(e.die == die && e.index == i)) ++ [r]
  ({ s with plant := { s.plant with errors := errs, errNext := sput 0 s.plant.errNext die ((i + 1) % 256) } },
   source ++ BitVec.ofNat 8 i)

/-- R278: the unit of an error outside the cores: for a fabric error a link, any of the 16, and else the memory of the line. -/
def errorUnit (s : State) (source : BitVec 4) (addr : Nat) : TestUnit :=
  if source == 7 then .link (Config.pick s.run.tick 0x907 % 16) else .memory (addr / 64 * 64) 64

/-- R278: an error outside the cores. -/
def writeError (s : State) (die : Nat) (source : BitVec 4) (addr : Nat) : State × BitVec 12 :=
  recordError s die source addr (errorUnit s source addr)

/-- A key slot as the table holds it (R324). -/
def noKey : KeySlot := { state := 0, world := 0, colour := 0, use := 0, gen := 0, key := 0, writes := 0 }
def keySlot (s : State) (i : Nat) : KeySlot := sget noKey s.trust.keys i

/-- R321, R322, R325: a line of tiers 1 and 2 verifies under a slot: it was last written under the key that the slot holds. That
no other key's MAC agrees by chance is the model's choice (DESIGN CHOICE 95). -/
def lineVerifies (s : State) (line slot : Nat) : Bool :=
  match sget none s.mem.encLines line with
  | some e => e.key == (keySlot s slot).key && (keySlot s slot).state == 1
  | none => false

/-- R321, R323: a line's counter: major · 128 + minor. -/
def lineCounter (m : MemState) (line : Nat) : Nat :=
  sget 0 m.encMajor (line / 64) * 128 + ((sget none m.encLines line).map (·.minor)).getD 0

/-- R321: keystream block `j` of a line with a counter; bit 127 stands in the first byte. -/
def lineBlock (line counter j : Nat) : List Byte := beBytes 16 (line * 2 ^ 82 + counter * 2 ^ 11 + j)

/-- R321: the plaintext of bytes 0 to 63 and 72, and of bytes 0 to 72. -/
def lineCovered (m : MemState) (line : Nat) : List Byte :=
  cellGets m.cells (64 * line) 64 ++
    [BitVec.ofNat 8 (((List.range 4).map fun i => if tagAt m (64 * line + 16 * i) then 2 ^ i else 0).foldl (· + ·) 0)]
def linePlain (m : MemState) (line : Nat) : List Byte :=
  let p := lineCovered m line
  p.take 64 ++ bytesOfNat 8 (Config.eccBytes p).toNat ++ p.drop 64

/-- R321: the pad of a line, and its MAC: the top 56 bits of the tag. -/
def linePad (key : BitVec 256) (line counter : Nat) : List Byte :=
  (keystream (keyBytes key) ((List.range 5).map (lineBlock line counter))).take 73
def lineMac (key : BitVec 256) (line counter : Nat) (covered : List Byte) : List Byte :=
  (gcmTagWith (keyBytes key) (lineBlock line counter 0xFF) (fillBlock covered)).take 7

/-- R321: the 80 bytes in which a line of tiers 1 and 2 is stored. -/
def storedLine (m : MemState) (line : Nat) : List Byte :=
  let key := ((sget none m.encLines line).map (·.key)).getD 0
  xorBytes (linePlain m line) (linePad key line (lineCounter m line)) ++ lineMac key line (lineCounter m line) (lineCovered m line)

/-- R323: a level-1 counter line: the major, and 64 minors of seven bits. -/
def counterLine (m : MemState) (page : Nat) : List Byte :=
  bytesOfNat 8 (sget 0 m.encMajor page) ++
    bytesOfNat 56 (((List.range 64).map fun i => lineCounter m (64 * page + i) % 128 * 2 ^ (7 * i)).foldl (· + ·) 0)

/-- R323: the MAC of a counter line under the package tree key: over its address, which is that of the data it counts, its contents
and its parent's counter. -/
def counterMac (s : State) (page : Nat) : List Byte :=
  (gcmTagWith (keyBytes (Config.treeKey s.trust.resets)) (List.replicate 16 0)
    (bytesOfNat 8 (4096 * page) ++ counterLine s.mem page ++ bytesOfNat 8 (sget 0 s.mem.encTree (2 ^ 48 + page)))).take 7

/-- R323: the counters on the path above a counter line, from a level up, each one higher. At 128 a line's minors start again. -/
def bumpTree : Nat → Nat → Nat → Sparse Nat → Sparse Nat
  | 0, _, _, m => m
  | n + 1, level, index, m =>
    let i := 2 ^ 48 * level + index
    let c := sget 0 m i + 1
    let m := if c % 128 == 0 then
        (List.range 64).foldl (fun m j => sput 0 m (i / 64 * 64 + j) (c / 128 * 128)) m
      else sput 0 m i c
    bumpTree n (level + 1) (index / 64) m

/-- R322: a line that fails its MAC is poisoned with source 6. -/
def verifyLine (s : State) (line slot : Nat) : State :=
  if (tierAt (line * 64)).getD 0 == 0 || (poisonOf s.mem line).isSome || lineVerifies s line slot then s
  else
    let (s, prov) := writeError s 0 6 (line * 64)
    { s with mem := addPoison s.mem line prov }

/-- R323: one write of an encrypted line: its minor counter rises, and at 128 the page's minors start again. The counters of the
tree above rise with it. -/
def countWrite (m : MemState) (line slot : Nat) (key : BitVec 256) : MemState :=
  let m := { m with encTree := bumpTree Config.treeLevels 1 (line / 64) m.encTree }
  let old := match sget none m.encLines line with
    | some e => e.minor
    | none => 0
  if old + 1 == 128 then
    let page := line / 64
    let lines := m.encLines.map fun x => if x.1 / 64 == page then (x.1, x.2.map fun e => { e with minor := 0 }) else x
    { m with encLines := sput none lines line (some ⟨slot, key, 0⟩)
             encMajor := sput 0 m.encMajor page (sget 0 m.encMajor page + 1) }
  else { m with encLines := sput none m.encLines line (some ⟨slot, key, old + 1⟩) }

/-- Coherence numbers given to written bytes (R301). -/
def numberBytes (m : Sparse Nat) (pa no : Nat) : Nat → Sparse Nat
  | 0 => m
  | n + 1 => numberBytes (sput 0 m pa no) (pa + 1) no n

/-- Bytes of a line copy with those from offset `i` on replaced. -/
def replaceAt {α : Type} (l : List α) (i : Nat) (bs : List α) : List α := l.take i ++ bs ++ l.drop (i + bs.length)

/-- R306: the L1 copies of the issuing cores take bytes written in tier 0. A whole line's write leaves such a copy with
nothing of what was poisoned (R279). -/
def updateL1 (l1 : List L1Copy) (cores : List Nat) (pa no : Nat) (bs : List Byte) (tag : Bool) : List L1Copy :=
  l1.map fun x =>
    if cores.contains x.core && x.line == lineOf pa && (tierAt pa).getD 0 == 0 then
      { x with bytes := replaceAt x.bytes (pa % 64) bs, seqs := replaceAt x.seqs (pa % 64) (bs.map fun _ => no)
               tags := (List.range 4).map fun i =>
                 if (granulesOf pa bs.length).contains (4 * x.line + i) then tag else (x.tags[i]?).getD false
               poison := if bs.length == 64 then none else x.poison }
    else x

/-- R277, R306: the port's pending reductions of a line are applied, each partial with one more operation; the L1 copies of the
cores whose reductions they are take the written words. -/
def drainReds (s : State) (line : Nat) : State :=
  match s.mem.redEntries.find? fun e => e.line == line with
  | none => s
  | some e =>
    let m := e.elems.foldl (fun (m : MemState) x =>
      let old := wordOf (cellGets m.cells x.1 4)
      let new := bytesOfWord (atomOp e.op.toNat old x.2.1)
      let no := m.wseqNo + 1
      let m := { m with cells := cellPuts m.cells x.1 new, wseq := numberBytes m.wseq x.1 no 4, wseqNo := no
                        l1 := updateL1 m.l1 x.2.2 x.1 no new false }
      setTag m (x.1 / 16) false) s.mem
    { s with mem := { m with redEntries := m.redEntries.filter fun x => x.line != line } }

/-- R277: any other operation on a line drains its pending entry first: here on each line of a range. -/
def drainRange (s : State) (pa n : Nat) : State := (linesOf pa n).foldl drainReds s

/-- R91, R301, R306, R322: bytes within one line applied at their point of coherence as one write. `tag` is what a
capability store writes into its granule; every other write clears the granules it touches. -/
def writeLine (s : State) (core : Option Nat) (slot pa : Nat) (bs : List Byte) (tag : Option Bool) : State :=
  let line := lineOf pa
  let enc := (tierAt pa).getD 0 != 0
  let s := drainReds s line
  let s := if enc && bs.length != 64 then verifyLine s line slot else s
  let m := s.mem
  let no := m.wseqNo + 1
  let m := { m with cells := cellPuts m.cells pa bs, wseq := numberBytes m.wseq pa no bs.length, wseqNo := no
                    l1 := updateL1 m.l1 core.toList pa no bs (tag.getD false)
                    poison := if bs.length == 64 then sput none m.poison line none else m.poison }
  let m := (granulesOf pa bs.length).foldl (fun m g => setTag m g (tag.getD false)) m
  let m := if enc then countWrite m line slot (keySlot s slot).key else m
  { s with mem := m }

/-- Bytes split at line boundaries: an address and its bytes, for each line. -/
def splitLines : Nat → Nat → List Byte → List (Nat × List Byte)
  | 0, _, _ => []
  | _, _, [] => []
  | n + 1, pa, bs =>
    let k := 64 - pa % 64
    (pa, bs.take k) :: splitLines n (pa + k) (bs.drop k)

/-- Bytes applied at their points of coherence, line by line. -/
def writePhys (s : State) (core : Option Nat) (slot pa : Nat) (bs : List Byte) (tag : Option Bool) : State :=
  (splitLines (bs.length / 64 + 2) pa bs).foldl (fun s x => writeLine s core slot x.1 x.2 tag) s

/-- R301, R322: the bytes at their point of coherence, with the lowest provenance of the lines read. -/
def readPhys (s : State) (slot pa n : Nat) : State × List Byte × Option (BitVec 12) :=
  let lines := linesOf pa n
  let s := lines.foldl (fun s l => verifyLine (drainReds s l) l slot) s
  let p := lines.foldl (fun a l => minPoison a (poisonOf s.mem l)) none
  (s, cellGets s.mem.cells pa n, p)

/-! ### Page tables (R270 to R274) -/

/-- A leaf as the walker takes it (R271). -/
structure Leaf where
  pa : Nat
  /-- First 64 KiB page that it maps, and how many. -/
  page  : Nat
  units : Nat
  key   : Nat
  version : BitVec 8
  colour : BitVec 4
  tier  : Nat
  cow   : Bool
  x : Bool
  w : Bool
  r : Bool
  /-- Physical address of the entry itself. -/
  at' : Nat
  deriving DecidableEq, Repr

/-- Bits of a page-table entry. -/
def pteBits (e : BitVec 128) (lo n : Nat) : Nat := (e.extractLsb' lo n).toNat

/-- R271: the physical address that an entry holds, all 52 bits of it. -/
def ptePa (e : BitVec 128) : Nat := pteBits e 12 52

/-- 64 KiB pages that an entry of a level covers (R270). -/
def levelUnits (level : Nat) : Nat :=
  match level with
  | 0 => 2 ^ 32
  | 1 => 2 ^ 23
  | 2 => 2 ^ 14
  | 3 => 32
  | _ => 1

/-- The index of a page in a table of a level (R270). -/
def levelIndex (level page : Nat) : Nat :=
  match level with
  | 4 => page % 32
  | l => page / levelUnits l % 512

/-- R272: a present entry of a level is malformed. -/
def pteMalformed (level : Nat) (e : BitVec 128) : Bool :=
  let leaf := pteBits e 1 1 == 1
  let pa := ptePa e
  let size := pteBits e 96 2
  let tier := pteBits e 98 2
  pteBits e 64 32 != 0 || pteBits e 8 4 != 0 || pteBits e 2 2 != 0 ||
    (if leaf then
      tier == 3 || size == 3 || level < 2 || size != 4 - level || pa % (levelUnits level * 65536) != 0 ||
        tierAt pa != some tier
    else
      level == 4 || pa % (if level == 3 then 512 else 8192) != 0 || tierAt pa != some 0)

/-- The leaf that an entry of a level is. -/
def leafOf (level page at' : Nat) (e : BitVec 128) : Leaf :=
  { pa := ptePa e, page := page / levelUnits level * levelUnits level, units := levelUnits level
    key := pteBits e 112 16, version := e.extractLsb' 104 8, colour := e.extractLsb' 100 4, tier := pteBits e 98 2
    cow := pteBits e 7 1 == 1, x := pteBits e 6 1 == 1, w := pteBits e 5 1 == 1, r := pteBits e 4 1 == 1, at' := at' }

/-- A 16-byte entry of memory, once the pending reductions of its line have drained. -/
def readEntry (s : State) (pa : Nat) : BitVec 128 :=
  BitVec.ofNat 128 (natOfBytes (cellGets (drainReds s (lineOf pa)).mem.cells pa 16))

/-- R274: a cached translation that is held may have been dropped meanwhile; the choice is not specified. -/
def keptCached (s : State) (key : Nat) : Bool := Config.pick s.run.tick (0x1000 + key) % 2 == 0

/-- R270, R272, R273: the walk from a level down, through the table cache of the issuer's die. The walker caches valid
non-leaf entries; a malformed entry writes an error record with source 3. -/
def walkFrom (s : State) (die : Nat) (asid : BitVec 16) (page : Nat) : Nat → Nat → Nat → State × Option (Leaf × BitVec 128)
  | 0, _, _ => (s, none)
  | n + 1, level, table =>
    let at' := table + 16 * levelIndex level page
    let s := drainReds s (lineOf at')
    let units := levelUnits level
    let base := page / units * units
    let cached := s.mem.walkCache.find? fun x => x.die == die && x.asid == asid && x.page == base && x.units == units
    let e := match cached with
      | some x => if keptCached s (page + level) then x.entry else readEntry s at'
      | none => readEntry s at'
    if pteBits e 0 1 == 0 then (s, none)
    else if pteMalformed level e then ((writeError s die 3 at').1, none)
    else if pteBits e 1 1 == 1 then (s, some (leafOf level page at' e, e))
    else
      let others := s.mem.walkCache.filter fun x => !(x.die == die && x.asid == asid && x.page == base && x.units == units)
      let mine := others.filter fun x => x.die == die
      let others := if mine.length < Config.tableCacheSize then others
        else others.filter fun x => some x != mine.head?
      let s := { s with mem := { s.mem with walkCache := others ++ [⟨die, asid, base, units, at', e⟩] } }
      walkFrom s die asid page n (level + 1) (ptePa e)

/-- R269, R270: the walk of a 64 KiB page from the ASID root table. -/
def walk (s : State) (die : Nat) (asid : BitVec 16) (page : Nat) : State × Option (Leaf × BitVec 128) :=
  let s := drainReds s (lineOf (16 * asid.toNat))
  let root := readEntry s (16 * asid.toNat)
  if root.getLsbD 127 then walkFrom s die asid page 5 0 (pteBits root 0 52) else (s, none)

/-- R273: entries that an issuer's TLB holds. -/
def tlbSize : TlbIssuer → Nat
  | .core _ => Config.l1TlbSize
  | .cluster _ _ => Config.l2TlbSize
  | .net => Config.netTlbSize
  | .storage => Config.storageTlbSize

/-- A TLB's entry for a page. -/
def tlbFind (s : State) (i : TlbIssuer) (asid : BitVec 16) (page : Nat) : Option TlbEntry :=
  s.mem.tlb.find? fun x => x.issuer = i && x.asid == asid && decide (x.page ≤ page) && decide (page < x.page + x.units)

/-- R267, R273, R274: a valid translation enters a TLB; a full one drops its oldest entry. -/
def tlbFill (s : State) (i : TlbIssuer) (asid : BitVec 16) (l : Leaf) (e : BitVec 128) : State :=
  let rest := s.mem.tlb.filter fun x => !(x.issuer = i && x.asid == asid && x.page == l.page && x.units == l.units)
  let mine := rest.filter fun x => x.issuer = i
  let rest := if mine.length < tlbSize i then rest else rest.filter fun x => some x != mine.head?
  { s with mem := { s.mem with tlb := rest ++ [⟨i, asid, l.page, l.units, e⟩] } }

/-- The leaf of a TLB entry. -/
def TlbEntry.toLeaf (x : TlbEntry) : Leaf :=
  leafOf (if x.units == 1 then 4 else if x.units == 32 then 3 else 2) x.page 0 x.leaf

/-- Who makes an access: the context whose tables translate it, its world, and its team and rank where it has one
(R105, R273). -/
structure Who where
  issuers : List TlbIssuer
  die   : Nat
  core  : Option Nat
  asid  : BitVec 16
  world : BitVec 8
  tid   : Option Nat
  rank  : Nat
  solo  : Bool
  deriving DecidableEq, Repr

/-- R273: the translation of a page: from the issuer's TLBs in their order, or from the walker, which fills them. -/
def translate (s : State) (w : Who) (page : Nat) : State × Option Leaf :=
  match firstSome (fun i => tlbFind s i w.asid page) w.issuers with
  | some x => if keptCached s page then (s, some x.toLeaf) else fill s
  | none => fill s
where
  /-- The walk and the fills that follow it. -/
  fill (s : State) : State × Option Leaf :=
    match walk s w.die w.asid page with
    | (s, none) => (s, none)
    | (s, some (l, e)) => (w.issuers.foldl (fun s i => tlbFill s i w.asid l e) s, some l)

/-! ### The checks of an access (R98 to R100, R105) -/

/-- What an access does, for the checks. -/
inductive AccKind where
  | load | store | atomic | red | fetch
  deriving DecidableEq, Repr

/-- The access writes. -/
def AccKind.writes : AccKind → Bool
  | .store => true
  | .atomic => true
  | .red => true
  | _ => false

/-- An access to check. `natural` asks for natural alignment, `align` for a multiple of it; `whole` marks accesses that
space 0xD does not take and `fe` the full/empty forms; `engine` is an engine's access, which may write the weight buffer
(check 7); `buffers` is clear for the engines that reach no buffer (R186). -/
structure Access where
  kind : AccKind
  cap  : Cap
  addr : Int
  size : Nat
  perm : BitVec 8
  natural : Bool
  whole : Bool
  fe : Bool
  engine : Bool
  align : Nat := 1
  buffers : Bool := true
  deriving DecidableEq, Repr

/-- Checks 1 to 4 of R100. -/
def capCheck (a : Access) : Option (BitVec 7) :=
  if !a.cap.tag then some 0x04
  else if a.cap.seal != 0 then some 0x06
  else if !a.cap.has a.perm then some 0x05
  else if a.addr < (a.cap.region.1 : Int) || (a.cap.region.2 : Int) < a.addr + a.size || 2 ^ 64 ≤ a.addr then some 0x03
  else none

/-- The space of an address (R105). -/
def spaceOf (addr : Nat) : Nat := addr / 2 ^ 60 % 16

/-- R166, R187: bytes of a team's activation allocation. Handler strands own none. -/
def actBytes (tm : Team) : Nat := if tm.role = .handler then 0 else max tm.desc.act 64

/-- The cluster of a package-logical core, as a die and a physical cluster. -/
structure Place where
  die : Nat
  cluster : Nat
  deriving DecidableEq, Repr

/-- R283: the fused cores of a die. -/
def fusedOf (s : State) (die : Nat) : List Nat := sget [] s.plant.harvest die

/-- R284: the physical core of a package-logical core: the n-th enabled one of its die. -/
def physCore (s : State) (core : Nat) : Nat :=
  let fused := fusedOf s (dieOf core)
  (((List.range 144).filter fun p => !fused.contains p)[core % Config.coresPerDie]?).getD 0

/-- R285: the physical cluster of a package-logical core. -/
def clusterOf (s : State) (core : Nat) : Place := ⟨dieOf core, physCore s core / 4⟩

/-- R264: the team of the same launch that holds a cluster-local name in the accessing team's cluster. -/
def peerTeam (s : State) (tm : Team) (name : Nat) : Option Team :=
  match tm.place with
  | none => none
  | some core =>
    s.teams.find? fun x => x.launch == tm.launch && x.name == some name && x.state != .ended && x.state != .saved &&
      match x.place with
      | some c => clusterOf s c = clusterOf s core
      | none => false

/-- R326: the storage offset of the alias window's element byte: group and position. -/
def aliasGroup (va : Nat) : Nat := va % 65536 / 64

/-- R325: the key check of a tier 1 or 2 leaf. -/
def keyCheck (s : State) (w : Who) (l : Leaf) : Bool :=
  l.tier == 0 ||
    (let k := keySlot s l.key
     k.state == 1 && k.use == 0 && k.world == w.world && k.colour == l.colour)

/-- A part of an access that lies in one 64 KiB page: its address, its bytes, and the leaf that maps the page. -/
structure PagePart where
  va   : Nat
  n    : Nat
  leaf : Leaf
  deriving DecidableEq, Repr

/-- R272, R326: the PTE permissions, which belong to check 8. -/
def leafAllows (a : Access) (aliased : Bool) (l : Leaf) : Bool :=
  !(aliased && l.tier != 0) && !(a.kind = .fetch && !l.x) && !((a.kind = .load || a.kind = .atomic) && !l.r) &&
    !(a.kind.writes && !l.cow && !l.w)

/-- Check 8 of R100 over a range of a translated space, page by page. -/
def pageParts (s : State) (w : Who) (a : Access) (aliased : Bool) : Nat → Nat → Nat → State × Except (BitVec 7) (List PagePart)
  | 0, _, _ => (s, .ok [])
  | n + 1, va, size =>
    if size == 0 then (s, .ok [])
    else
      let k := min size (65536 - va % 65536)
      match translate s w (va / 65536) with
      | (s, none) => (s, .error 0x10)
      | (s, some l) =>
        if !leafAllows a aliased l then (s, .error 0x05)
        else match pageParts s w a aliased n (va + k) (size - k) with
          | (s, .error c) => (s, .error c)
          | (s, .ok rest) => (s, .ok (⟨va, k, l⟩ :: rest))

/-- Checks 9 to 11 of R100 over the pages of an access: each over all of them before the next (DEDUCED 93). -/
def leafChecks (s : State) (w : Who) (a : Access) (ls : List Leaf) : Option (BitVec 7) :=
  if !a.cap.has permY && ls.any fun l => a.cap.version != l.version then some 0x07
  else if ls.any fun l => (!a.cap.has permY && a.cap.colour != l.colour) || !keyCheck s w l then some 0x12
  else if a.kind.writes && ls.any fun l => l.cow then some 0x11
  else none

/-- The place of a part of an access. -/
def PagePart.loc (x : PagePart) (aliased : Bool) : Loc × Nat :=
  let pa := x.leaf.pa + (x.va - x.leaf.page * 65536)
  (if aliased then .window ((pa - x.va % 65536) / 65536) (x.va % 65536) else .phys pa x.leaf.key, x.n)

/-- Checks 8 to 11 over a range of a translated space, and where its bytes lie. -/
def pagesCheck (s : State) (w : Who) (a : Access) (aliased : Bool) (n va size : Nat) :
    State × Except (BitVec 7) (List (Loc × Nat)) :=
  match pageParts s w a aliased n va size with
  | (s, .error c) => (s, .error c)
  | (s, .ok parts) => match leafChecks s w a (parts.map (·.leaf)) with
    | some c => (s, .error c)
    | none => (s, .ok (parts.map fun x => x.loc aliased))

/-- R163, R335: an access overlaps an armed watch range while the device is debug-open. -/
def watched (s : State) (a : Access) : Bool :=
  s.trust.lifecycle == 2 && !a.engine && a.kind != .fetch &&
    s.traps.watch.any fun r => decide (a.addr < (r.2.toNat : Int)) && decide ((r.1.toNat : Int) < a.addr + a.size)

/-- Where checks 6 and 7 leave an access: at places that no table translates, or in translated space, from a
device-virtual address on. -/
inductive Spot where
  | places (locs : List (Loc × Nat))
  | pages (va : Nat) (aliased : Bool)
  deriving DecidableEq, Repr

/-- Checks 6 and 7 of R100, by the space of the address (R105, R138, R143, R186, R392). That no instruction can be fetched from
space 0xD or 0xF, where no word of four bytes is one access or a part of memory's cells, is the model's choice (DESIGN
CHOICE 91). -/
def spaceCheck (s : State) (w : Who) (a : Access) : Except (BitVec 7) Spot :=
  let va := a.addr.toNat
  let off := va % 2 ^ 60
  let team := w.tid.bind (teamOf s)
  let sp := spaceOf va
  let atomic := a.kind = .atomic || a.kind = .red
  if sp == 0xF && !w.solo then .error 0x02
  else if a.fe && sp != 8 && sp != 0xA then .error 0x05
  else if !a.buffers && 8 ≤ sp && sp ≤ 0xA then .error 0x05
  else if sp == 0 then
    if 2 ^ 57 < va + a.size then .error 0x05 else .ok (.pages va false)
  else if sp == 8 then
    match team with
    | some tm => if off + a.size ≤ actBytes tm then .ok (.places [(.act tm.tid off, a.size)]) else .error 0x05
    | none => .error 0x05
  else if sp == 9 then
    match team with
    | some tm =>
      if off + a.size ≤ tm.desc.wgt && !atomic && (a.engine || !a.kind.writes) then .ok (.places [(.wgt tm.tid off, a.size)])
      else .error 0x05
    | none => .error 0x05
  else if sp == 0xA then
    match team.bind fun tm => peerTeam s tm (off / 2 ^ 56) with
    | some tm =>
      if off % 2 ^ 56 + a.size ≤ actBytes tm then .ok (.places [(.act tm.tid (off % 2 ^ 56), a.size)]) else .error 0x05
    | none => .error 0x05
  else if sp == 0xB then
    match team with
    | some tm =>
      if off + a.size ≤ tm.desc.tls then .ok (.pages (tm.tlsBase + w.rank * tm.desc.tls + off) false) else .error 0x05
    | none => .error 0x05
  else if sp == 0xC then
    if !(s.fabric.members.any fun m => m.1 == BitVec.ofNat 9 (off / 2 ^ 51)) || 2 ^ 51 < off % 2 ^ 51 + a.size then .error 0x05
    else .ok (.places [(.remote (BitVec.ofNat 9 (off / 2 ^ 51)) (BitVec.ofNat 51 off), a.size)])
  else if sp == 0xD then
    if a.whole || a.size == 1 || atomic || a.kind = .fetch then .error 0x05 else .ok (.pages (va % 2 ^ 57) true)
  else if sp == 0xF then
    if atomic || a.kind = .fetch then .error 0x05 else .ok (.places [(.sys (BitVec.ofNat 64 va), a.size)])
  else .error 0x05

/-- R98 to R100, R105, R138, R143, R163: the checks of one access in their order; where they pass, the places of its
bytes. -/
def checkAccess (s : State) (w : Who) (a : Access) : State × Except (BitVec 7) (List (Loc × Nat)) :=
  match capCheck a with
  | some c => (s, .error c)
  | none =>
    let va := a.addr.toNat
    if (a.natural && va % a.size != 0) || va % a.align != 0 then (s, .error 0x08)
    else if watched s a then (s, .error 0x31)
    else
      match spaceCheck s w a with
      | .error c => (s, .error c)
      | .ok (.places locs) => (s, .ok locs)
      | .ok (.pages va aliased) => pagesCheck s w a aliased (a.size / 65536 + 2) va a.size

/-- R273: a core's L1 and its cluster's L2 TLB. -/
def coreIssuers (s : State) (core : Nat) : List TlbIssuer :=
  let p := clusterOf s core
  [.core core, .cluster p.die p.cluster]

/-- Who an access of a thread of the issuing strand is made by. -/
def Ctx.who (c : Ctx) (s : State) (rank : Nat) : Who :=
  { issuers := coreIssuers s c.st.core, die := dieOf c.st.core, core := some c.st.core, asid := c.tm.asid
    world := c.tm.world, tid := some c.tm.tid, rank := rank, solo := c.p.solo }

/-- R158, R178: the failure of a check of a lane's access through register `reg` (bit 4 set for a k register). An address below 0
or beyond 2^64 is held modulo 2^64 (DESIGN CHOICE 91). -/
def accessFailure (cause : BitVec 7) (addr : Int) (asid : BitVec 16) (reg : Nat) : Failure :=
  { cause := cause, addr := BitVec.ofInt 64 addr
    detail := if 3 ≤ cause.toNat && cause.toNat ≤ 7 then BitVec.ofNat 32 reg else 0, asid := asid }

/-! ### The team's buffers, the undo log, staging and exposure (R187, R200 to R202, R279) -/

/-- Bytes of a team's buffer. -/
def bufBytes (tm : Team) (weight : Bool) (off n : Nat) : List Byte := sbytes (if weight then tm.wgt else tm.act) off n

/-- The words of a buffer that `n` bytes from `off` on touch. -/
def wordsOf (off n : Nat) : List Nat := (List.range ((off + n - 1) / 4 + 1 - off / 4)).map (· + off / 4)

/-- The lowest provenance of the buffer words read (R279). -/
def bufPoison (tm : Team) (weight : Bool) (off n : Nat) : Option (BitVec 12) :=
  (wordsOf off n).foldl (fun a i => minPoison a (sget none (if weight then tm.wgtPoison else tm.actPoison) i)) none

/-- R201: the old contents of a 64-byte line of a buffer. -/
def undoLine (tm : Team) (weight : Bool) (line : Nat) : UndoLine :=
  { weight := weight, line := line, bytes := bufBytes tm weight (64 * line) 64
    fe := if weight then [] else (List.range 16).map fun i => sget false tm.fe (16 * line + i)
    poison := (List.range 16).map fun i => sget none (if weight then tm.wgtPoison else tm.actPoison) (16 * line + i) }

/-- R201: the lines of a buffer range not yet logged in this interval. -/
def unlogged (tm : Team) (weight : Bool) (off n : Nat) : List Nat :=
  (linesOf off n).filter fun l => !(tm.undo.any fun u => u.weight == weight && u.line == l)

/-- The tags that a staged line's writes leave, applied after its bytes (R91). -/
def putTags (m : MemState) : List (Nat × Bool) → MemState
  | [] => m
  | (g, b) :: rest => putTags (setTag m g b) rest

/-- Bytes and coherence numbers that a thread has seen (R307). -/
def Thread.sees (t : Thread) (seqs : List (Nat × Nat)) : Thread :=
  { t with seen := seqs.foldl (fun m x => if sget 0 m x.1 < x.2 then sput 0 m x.1 x.2 else m) t.seen }

/-- R305: Drain of one staged line of a team: its bytes become one write at the point of coherence. The core's L1 copy of a
line of tier 0 takes them (R306), and the threads that have staged or read them take no older value (R307). -/
def drainLine (s : State) (tid : Nat) (core : Option Nat) (x : StagedLine) : State :=
  let s := drainReds s x.line
  let no := s.mem.wseqNo + 1
  let full := x.bytes.length == 64
  let enc := (tierAt (64 * x.line)).getD 0 != 0
  let s := if enc && !full then verifyLine s x.line x.slot else s
  let m := s.mem
  let cells := x.bytes.foldl (fun c b => cellPut c b.1 b.2) m.cells
  let wseq := x.bytes.foldl (fun q b => sput 0 q b.1 no) m.wseq
  let l1 := x.bytes.foldl (fun l b => updateL1 l core.toList b.1 no [b.2] false) m.l1
  let m := { m with cells := cells, wseq := wseq, wseqNo := no, l1 := l1
                    poison := if full then sput none m.poison x.line none else m.poison }
  let m := putTags m x.tags
  let m := match x.poison with
    | some p => addPoison m x.line p
    | none => m
  let retag := fun (y : L1Copy) => (List.range 4).map fun i =>
    if (x.tags.any fun t => t.1 == 4 * x.line + i) then tagAt m (64 * x.line + 16 * i) else (y.tags[i]?).getD false
  let m := { m with l1 := mapIf (fun y => some y.core == core && y.line == x.line && !enc) (fun y =>
    { y with tags := retag y, poison := if full then none else y.poison }) m.l1 }
  let m := if enc then countWrite m x.line x.slot (keySlot s x.slot).key else m
  let mine := fun (t : Thread) => (x.known.filter fun k => k.2 == t.rank).map fun k => (k.1, no)
  updThreads { s with mem := m } (fun t => t.tid == tid) fun t => t.sees (mine t)

/-- R281: the signature's mixing function. -/
def auditMix (z : DWord) : DWord :=
  let z := (z ^^^ (z >>> 30)) * 0xBF58476D1CE4E5B9
  let z := (z ^^^ (z >>> 27)) * 0x94D049BB133111EB
  z ^^^ (z >>> 31)

/-- R281: bytes that leave the core add to the team's signature. -/
def signBytes (sig : DWord) (va : Nat) : List Byte → DWord
  | [] => sig
  | b :: bs => signBytes (sig + auditMix ((BitVec.ofNat 64 (va % 2 ^ 56) <<< 8) ||| b.setWidth 64)) (va + 1) bs

/-- R281: the bytes of a staged line as it drains. -/
def signLine (sig : DWord) (x : StagedLine) : DWord := x.bytes.foldl (fun g b => signBytes g (x.va + b.1 % 64) [b.2]) sig

/-- R201: every staged line of the team drains, oldest first. -/
def drainTeam (s : State) (tid : Nat) : State :=
  match teamOf s tid with
  | none => s
  | some tm =>
    updTeam (tm.staged.foldl (fun s x => drainLine s tid tm.place x) s) tid fun t =>
      { t with staged := [], signature := tm.staged.foldl signLine t.signature }

/-- R202: the team's interval is exposed: its staged lines drain and logging stops. -/
def exposeTeam (s : State) (tid : Nat) : State :=
  match teamOf s tid with
  | none => s
  | some tm => if tm.exposed then s else updTeam (drainTeam s tid) tid fun t => { t with exposed := true, undo := [] }

/-- R201, R202: before a write into a team's buffer the lines it touches are logged; a full log exposes the interval. -/
def logUndo (s : State) (tid : Nat) (weight : Bool) (off n : Nat) : State :=
  match teamOf s tid with
  | none => s
  | some tm =>
    if tm.exposed then s
    else
      let lines := unlogged tm weight off n
      if tm.undo.length + lines.length ≤ Config.undoLines then
        updTeam s tid fun t => { t with undo := t.undo ++ lines.map (undoLine tm weight) }
      else exposeTeam s tid

/-- The poison of buffer words after bytes are written: a write of the whole word clears it (R279). -/
def clearWords (p : Sparse (Option (BitVec 12))) (off n : Nat) : Sparse (Option (BitVec 12)) :=
  (wordsOf off n).foldl (fun p i => if off ≤ 4 * i && 4 * i + 4 ≤ off + n then sput none p i none else p) p

/-- Bytes written into a team's buffer at its port. -/
def writeBuf (s : State) (tid : Nat) (weight : Bool) (off : Nat) (bs : List Byte) : State :=
  updTeam (logUndo s tid weight off bs.length) tid fun t =>
    if weight then { t with wgt := sputs t.wgt off bs, wgtPoison := clearWords t.wgtPoison off bs.length }
    else { t with act := sputs t.act off bs, actPoison := clearWords t.actPoison off bs.length }

/-- The team's staged line at a physical line. -/
def stagedLine (tm : Team) (line : Nat) : Option StagedLine := tm.staged.find? fun x => x.line == line

/-- Staging lines of a core that are taken (R201). -/
def stagingUsed (s : State) (core : Option Nat) : Nat :=
  ((s.teams.filter fun t => t.place == core).map fun t => t.staged.length).foldl (· + ·) 0

/-- R201, R305: Stage: the bytes of a plain store, numbered `ev`, of the threads of `ranks` into its team's staged lines. -/
def stageBytes (s : State) (tid slot pa va : Nat) (bs : List Byte) (tag : Option Bool) (ev : Nat) (ranks : List Nat) : State :=
  updTeam s tid fun tm =>
    (splitLines (bs.length / 64 + 2) pa bs).foldl (fun (tm : Team) x =>
      let line := lineOf x.1
      let tags := (granulesOf x.1 x.2.length).map fun g => (g, tag.getD false)
      let known := (List.range x.2.length).flatMap fun i => ranks.map fun r => (x.1 + i, r)
      match stagedLine tm line with
      | some _ =>
        { tm with staged := mapIf (fun y => y.line == line) (fun y =>
            { y with bytes := replaceBytes y.bytes x.1 x.2, tags := y.tags ++ tags, slot := slot, since := min y.since ev
                     known := y.known ++ known }) tm.staged }
      | none => { tm with staged := tm.staged ++ [⟨line, va + x.1 - pa - x.1 % 64, replaceBytes [] x.1 x.2, tags, slot, ev, known, none⟩] }) tm
where
  /-- Bytes of a staged line; a byte that is held stays listed whatever its value. -/
  replaceBytes (l : Sparse Byte) (a : Nat) : List Byte → Sparse Byte
    | [] => l
    | b :: bs => replaceBytes ((l.filter fun x => decide (x.1 < a)) ++ [(a, b)] ++ l.filter fun x => decide (a < x.1)) (a + 1) bs

/-- R201: the staged value of a byte of the team, if it holds one. -/
def stagedByte (tm : Team) (pa : Nat) : Option Byte :=
  (stagedLine tm (lineOf pa)).bind fun x => (x.bytes.find? fun b => b.1 == pa).map (·.2)

/-- R307: threads of a team have read staged bytes. -/
def knowStaged (s : State) (tid pa n : Nat) (ranks : List Nat) : State :=
  updTeam s tid fun tm =>
    { tm with staged := tm.staged.map fun y =>
        { y with known := y.known ++ ((List.range n).filter fun i => y.bytes.any fun b => b.1 == pa + i).flatMap fun i =>
            ranks.map fun r => (pa + i, r) } }

/-- R278, R279: the poison of the staged bytes among some. -/
def stagedMark (tm : Team) (pa n : Nat) : Option (BitVec 12) :=
  (linesOf pa n).foldl (fun p l => match stagedLine tm l with
    | some x => if x.bytes.any fun b => decide (pa ≤ b.1) && decide (b.1 < pa + n) then minPoison p x.poison else p
    | none => p) none

/-- R91: the staged tag of a granule, if the team's staged stores wrote it. -/
def stagedTag (tm : Team) (granule : Nat) : Option Bool :=
  (stagedLine tm (granule / 4)).bind fun x => ((x.tags.reverse).find? fun t => t.1 == granule).map (·.2)

end Sys2Proof.Machine
end

