-- ==== Sys2Proof/Machine/Operands.lean ====
section
/-! DEFINITION. The operand forms of the instruction words: immediates, and the lane and uniform shapes that the families
share (R36, R37, R106, R234). -/

namespace Sys2Proof.Machine

/-! ### Immediates (R37, R106) -/

/-- `sx(x, n)` of an n-bit field in 32 bits. -/
def sx32 {n : Nat} (x : BitVec n) : Word := x.signExtend 32

/-- A field zero-extended to 32 bits. -/
def zx32 {n : Nat} (x : BitVec n) : Word := x.setWidth 32

/-- An n-bit field sign-extended to 64 bits. -/
def sx64 {n : Nat} (x : BitVec n) : DWord := x.signExtend 64

/-- A field zero-extended to 64 bits. -/
def zx64 {n : Nat} (x : BitVec n) : DWord := x.setWidth 64

/-- R133: the target of a branch at `pc` with an offset in words. -/
def branchTarget {n : Nat} (pc : DWord) (off : BitVec n) : DWord := pc + 4 * sx64 off

/-! ### Lane shapes: every register checked against the team's `regs` (R38) -/

/-- v[d] := f v[a] v[b]. -/
def laneBin (g : Guard) (d a b : BitVec 6) (f : Word → Word → Word) (s : State) : Out :=
  laneShort s g (fun c => c.vOk [d.toNat, a.toNat, b.toNat]) fun _ _ t =>
    .ok [.v d.toNat (f (t.getV a.toNat) (t.getV b.toNat))]

/-- v[d] := f v[d] v[a] v[b]; the old v[d] is a source. -/
def laneAcc (g : Guard) (d a b : BitVec 6) (f : Word → Word → Word → Word) (s : State) : Out :=
  laneShort s g (fun c => c.vOk [d.toNat, a.toNat, b.toNat]) fun _ _ t =>
    .ok [.v d.toNat (f (t.getV d.toNat) (t.getV a.toNat) (t.getV b.toNat))]

/-- v[d] := f v[a]. -/
def laneUn (g : Guard) (d a : BitVec 6) (f : Word → Word) (s : State) : Out :=
  laneShort s g (fun c => c.vOk [d.toNat, a.toNat]) fun _ _ t => .ok [.v d.toNat (f (t.getV a.toNat))]

/-- p[d] := f v[a] v[b]. -/
def laneCmp (g : Guard) (p : BitVec 3) (a b : BitVec 6) (f : Word → Word → Bool) (s : State) : Out :=
  laneShort s g (fun c => c.vOk [a.toNat, b.toNat]) fun _ _ t =>
    .ok [.p p.toNat (f (t.getV a.toNat) (t.getV b.toNat))]

/-- R115: p[d] := f p[a] p[b], each operand negated by its bit. -/
def lanePred (g : Guard) (d a b : BitVec 3) (x y : BitVec 1) (f : Bool → Bool → Bool) (s : State) : Out :=
  laneShort s g (fun _ => true) fun _ _ t =>
    .ok [.p d.toNat (f (t.getP a.toNat ^^ x == 1) (t.getP b.toNat ^^ y == 1))]

/-! ### Floating results (R74, R119, R121) -/

/-- The failure of a trap-enabled flag (R74, R178). -/
def fpFailure (f : Flags) : Failure := { cause := 0x20, addr := 0, detail := f.setWidth 32, asid := 0 }

/-- R74: writes and flags, or a filing when a raised flag is trap-enabled in the thread. -/
def fpResult (t : Thread) (ws : List Write) (f : Flags) : LaneRes :=
  if fpTraps t.fpcsr f then .bad (fpFailure f) else .ok (ws ++ [.flags f])

/-- R119: the elements of a packed operation: one 32-bit element, or both halves. -/
def onElems (f : Fmt) (op : List Nat → Nat × Flags) (xs : List Word) : Word × Flags :=
  if f.sb == 31 then
    let (r, fl) := op (xs.map (·.toNat))
    (BitVec.ofNat 32 r, fl)
  else
    let (r0, f0) := op (xs.map fun w => w.toNat % 65536)
    let (r1, f1) := op (xs.map fun w => w.toNat / 65536)
    (BitVec.ofNat 32 (r1 * 65536 + r0), f0 ||| f1)

/-- R72: an element operation with its operands and result flushed under ftz. -/
def flushed (f : Fmt) (ftz : Bool) (op : List Nat → Nat × Flags) (xs : List Nat) : Nat × Flags :=
  f.flushOut ftz (op (xs.map (f.flushIn ftz)))

/-- R119: v[d] := the elementwise operation on v[a], v[b] and v[d], rounded by sr.fpcsr.rm. -/
def laneFp (g : Guard) (f : Fmt) (d a b : BitVec 6) (op : RMode → List Nat → Nat × Flags) (s : State) : Out :=
  laneShort s g (fun c => c.vOk [d.toNat, a.toNat, b.toNat]) fun _ _ t =>
    let (r, fl) := onElems f (flushed f (fpFtz t.fpcsr) (op (fpRm t.fpcsr)))
      [t.getV a.toNat, t.getV b.toNat, t.getV d.toNat]
    fpResult t [.v d.toNat r] fl

/-- An f32 operation on v[a] that may raise flags, its result exact in ftz terms. -/
def laneFpUn (g : Guard) (d a : BitVec 6) (op : Thread → Nat → Nat × Flags) (s : State) : Out :=
  laneShort s g (fun c => c.vOk [d.toNat, a.toNat]) fun _ _ t =>
    let (r, fl) := op t (t.getV a.toNat).toNat
    fpResult t [.v d.toNat (BitVec.ofNat 32 r)] fl

/-! ### Uniform shapes (R235, R236) -/

/-- s[d] := f s[a] s[b]. -/
def uniBin (d a b : BitVec 6) (f : DWord → DWord → DWord) (s : State) : Out :=
  uniShort s fun c s => onStrand s c fun st => st.setS d.toNat (f (st.getS a.toNat) (st.getS b.toNat))

/-- s[d] := f s[a]. -/
def uniUn (d a : BitVec 6) (f : DWord → DWord) (s : State) : Out :=
  uniShort s fun c s => onStrand s c fun st => st.setS d.toNat (f (st.getS a.toNat))

end Sys2Proof.Machine
end

