-- ==== Sys2Proof/Machine/SpecialRegs.lean ====
section
/-! DEFINITION. Special registers (R75, R77, R117, R118, R238). -/

namespace Sys2Proof.Machine

/-- The present thread of the lowest rank (R75, R238). -/
def lowestRank : List Thread → Option Thread
  | [] => none
  | t :: ts => match lowestRank ts with
    | some u => if u.rank < t.rank then some u else some t
    | none => some t

/-- R64: a thread's remap word. -/
def remapWord (st : Strand) (t : Thread) : Word :=
  let fresh : Nat := match st.kind with
    | .fresh _ => 1
    | _ => 0
  BitVec.ofNat 32 (fresh * 512 + st.num % 16 * 32 + t.slot)

/-- R262: sr.cluster of a team on a core. -/
def clusterWordOf (s : State) (c : Ctx) : Word :=
  let named : Nat := match c.tm.name with
    | some n => 4096 + 256 * n
    | none => 0
  BitVec.ofNat 32 (named + (clusterOf s c.st.core).cluster)

/-- R117: the value of a special register of a team, a launch or the package for the issuing path; for a thread's own
register, in thread `t`. A handler strand belongs to no launch and no field: what it reads of theirs is left open, a
free value (DESIGN CHOICE 13). -/
def srRead (s : State) (c : Ctx) (t : Thread) (r : Nat) : DWord :=
  let free : DWord := BitVec.ofNat 64 (Config.pick s.run.tick (0x2000 + r))
  let l := launchOf s c.tm.launch
  let ofField := fun (f : Launch → Nat) => match l with
    | some l => BitVec.ofNat 64 (f l)
    | none => free
  let ofTeam := fun (n : Nat) (w : DWord) => if c.handler then (free.setWidth n).setWidth 64 else w
  match r with
  | 0x000 => BitVec.ofNat 64 t.slot
  | 0x001 => BitVec.ofNat 64 t.rank
  | 0x002 => BitVec.ofNat 64 c.st.num
  | 0x003 => (remapWord c.st t).setWidth 64
  | 0x004 => t.fpcsr.setWidth 64
  | 0x008 => c.st.absence.setWidth 64
  | 0x009 => c.st.srseed.setWidth 64
  | 0x00A => c.p.rep.setWidth 64
  | 0x00B => c.st.implicit.setWidth 64
  | 0x00C => (sget 0 c.st.qtile 0).setWidth 64
  | 0x00D => (sget 0 c.st.qtile 1).setWidth 64
  | 0x00E => (sget 0 c.st.qtile 2).setWidth 64
  | 0x00F => (sget 0 c.st.qtile 3).setWidth 64
  | 0x010 => ofTeam 32 (c.tm.key.x.setWidth 64)
  | 0x011 => ofTeam 32 (c.tm.key.y.setWidth 64)
  | 0x012 => ofTeam 32 (c.tm.key.z.setWidth 64)
  | 0x014 => ofField (·.fx)
  | 0x015 => ofField (·.fy)
  | 0x016 => ofField (·.fz)
  | 0x018 => ofTeam 4 (c.tm.key.stage.setWidth 64)
  | 0x019 => ofTeam 2 (c.tm.key.kind.setWidth 64)
  | 0x020 => BitVec.ofNat 64 c.st.core
  | 0x021 => (clusterWordOf s c).setWidth 64
  | 0x022 => BitVec.ofNat 64 (dieOf c.st.core)
  | 0x023 => c.tm.placegen.setWidth 64
  | 0x024 => c.tm.rollbacks.setWidth 64
  | 0x025 => c.st.mstat.setWidth 64
  | 0x026 => s.run.clock
  | 0x027 => c.st.seam
  | n =>
    if 0x040 ≤ n && n ≤ 0x04F then
      match l with
      | some l => ((sget 0 l.pmap ((n - 0x040) / 2)).extractLsb' (64 * ((n - 0x040) % 2)) 64)
      | none => free
    else 0

/-- R280: a team that reads the clock or where it stands is not sampled by the auditor. -/
def srUnsampled (r : Nat) : Bool := [0x020, 0x021, 0x022, 0x023, 0x024, 0x026].contains r

/-- R280: the mark that such a read leaves on the team. -/
def markRead (s : State) (c : Ctx) (r : Nat) : State :=
  if srUnsampled r then updTeam s c.tm.tid fun tm => { tm with unsampled := true } else s

/-- R118: rdsr; bit 11 of the number names the high half. -/
def execRdsr (g : Guard) (d : BitVec 6) (r : BitVec 12) (s : State) : Out :=
  inCtx s fun c =>
    if c.vOk [d.toNat] then
      let n := r.toNat % 0x800
      let value := fun (t : Thread) =>
        let w := srRead s c t n
        if r.toNat < 0x800 then w.setWidth 32 else (w >>> 32).setWidth 32
      runLanes (markRead s c n) c g (fun _ t => .ok [.v d.toNat (value t)]) writeLanes
    else fileAll s c 0x01

/-- R75, R171, R238: the value that mfsr gives; in solo mode the frozen lanes of the path are present too. -/
def mfsrValue (s : State) (c : Ctx) (r : Nat) : DWord :=
  let present := presentOf s c.st.sid c.p
  match lowestRank present with
  | none => 0
  | some t =>
    if r == 0x004 then
      (fpRead (t.fpcsr :: (present.filter fun u => u.rank != t.rank).map (·.fpcsr))).setWidth 64
    else srRead s c t r

/-- R238: mfsr. -/
def execMfsr (d : BitVec 6) (r : BitVec 12) (s : State) : Out :=
  uniShort s fun c s =>
    let w := mfsrValue s c r.toNat
    onStrand (markRead s c r.toNat) c fun st => st.setS d.toNat w

/-- The executing threads of the path with `f` applied. -/
def onPresent (s : State) (c : Ctx) (f : Thread → Thread) : State :=
  let ranks := c.ranks s
  updThreads s (fun t => t.tid == c.tm.tid && ranks.contains t.rank) f

/-- R238: what mtsr writes. -/
def mtsrWrite (s : State) (c : Ctx) (r : Nat) (w : DWord) : State :=
  let x : Word := w.setWidth 32
  match r with
  | 0x004 => onPresent s c fun t => { t with fpcsr := fpWrite x }
  | 0x008 => onStrand s c fun st => { st with absence := w.setWidth 16 }
  | 0x009 => onPresent (onStrand s c fun st => { st with srseed := x }) c fun t => { t with gen := reseed t.rank x }
  | 0x025 => onStrand s c fun st => { st with mstat := x &&& 0xF }
  | n =>
    if 0x00C ≤ n && n ≤ 0x00F then onStrand s c fun st => { st with qtile := sput 0 st.qtile (n - 0x00C) (x &&& 0xFFF) }
    else s

/-- R238: mtsr. -/
def execMtsr (d : BitVec 6) (r : BitVec 12) (s : State) : Out :=
  uniShort s fun c s => mtsrWrite s c r.toNat (c.st.getS d.toNat)

end Sys2Proof.Machine
end

