-- ==== Sys2Proof/Machine/CapInstr.lean ====
section
/-! DEFINITION. Capability instructions of the lane set (R152 to R155) and `ucap` (R156). -/

namespace Sys2Proof.Machine

/-- R94, R152: a lane derivation: c[d] and p7, which is 1 exactly when the result is untagged. -/
def laneDerive (g : Guard) (d a : BitVec 4) (legal : Ctx → Bool) (f : Thread → Cap → Cap) (s : State) : Out :=
  laneShort s g (fun c => c.cOk [d.toNat, a.toNat] && legal c) fun _ _ t =>
    let r := f t (t.getC a.toNat)
    .ok [.c d.toNat r, .p 7 (!r.tag)]

/-- R152 op 0. -/
def execCadv (g : Guard) (d a : BitVec 4) (b : BitVec 6) (s : State) : Out :=
  laneDerive g d a (fun c => c.vOk [b.toNat]) (fun t x =>
    x.moveTo (BitVec.ofNat 64 x.addr + sx64 (t.getV b.toNat)).toNat) s
/-- R152 op 1. -/
def execCplace (g : Guard) (d a : BitVec 4) (b : BitVec 6) (s : State) : Out :=
  laneDerive g d a (fun c => c.vOk [b.toNat, b.toNat + 1]) (fun t x =>
    x.moveTo ((t.getV (b.toNat + 1)).toNat * 2 ^ 32 + (t.getV b.toNat).toNat)) s
/-- R152 op 2. -/
def execCclip (g : Guard) (d a : BitVec 4) (b : BitVec 6) (s : State) : Out :=
  laneDerive g d a (fun c => c.vOk [b.toNat]) (fun t x => x.setBounds x.addr (x.addr + (t.getV b.toNat).toNat) false) s
/-- R152 op 3. -/
def execCclipExact (g : Guard) (d a : BitVec 4) (b : BitVec 6) (s : State) : Out :=
  laneDerive g d a (fun c => c.vOk [b.toNat]) (fun t x => x.setBounds x.addr (x.addr + (t.getV b.toNat).toNat) true) s
/-- R152 op 4. -/
def execCstrip (g : Guard) (d a : BitVec 4) (b : BitVec 6) (s : State) : Out :=
  laneDerive g d a (fun c => c.vOk [b.toNat]) (fun t x => x.strip ((t.getV b.toNat).setWidth 8)) s
/-- R152 op 5, R153. -/
def execCwrap (g : Guard) (d a b : BitVec 4) (s : State) : Out :=
  laneDerive g d a (fun c => c.cOk [b.toNat]) (fun t x => x.wrap (t.getC b.toNat)) s
/-- R152 op 6. -/
def execCwrapEntry (g : Guard) (d a : BitVec 4) (s : State) : Out :=
  laneDerive g d a (fun _ => true) (fun _ x => x.wrapAs 1) s
/-- R152 op 7. -/
def execCwrapComp (g : Guard) (d a : BitVec 4) (s : State) : Out :=
  laneDerive g d a (fun _ => true) (fun _ x => x.wrapAs 3) s
/-- R152 op 8, R153. -/
def execCunwrap (g : Guard) (d a b : BitVec 4) (s : State) : Out :=
  laneDerive g d a (fun c => c.cOk [b.toNat]) (fun t x => x.unwrap (t.getC b.toNat)) s
/-- R155. -/
def execCadvImm (g : Guard) (d a : BitVec 4) (i : BitVec 12) (s : State) : Out :=
  laneDerive g d a (fun _ => true) (fun _ x => x.moveTo (BitVec.ofNat 64 x.addr + sx64 i).toNat) s

/-- R152 op 9. -/
def execCcopy (g : Guard) (d a : BitVec 4) (s : State) : Out :=
  laneShort s g (fun c => c.cOk [d.toNat, a.toNat]) fun _ _ t => .ok [.c d.toNat (t.getC a.toNat)]
/-- R152 op 10. -/
def execCdetag (g : Guard) (d a : BitVec 4) (s : State) : Out :=
  laneShort s g (fun c => c.cOk [d.toNat, a.toNat]) fun _ _ t => .ok [.c d.toNat ((t.getC a.toNat).tagged false)]
/-- R152 op 11. -/
def execCbcast (g : Guard) (d b : BitVec 4) (s : State) : Out :=
  laneShort s g (fun c => c.cOk [d.toNat]) fun c _ _ => .ok [.c d.toNat (c.st.getK b.toNat)]

/-- R154: a read of a capability into a register pair. -/
def laneCread (g : Guard) (a : BitVec 4) (b : BitVec 6) (op : Nat) (s : State) : Out :=
  laneShort s g (fun c => c.cOk [a.toNat] && c.vOk [b.toNat, b.toNat + 1]) fun _ _ t =>
    let w := (t.getC a.toNat).read op
    .ok [.v b.toNat (w.setWidth 32), .v (b.toNat + 1) ((w >>> 32).setWidth 32)]

/-- R154 op 16. -/
def execCreadAddr (g : Guard) (a : BitVec 4) (b : BitVec 6) (s : State) : Out := laneCread g a b 16 s
/-- R154 op 17. -/
def execCreadBase (g : Guard) (a : BitVec 4) (b : BitVec 6) (s : State) : Out := laneCread g a b 17 s
/-- R154 op 18. -/
def execCreadLen (g : Guard) (a : BitVec 4) (b : BitVec 6) (s : State) : Out := laneCread g a b 18 s
/-- R154 op 19. -/
def execCreadInfo (g : Guard) (a : BitVec 4) (b : BitVec 6) (s : State) : Out :=
  laneShort s g (fun c => c.cOk [a.toNat] && c.vOk [b.toNat]) fun _ _ t => .ok [.v b.toNat (t.getC a.toNat).info]

/-- R156: the result of a `ucap` derivation by its fn, from k[a], s[b] and k[b]. -/
def ucapResult (f : Nat) (x : Cap) (sb : DWord) (kb : Cap) : Cap :=
  match f with
  | 0 => x.moveTo (BitVec.ofNat 64 x.addr + sb).toNat
  | 1 => x.moveTo sb.toNat
  | 2 => x.setBounds x.addr (x.addr + sb.toNat) false
  | 3 => x.setBounds x.addr (x.addr + sb.toNat) true
  | 4 => x.strip (sb.setWidth 8)
  | 5 => x.wrap kb
  | 6 => x.wrapAs 1
  | 7 => x.wrapAs 3
  | 8 => x.unwrap kb
  | 9 => x
  | _ => x.tagged false

/-- R156: ucap. Derivations 0 to 8 write p7 in every present thread (R94). -/
def execUcap (d a b f : BitVec 6) (s : State) : Out :=
  uniShort s fun c s =>
    let x := c.st.getK (a.toNat % 16)
    if 16 ≤ f.toNat then onStrand s c fun st => st.setS d.toNat (x.read f.toNat)
    else
      let r := ucapResult f.toNat x (c.st.getS b.toNat) (c.st.getK (b.toNat % 16))
      let s := onStrand s c fun st => st.setK (d.toNat % 16) r
      if f.toNat ≤ 8 then onPresent s c fun t => t.setP 7 (!r.tag) else s

end Sys2Proof.Machine
end

