-- ==== Sys2Proof/Machine/CrossLane.lean ====
section
/-! DEFINITION. Cross-lane instructions (R145 to R151). -/

namespace Sys2Proof.Machine

/-! ### Exchanges (R145, R146) -/

/-- R146: the value of a lane's partner: the register of the thread in slot `j` when it is present in the current path,
and the lane's own otherwise. -/
def pickValue (s : State) (c : Ctx) (a : Nat) (t : Thread) (j : Option Nat) : Word :=
  match j with
  | none => t.getV a
  | some j => match (presentOf s c.st.sid c.p).find? fun u => u.slot == j with
    | some u => u.getV a
    | none => t.getV a

/-- R146: a lane exchange; `partner` gives the partner's slot from the lane and its v[b]. -/
def lanePick (g : Guard) (d a b : BitVec 6) (partner : State → Ctx → Thread → Nat → Option Nat) (s : State) : Out :=
  laneLong s g (fun c => c.vOk [d.toNat, a.toNat, b.toNat]) fun c s t =>
    .ok [.v d.toNat (pickValue s c a.toNat t (partner s c t (t.getV b.toNat).toNat))]

/-- R146 fn 0. -/
def execPickSlot (g : Guard) (d a b : BitVec 6) (s : State) : Out := lanePick g d a b (fun _ _ _ x => some (x % 32)) s
/-- R146 fn 1: the slot of the thread of a rank, if it stands in the current strand. -/
def execPickRank (g : Guard) (d a b : BitVec 6) (s : State) : Out :=
  lanePick g d a b (fun s c _ x =>
    match threadOf s c.tm.tid (x % 512) with
    | some u => if u.sid == c.st.sid then some u.slot else none
    | none => none) s
/-- R146 fn 2. -/
def execPickBack (g : Guard) (d a b : BitVec 6) (s : State) : Out :=
  lanePick g d a b (fun _ _ t x => if x % 32 ≤ t.slot then some (t.slot - x % 32) else none) s
/-- R146 fn 3. -/
def execPickFlip (g : Guard) (d a b : BitVec 6) (s : State) : Out :=
  lanePick g d a b (fun _ _ t x => some (Nat.xor t.slot (x % 32))) s

/-! ### Polls (R147) -/

/-- R147: the slots of the active threads whose predicate is 1. -/
def pollSlots (s : State) (c : Ctx) (g : Guard) (a : BitVec 3) : List Nat :=
  ((c.active s g).filter fun t => t.getP a.toNat).map (·.slot)

/-- R147 fn 0. -/
def execPollAny (g : Guard) (d a : BitVec 3) (s : State) : Out :=
  laneShort s g (fun _ => true) fun c s _ => .ok [.p d.toNat (!(pollSlots s c g a).isEmpty)]
/-- R147 fn 1. -/
def execPollAll (g : Guard) (d a : BitVec 3) (s : State) : Out :=
  laneShort s g (fun _ => true) fun c s _ => .ok [.p d.toNat ((c.active s g).all fun t => t.getP a.toNat)]
/-- R147 fn 2. -/
def execPollMask (g : Guard) (d : BitVec 6) (a : BitVec 3) (s : State) : Out :=
  laneShort s g (fun c => c.vOk [d.toNat]) fun c s _ => .ok [.v d.toNat (maskOf (pollSlots s c g a))]
/-- R147 fn 3. -/
def execPollCount (g : Guard) (d : BitVec 6) (a : BitVec 3) (s : State) : Out :=
  laneShort s g (fun c => c.vOk [d.toNat]) fun c s _ => .ok [.v d.toNat (BitVec.ofNat 32 (pollSlots s c g a).length)]

/-! ### Reductions and the scan (R148 to R151) -/

/-- A cross-lane operation on words: result and flags. -/
abbrev LaneOp := Word → Word → Word × Flags

/-- R148: the fixed tree over a list of 2^n operands, left operand first. -/
def treeFold (op : LaneOp) : Nat → List Word → Word × Flags
  | 0, xs => (xs.headD 0, 0)
  | n + 1, xs =>
    let (x, f) := treeFold op n (xs.take (2 ^ n))
    let (y, h) := treeFold op n (xs.drop (2 ^ n))
    let (z, k) := op x y
    (z, f ||| h ||| k)

/-- R148: the operand of each of the 32 slots: v[a] of an active thread, the identity otherwise. -/
def slotOperands (s : State) (c : Ctx) (g : Guard) (a : Nat) (unit : Word) : List Word :=
  let act := c.active s g
  (List.range 32).map fun i => match act.find? fun t => t.slot == i with
    | some t => t.getV a
    | none => unit

/-- R148: types s32 (0), n32 (1), f32 (2). -/
def addOp (ty : Nat) : LaneOp := fun x y =>
  if ty == 2 then
    let (r, f) := f32.add .rn x.toNat y.toNat
    (BitVec.ofNat 32 r, f)
  else (x + y, 0)

/-- R148: min or max. -/
def minmaxOp (greater : Bool) (ty : Nat) : LaneOp := fun x y =>
  if ty == 2 then
    let (r, f) := f32.minmax greater x.toNat y.toNat
    (BitVec.ofNat 32 r, f)
  else
    let le := if ty == 0 then decide (x.toInt ≤ y.toInt) else decide (x.toNat ≤ y.toNat)
    (if le == greater then y else x, 0)

/-- R148: the identity of xred.add. -/
def addUnit (ty : Nat) : Word := if ty == 2 then 0x80000000 else 0

/-- R148: the identity of xred.min and xred.max. -/
def minmaxUnit (greater : Bool) (ty : Nat) : Word :=
  if ty == 2 then 0x7FC00000
  else if ty == 0 then (if greater then 0x80000000 else 0x7FFFFFFF)
  else (if greater then 0 else 0xFFFFFFFF)

/-- R148, R151: a reduction; every active lane receives the result, or is filed for a trap-enabled flag. -/
def laneRed (g : Guard) (d a : BitVec 6) (op : LaneOp) (unit : Word) (s : State) : Out :=
  laneLong s g (fun c => c.vOk [d.toNat, a.toNat]) fun c s t =>
    let (r, f) := treeFold op 5 (slotOperands s c g a.toNat unit)
    fpResult t [.v d.toNat r] f

/-- R148 op 0. -/
def execXredAdd (g : Guard) (d a : BitVec 6) (t : BitVec 3) (s : State) : Out :=
  laneRed g d a (addOp t.toNat) (addUnit t.toNat) s
/-- R148 op 1. -/
def execXredMin (g : Guard) (d a : BitVec 6) (t : BitVec 3) (s : State) : Out :=
  laneRed g d a (minmaxOp false t.toNat) (minmaxUnit false t.toNat) s
/-- R148 op 2. -/
def execXredMax (g : Guard) (d a : BitVec 6) (t : BitVec 3) (s : State) : Out :=
  laneRed g d a (minmaxOp true t.toNat) (minmaxUnit true t.toNat) s
/-- R148 op 3. -/
def execXredAnd (g : Guard) (d a : BitVec 6) (s : State) : Out := laneRed g d a (fun x y => (x &&& y, 0)) 0xFFFFFFFF s
/-- R148 op 4. -/
def execXredOr (g : Guard) (d a : BitVec 6) (s : State) : Out := laneRed g d a (fun x y => (x ||| y, 0)) 0 s
/-- R148 op 5. -/
def execXredXor (g : Guard) (d a : BitVec 6) (s : State) : Out := laneRed g d a (fun x y => (x ^^^ y, 0)) 0 s

/-- R149: the order key of a value; a NaN loses to every number. -/
def idxKey (greater : Bool) (ty : Nat) (w : Word) : Int :=
  if ty == 0 then w.toInt
  else if ty == 1 then w.toNat
  else if f32.isNan w.toNat then (if greater then -(2 ^ 40 : Nat) else (2 ^ 40 : Nat))
  else f32.ordKey w.toNat

/-- R149: the winning pair of two. -/
def idxOp (greater : Bool) (ty : Nat) (x y : Word × Word) : Word × Word :=
  let kx := idxKey greater ty x.1
  let ky := idxKey greater ty y.1
  if kx = ky then (if x.2.toNat ≤ y.2.toNat then x else y)
  else if decide (kx < ky) == greater then y else x

/-- R149: the identity pair. -/
def idxUnit (greater : Bool) (ty : Nat) : Word × Word :=
  (if ty == 2 then 0x7FC00000
   else if ty == 0 then (if greater then 0x80000000 else 0x7FFFFFFF)
   else (if greater then 0 else 0xFFFFFFFF), 0xFFFFFFFF)

/-- R148: the tree over pairs. -/
def treePairs (op : Word × Word → Word × Word → Word × Word) : Nat → List (Word × Word) → Word × Word
  | 0, xs => xs.headD (0, 0)
  | n + 1, xs => op (treePairs op n (xs.take (2 ^ n))) (treePairs op n (xs.drop (2 ^ n)))

/-- R149: an idx form. -/
def laneIdx (g : Guard) (d a : BitVec 6) (ty : Nat) (greater : Bool) (s : State) : Out :=
  laneLong s g (fun c => c.vOk [d.toNat, d.toNat + 1, a.toNat, a.toNat + 1]) fun c s _ =>
    let act := c.active s g
    let xs := (List.range 32).map fun i => match act.find? fun t => t.slot == i with
      | some t => (t.getV a.toNat, t.getV (a.toNat + 1))
      | none => idxUnit greater ty
    let r := treePairs (idxOp greater ty) 5 xs
    .ok [.v d.toNat r.1, .v (d.toNat + 1) r.2]

/-- R149 op 6. -/
def execXminIdx (g : Guard) (d a : BitVec 6) (t : BitVec 3) (s : State) : Out := laneIdx g d a t.toNat false s
/-- R149 op 7. -/
def execXmaxIdx (g : Guard) (d a : BitVec 6) (t : BitVec 3) (s : State) : Out := laneIdx g d a t.toNat true s

/-- R150: the prefixes of a list of operands, with the flags of all. -/
def prefixes (op : LaneOp) (acc : Word) : List Word → List Word × Flags
  | [] => ([], 0)
  | x :: xs =>
    let (y, f) := op acc x
    let (ys, h) := prefixes op y xs
    (y :: ys, f ||| h)

/-- R150: xscan.add; S_0 = x[0]. -/
def execXscanAdd (g : Guard) (d a : BitVec 6) (t : BitVec 3) (s : State) : Out :=
  laneLong s g (fun c => c.vOk [d.toNat, a.toNat]) fun c s th =>
    match slotOperands s c g a.toNat (addUnit t.toNat) with
    | [] => .ok []
    | x :: xs =>
      let (ys, f) := prefixes (addOp t.toNat) x xs
      fpResult th [.v d.toNat (((x :: ys)[th.slot]?).getD 0)] f

end Sys2Proof.Machine
end

