-- ==== Sys2Proof/Machine/Save.lean ====
section
/-! DEFINITION. The save area of a stopped team (R205, R352): its parts, their sizes and their bytes. Where R352 names what a part
holds and not its order within, the order is the one in which R352 names it (DESIGN CHOICE 30). -/

namespace Sys2Proof.Machine

/-! ### Parts -/

/-- Bytes cut or filled with zeros to a length. -/
def padTo (n : Nat) (bs : List Byte) : List Byte := (bs ++ List.replicate n 0).take n

/-- R352: a part of `n` bytes, rounded up to 64. -/
def partSize (n : Nat) : Nat := (n + 63) / 64 * 64
def part (n : Nat) (bs : List Byte) : List Byte := padTo (partSize n) (padTo n bs)

/-- Bits as bytes, the first in bit 0 of the first byte. -/
def bitBytes : Nat → List Bool → List Byte
  | 0, _ => []
  | n + 1, bs => BitVec.ofNat 8 ((bs.take 8).zipIdx.foldl (fun x b => if b.1 then x + 2 ^ b.2 else x) 0) :: bitBytes n (bs.drop 8)

/-- A number, or all ones of its bytes for none. -/
def orNone (n : Nat) (x : Option Nat) : List Byte := bytesOfNat n (x.getD (2 ^ (8 * n) - 1))

/-! ### Strand images -/

/-- R352: the registers of a strand's threads, slot by slot: v, p, c, and the tags of c. -/
def threadsBytes (desc : TeamDesc) (at' : Nat → Option Thread) : List Byte :=
  let slots := (List.range 32).map at'
  let caps := slots.flatMap fun t => (List.range desc.caps).map fun n => (t.map (·.getC n)).getD nullCap
  slots.flatMap (fun t => (List.range desc.regs).flatMap fun n => bytesOfWord ((t.map (·.getV n)).getD 0)) ++
    slots.map (fun t => (t.map (·.p)).getD 0) ++ caps.flatMap Cap.toBytes ++ bitBytes (4 * desc.caps) (caps.map (·.tag))

/-- A path record in 18 bytes (R55). -/
def pathBytes (p : Path) : List Byte :=
  bytesOfNat 4 p.mask.toNat ++ bytesOfNat 8 p.pc.toNat ++ orNone 1 p.parent ++ bytesOfWord p.rep ++
    bytesOfNat 1 (match p.state with
      | .ready => 0
      | .atJoin _ => 1
      | .waiting _ _ => 2)

/-- A frame in 18 bytes (R55). -/
def frameBytes (f : Frame) : List Byte :=
  bytesOfNat 4 f.expected.toNat ++ bytesOfNat 4 f.arrived.toNat ++ orNone 8 (f.joinpc.map BitVec.toNat) ++ orNone 1 f.parent ++
    bytesOfNat 1 f.depth

/-- A gate record in 64 bytes (R380). -/
def gateRecBytes (g : GateRec) : List Byte :=
  padTo 64 (bytesOfNat 1 g.fromC.toNat ++ bytesOfNat 1 g.toC.toNat ++ bytesOfNat 8 g.base ++ bytesOfNat 8 g.length ++
    bytesOfNat 8 g.pc.toNat ++ g.code.toBytes)

/-- R352: what a fresh or straggler strand is linked to: its home strand, its number, and the frame of the first thread that
belongs to one. -/
def linkBytes (s : State) (st : Strand) : List Byte :=
  let home := match st.kind with
    | .fresh (h :: _) => some h
    | .straggler h _ => some h
    | _ => none
  orNone 1 ((home.bind (strandOf s)).map (·.num)) ++ bytesOfNat 1 st.num ++
    orNone 1 (firstSome (fun (t : Thread) => t.homeFrame) (s.threads.filter fun t => t.sid == st.sid)) ++ bytesOfNat 5 0

/-- R352: the uniform state of a strand. -/
def uniformBytes (s : State) (st : Strand) (at' : Nat → Option Thread) : List Byte :=
  let slots := (List.range 32).map at'
  let ks := (List.range 16).map st.getK
  let rep := ((st.path? st.cur).map (·.rep)).getD 0
  (List.range 63).flatMap (fun n => bytesOfNat 8 (st.getS n).toNat) ++ ks.flatMap Cap.toBytes ++ bitBytes 2 (ks.map (·.tag)) ++
    padTo 48 (bytesOfWord rep ++ bytesOfWord st.implicit ++ bytesOfWord st.srseed ++ bytesOfNat 4 st.absence.toNat ++
      ((List.range 4).flatMap fun n => bytesOfWord (sget 0 st.qtile n)) ++ bytesOfWord st.mstat ++ bytesOfNat 8 st.seam.toNat) ++
    slots.flatMap (fun t => bytesOfWord ((t.map (·.fpcsr)).getD 0) ++ bytesOfWord ((t.map (·.gen)).getD 0)) ++
    padTo 1024 (padTo 576 (st.paths.flatMap pathBytes) ++ padTo 288 (st.frames.flatMap fun f => frameBytes f.2) ++
      (st.paths.map (·.code)).eraseDups.flatMap Cap.toBytes) ++
    padTo 256 (st.gates.flatMap gateRecBytes) ++ linkBytes s st

/-- R352: the strand images of a team: the home strands by their numbers, then the others that live. -/
def imagesOf (s : State) (tid : Nat) : List Strand :=
  let mine := s.strands.filter fun st => st.tid == tid
  ((List.range 16).flatMap fun n => mine.filter fun st => st.isHome && st.num == n) ++ mine.filter fun st => !st.isHome

/-! ### The team -/

/-- R352: the header. It counts the strand images and marks the home strands among them. -/
def headerBytes (tm : Team) (images : List Strand) : List Byte :=
  let clock := fun (st : Strand) => orNone 2 ((firstSome (fun (f : Nat × Frame) => f.2.clock) st.frames).or (st.rootJoin.bind (·.clock)) |>.map (·.len))
  let arrival := fun (st : Strand) => orNone 2 (st.arrival.map fun a => a.1.toNat + if a.2 then 4096 else 0)
  bytesOfNat 4 tm.launch ++ bytesOfWord tm.key.x ++ bytesOfWord tm.key.y ++ bytesOfWord tm.key.z ++ bytesOfNat 1 tm.key.stage.toNat ++
    bytesOfNat 1 tm.key.kind.toNat ++ bytesOfWord tm.placegen ++ bytesOfNat 4 tm.rollbacks.toNat ++ images.flatMap clock ++
    images.flatMap arrival ++ bytesOfNat 1 images.length ++ bitBytes 2 (images.map (·.isHome))

/-- R205, R352: the barrier table, the partial commands, the unpopped records and the stream results of a team, each of its
lists with its length before it. -/
def queueBytes (tm : Team) (images : List Strand) : List Byte :=
  let qword := fun (q : QWord) => match q with
    | .k c => bytesOfNat 1 (if c.tag then 3 else 2) ++ c.toBytes
    | .s w => bytesOfNat 1 0 ++ padTo 16 (bytesOfNat 8 w.toNat)
  let counted := fun (bss : List (List Byte)) => bytesOfNat 2 bss.length ++ bss.flatten
  let result := fun (w : Write) => match w with
    | .acc t e x => [bytesOfNat 2 (256 * t + e) ++ bytesOfNat 8 x.toNat]
    | _ => []
  counted (tm.handles.map fun h => bytesOfNat 2 h.1 ++ bytesOfNat 6 h.2) ++
    (images.flatMap fun st => counted ((List.range 4).flatMap fun q => (sget [] st.partials q).map fun w => bytesOfNat 1 q ++ qword w)) ++
    (images.flatMap fun st => counted (st.records.map fun r => bytesOfNat 1 r.queue ++ bytesOfNat 8 r.word.toNat)) ++
    (images.flatMap fun st => counted (st.records.flatMap fun r => r.accWrites.flatMap result))

/-- R187: the activation bytes that a team holds. -/
def actSize (desc : TeamDesc) : Nat := max desc.act 64

/-- R352: the sizes of the parts of an area with `n` strand images. -/
def areaSize (desc : TeamDesc) (n : Nat) : Nat :=
  256 + n * partSize (32 * desc.regs * 4 + 32 + 32 * desc.caps * 16 + 4 * desc.caps) + n * partSize 2354 + partSize (2052 * desc.tiles) +
    2048 * desc.accs + partSize (actSize desc + actSize desc / 32) + partSize desc.wgt + 4096

/-- R352: the bytes of a team's save area. -/
def areaBytes (s : State) (tm : Team) : List Byte :=
  let images := imagesOf s tm.tid
  let at' := fun (st : Strand) (i : Nat) => s.threads.find? fun t => t.sid == st.sid && t.slot == i && t.status != .exited
  let a := actSize tm.desc
  let tiles := (List.range tm.desc.tiles).map (sget zeroTile tm.tiles)
  part 256 (headerBytes tm images) ++
    images.flatMap (fun st => part (32 * tm.desc.regs * 4 + 32 + 32 * tm.desc.caps * 16 + 4 * tm.desc.caps) (threadsBytes tm.desc (at' st))) ++
    images.flatMap (fun st => part 2354 (uniformBytes s st (at' st))) ++
    part (2052 * tm.desc.tiles) (tiles.flatMap (fun t => (List.range 2048).map (sget 0 t.data)) ++ tiles.flatMap fun t => bytesOfWord t.ctl) ++
    part (2048 * tm.desc.accs) ((List.range (256 * tm.desc.accs)).flatMap fun i => bytesOfNat 8 (sget 0 tm.accs i).toNat) ++
    part (a + a / 32) ((List.range a).map (sget 0 tm.act) ++ bitBytes (a / 32) ((List.range (a / 4)).map (sget false tm.fe))) ++
    part tm.desc.wgt ((List.range tm.desc.wgt).map (sget 0 tm.wgt)) ++ part 4096 (queueBytes tm images)

/-! ### Where the areas lie -/

/-- R352: the stride of a launch's areas: room for 16 strand images of any of its kinds, in whole 64 KiB. -/
def saveStride (slots : List KindSlot) : Nat :=
  (slots.foldl (fun n k => max n (areaSize k.desc 16)) 65536 + 65535) / 65536 * 65536

/-- The most stages of a launch's kinds. -/
def mostStages (slots : List KindSlot) : Nat := slots.foldl (fun n k => max n k.stages) 1

/-- R359: a team's index in its launch: its place in the field, x fastest (DESIGN CHOICE 32). -/
def fieldIndex (l : Launch) (key : TeamKey) : Nat := key.x.toNat + l.fx * (key.y.toNat + l.fy * key.z.toNat)

/-- R352: the index of a team's save area: its place in the field, stage by stage, and after the field's the compensation teams by
their activities (DESIGN CHOICE 30). -/
def saveIndex (l : Launch) (tm : Team) : Nat :=
  let size := l.fx * l.fy * l.fz
  match tm.role with
  | .compensation index _ _ _ => size * mostStages l.slots + index
  | _ => size * tm.key.stage.toNat + fieldIndex l tm.key

/-- The save areas that a launch may need: its teams', and a compensation team's for each activity of the seam table (R360). -/
def saveAreas (l : Launch) : Nat := l.fx * l.fy * l.fz * mostStages l.slots + 65536

end Sys2Proof.Machine
end

