-- ==== Sys2Proof/Machine/Events.lean ====
section
/-! DEFINITION. The ordering machine's events of loads, stores and atomics (R300 to R311): how an access enters its
thread's issue point, when it may be performed, and what performing it does. -/

namespace Sys2Proof.Machine

/-! ### The alias window (R326 to R328) -/

/-- The element of an alias address within its unit: group, block and position (R326). -/
def aliasElem (u : Nat) : Nat × Nat × Nat := (u / 64, u / 2 % 32 / 4, u / 2 % 4)

/-- R327: an element read as BF16. -/
def aliasRead (cells : List Host.Cell) (unit u : Nat) : Nat :=
  let (g, b, i) := aliasElem u
  let base := unit * 65536 + 24 * g
  let group := natOfBytes (cellGets cells (base + 2 * b) 2)
  let scale := (cellGet cells (base + 16 + b)).toNat
  match kn4Value scale group i with
  | .fin neg m e => (bf16.round .rn neg m e).1
  | _ => 0x7FC0

/-- R328: one block with some of its elements replaced, packed again under its own type. -/
def aliasRepack (cells : List Host.Cell) (unit g b : Nat) (new : List (Nat × Nat)) : List Byte × Byte :=
  let base := unit * 65536 + 24 * g
  let scale := (cellGet cells (base + 16 + b)).toNat
  let elems := (List.range 4).map fun i =>
    match new.find? fun x => x.1 == 64 * g + 8 * b + 2 * i with
    | some x => x.2
    | none => aliasRead cells unit (64 * g + 8 * b + 2 * i)
  let (group, sc, _) := kn4Pack bf16 (scale / 64) elems
  (bytesOfNat 2 group, BitVec.ofNat 8 sc)

/-- R326: the groups that `n` bytes of a unit's window from `u` on touch, and a group's address. -/
def aliasGroups (u n : Nat) : List Nat := (List.range ((u + n - 1) / 64 + 1 - u / 64)).map (· + u / 64)
def groupAt (unit g : Nat) : Nat := unit * 65536 + 24 * g

/-- R277, R279, R328: a write of whole elements, group by group: the group's pending reductions drain, and its 24 bytes are
written back with the blocks that hold a written element packed again. A group that spans two lines carries the poison of
either to both. -/
def aliasWrite (s : State) (core : Option Nat) (unit u : Nat) (bs : List Byte) : State :=
  let elems := (List.range (bs.length / 2)).map fun i => (u + 2 * i, natOfBytes ((bs.drop (2 * i)).take 2))
  (aliasGroups u bs.length).foldl (fun s g =>
    let blocks := (List.range 8).filter fun b => elems.any fun x => x.1 / 64 == g && x.1 / 8 % 8 == b
    let base := groupAt unit g
    let s := drainRange s base 24
    let old := cellGets s.mem.cells base 24
    let prov := (linesOf base 24).foldl (fun p l => minPoison p (poisonOf s.mem l)) none
    let now := blocks.foldl (fun bytes b =>
      let (code, scale) := aliasRepack s.mem.cells unit g b elems
      replaceAt (replaceAt bytes (2 * b) code) (16 + b) [scale]) old
    let s := writePhys s core 0 base now none
    match prov with
    | some p => { s with mem := (linesOf base 24).foldl (fun m l => addPoison m l p) s.mem }
    | none => s) s

/-! ### System space -/

/-- The physical address that a system-space address names, where it names memory. DESIGN CHOICE 9. -/
def sysPhys (va : DWord) : Option Nat :=
  let a := va.toNat % 2 ^ 60
  if a < 2 ^ 52 && (tierAt a).isSome then some a else none

/-- R396: the roster slot whose record a system address lies in, and the byte of it. -/
def rosterAt (va : DWord) : Option (Nat × Nat) :=
  let a := va.toNat % 2 ^ 60
  if 0x20000000000 ≤ a && a < 0x20000004000 then some ((a - 0x20000000000) / 64, a % 64) else none

/-- R396: a roster slot's record as its 64 bytes. -/
def Roster.bytes (r : Roster) : List Byte :=
  bytesOfNat 8 r.group.toNat ++ bytesOfNat 4 r.epoch.toNat ++ [r.world, BitVec.ofNat 8 r.state] ++
    bytesOfNat 2 r.members.length ++ bytesOfNat 8 r.list ++ bytesOfNat 32 r.digest.toNat ++ bytesOfNat 8 0

/-- The record of a slot; a free slot's bytes are 0. -/
def rosterBytes (s : State) (slot : Nat) : List Byte :=
  match s.fabric.rosters.find? fun r => r.slot == slot with
  | some r => r.bytes
  | none => List.replicate 64 0

/-- A command is not performed yet. -/
def CmdState.pending : CmdState → Bool
  | .queued => true
  | .running _ _ _ => true
  | _ => false

/-- R396, R399: a roster slot's collectives that are not complete end with status 12. A command's control word
names its slot. -/
def failCollectives (s : State) (slot : Nat) : State :=
  let mine := fun (c : Cmd) => c.queue == 4 && c.state.pending && !c.malformed &&
    match c.words[3]? with
    | some (QWord.s w) => decide (4 ≤ (w.extractLsb' 0 4).toNat) && (w.extractLsb' 16 8).toNat == slot
    | _ => false
  { s with eng := { s.eng with cmds := mapIf mine (fun c => { c with state := .performed 12 }) s.eng.cmds } }

/-- R396: a record written into a slot starts a new epoch, in which each listed member is asked for its quote. A record
of state 0 frees the slot. -/
def startEpoch (s : State) (slot : Nat) (group : DWord) (world : BitVec 8) (list : Nat) (members : List (BitVec 9))
    (digest : BitVec 256) (free : Bool) : State :=
  let s := failCollectives s slot
  let old := (s.fabric.rosters.find? fun r => r.slot == slot).map (·.epoch)
  let rest := s.fabric.rosters.filter fun r => r.slot != slot
  let r : Roster :=
    { slot := slot, group := group, epoch := old.getD 0 + 1, world := world, state := 1
      members := members.map fun m => (m, false), digest := digest, list := list, issued := 0
      asked := List.range members.length }
  { s with fabric := { s.fabric with rosters := if free then rest else rest ++ [r] } }

/-- R396: bytes stored into a slot's record. The member list is read at its physical address. -/
def writeRoster (s : State) (slot off : Nat) (bs : List Byte) : State :=
  let now := replaceAt (rosterBytes s slot) off bs
  let num := fun (lo n : Nat) => natOfBytes ((now.drop lo).take n)
  let list := num 16 8
  let members := (List.range (num 14 2)).map fun i =>
    BitVec.ofNat 9 (natOfBytes (cellGets s.mem.cells (list + 2 * i) 2))
  startEpoch s slot (BitVec.ofNat 64 (num 0 8)) (BitVec.ofNat 8 (num 12 1)) list members (BitVec.ofNat 256 (num 24 32))
    (num 13 1 == 0)

/-! ### Reading and writing a place at its point of coherence -/

/-- What a read takes: bytes, coherence numbers by physical byte, the granule's tag and poison. -/
structure Got where
  bytes  : List Byte
  seqs   : List (Nat × Nat)
  tag    : Bool
  poison : Option (BitVec 12)
  deriving DecidableEq, Repr

/-- R279, R301, R305: the bytes of a place as they stand at the PoC, with those of the team's staged lines over them.
None when the place's owner is gone (R264). -/
def readLoc (s : State) (team : Option Team) (loc : Loc) (n : Nat) : State × Option Got :=
  match loc with
  | .phys pa slot =>
    let (s, raw, p) := readPhys s slot pa n
    let held := fun i => team.bind fun tm => stagedByte tm (pa + i)
    let bytes := (List.range n).map fun i => (held i).getD ((raw[i]?).getD 0)
    let loose := (List.range n).filter fun i => (held i).isNone
    let seqs := loose.map fun i => (pa + i, sget 0 s.mem.wseq (pa + i))
    let tag := ((team.bind fun tm => stagedTag tm (pa / 16)).getD (tagAt s.mem pa))
    let mark := team.bind fun tm => stagedMark tm pa n
    (s, some ⟨bytes, seqs, tag, if loose.isEmpty then mark else minPoison mark p⟩)
  | .act tid off =>
    match teamOf s tid with
    | some tm =>
      if tm.state = .ended then (s, none) else (s, some ⟨bufBytes tm false off n, [], false, bufPoison tm false off n⟩)
    | none => (s, none)
  | .wgt tid off =>
    match teamOf s tid with
    | some tm => (s, some ⟨bufBytes tm true off n, [], false, bufPoison tm true off n⟩)
    | none => (s, none)
  | .window unit u =>
    let base := unit * 65536
    let (s, _, p) := readPhys s 0 (base + 24 * (u / 64)) (24 * (aliasGroups u n).length)
    let bytes := (List.range (n / 2)).flatMap fun i => bytesOfNat 2 (aliasRead s.mem.cells unit (u + 2 * i))
    (s, some ⟨bytes, [], false, p⟩)
  | .sys va =>
    match sysPhys va with
    | some pa =>
      let (s, raw, p) := readPhys s 0 pa n
      (s, some ⟨raw, [], false, p⟩)
    | none => match rosterAt va with
      | some (slot, off) => (s, some ⟨((rosterBytes s slot).drop off).take n, [], false, none⟩)
      | none => (s, some ⟨(List.range n).map fun i => Config.freeByte s.run.tick (va.toNat + i), [], false, none⟩)
  | .remote _ _ => (s, none)

/-- R91, R306: bytes written to a place at its PoC. -/
def writeLoc (s : State) (core : Option Nat) (loc : Loc) (bs : List Byte) (tag : Option Bool) : State :=
  match loc with
  | .phys pa slot => writePhys s core slot pa bs tag
  | .act tid off => writeBuf s tid false off bs
  | .wgt tid off => writeBuf s tid true off bs
  | .window unit u => aliasWrite s core unit u bs
  | .sys va => match sysPhys va with
    | some pa => writePhys s none 0 pa bs none
    | none => match rosterAt va with
      | some (slot, off) => writeRoster s slot off bs
      | none => s
  | .remote _ _ => s

/-- The pieces of an access read in order and put together. -/
def readLocs (s : State) (team : Option Team) : List (Loc × Nat) → State × Option Got
  | [] => (s, some ⟨[], [], false, none⟩)
  | (l, n) :: rest =>
    match readLoc s team l n with
    | (s, none) => (s, none)
    | (s, some g) =>
      match readLocs s team rest with
      | (s, none) => (s, none)
      | (s, some h) => (s, some ⟨g.bytes ++ h.bytes, g.seqs ++ h.seqs, g.tag, minPoison g.poison h.poison⟩)

/-- The pieces of an access written in order. -/
def writeLocs (s : State) (core : Option Nat) (tag : Option Bool) : List (Loc × Nat) → List Byte → State
  | [], _ => s
  | (l, n) :: rest, bs => writeLocs (writeLoc s core l (bs.take n) tag) core tag rest (bs.drop n)

/-! ### Events -/

/-- R105: two places share a byte. -/
def locsMeet (a : Loc) (n : Nat) (b : Loc) (k : Nat) : Bool :=
  match a, b with
  | .phys x _, .phys y _ => decide (x < y + k) && decide (y < x + n)
  | .act t x, .act u y => t == u && decide (x < y + k) && decide (y < x + n)
  | .wgt t x, .wgt u y => t == u && decide (x < y + k) && decide (y < x + n)
  | .window t x, .window u y => t == u && decide (x < y + k) && decide (y < x + n)
  | .remote p x, .remote q y => p == q && decide (x.toNat < y.toNat + k) && decide (y.toNat < x.toNat + n)
  | .sys x, .sys y => decide (x.toNat < y.toNat + k) && decide (y.toNat < x.toNat + n)
  | _, _ => false

/-- Two events share a byte. -/
def evMeet (a b : MemEv) : Bool := a.locs.any fun x => b.locs.any fun y => locsMeet x.1 x.2 y.1 y.2

/-- An event writes memory. -/
def EvKind.writes : EvKind → Bool
  | .load => false
  | _ => true

/-- Two events belong to one thread (R302). -/
def sameThread (a b : MemEv) : Bool := a.tid == b.tid && a.owners.any fun r => b.owners.contains r

/-- An event goes to another package (R319). -/
def MemEv.isRemote (e : MemEv) : Bool :=
  e.locs.any fun x => match x.1 with
    | .remote _ _ => true
    | _ => false

/-- R305, R307: an earlier event of the same thread on a shared byte is pending. -/
def earlierPending (s : State) (e : MemEv) : Bool :=
  s.mem.events.any fun x => decide (x.id < e.id) && sameThread x e && evMeet x e

/-- The command that a packet's serial names, if an engine made it. -/
def packetCid (p : Packet) : Option Nat := if p.serial % 2 == 1 then some (p.serial / 2 / 2 ^ 32) else none

/-- Packets of a command are at the port or under way, or its answers are. -/
def packetsOf (s : State) (cid : Nat) : Bool := (s.fabric.outbox ++ s.fabric.flight).any fun p => packetCid p == some cid

/-- R304: a command is not performed yet: a read has still to be taken, or a write to be applied at its PoC. -/
def cmdPending (s : State) (c : Cmd) : Bool := c.state.pending || packetsOf s c.cid

/-- R308: a remote store or reduction that may happen before what a thread does next: one issued before the thread's last
acquire. The model does not follow which events the acquire reaches (DESIGN CHOICE 92). -/
def acquiredRemote (s : State) (tid : Nat) (owners : List Nat) (x : MemEv) : Bool :=
  x.isRemote && x.kind.writes && s.threads.any fun t => t.tid == tid && owners.contains t.rank && decide (x.id < t.acqEv)

/-- R308, R304, R319: every earlier event and command of the event's threads is performed at its scope; at sys scope also the
remote writes that its threads have acquired. -/
def releaseReady (s : State) (e : MemEv) : Bool :=
  !(s.mem.events.any fun x => (decide (x.id < e.id) && sameThread x e && (e.scope == 6 || !x.isRemote)) ||
      (e.scope == 6 && x.id != e.id && acquiredRemote s e.tid e.owners x)) &&
    !(s.eng.cmds.any fun c => c.tid == e.tid && decide (c.seq < e.id) && cmdPending s c &&
        e.owners.any fun r => c.ranks.contains r)

/-- A new event enters its thread's issue point (R305). -/
def issueEvent (s : State) (mk : Nat → MemEv) : State :=
  { s with mem := { s.mem with events := s.mem.events ++ [mk s.run.nextEv] }, run := { s.run with nextEv := s.run.nextEv + 1 } }

/-- An event is performed. -/
def dropEvent (s : State) (id : Nat) : State :=
  { s with mem := { s.mem with events := s.mem.events.filter fun x => x.id != id } }

/-- The event of a number. -/
def eventOf (s : State) (id : Nat) : Option MemEv := s.mem.events.find? fun x => x.id == id

/-! ### Results of loads -/

/-- R139: the registers that a loaded value goes to. -/
def loadWrites (f : LoadFmt) (bs : List Byte) (tag : Bool) : List Write :=
  match f with
  | .ext d size signed =>
    let x := natOfBytes bs
    [.v d (if signed then BitVec.ofInt 32 (sextNat (8 * size) x) else BitVec.ofNat 32 x)]
  | .words d n => (List.range n).map fun i => .v (d + i) (wordOf ((bs.drop (4 * i)).take 4))
  | .cap n => [.c n (capOfBytes bs tag)]
  | .capK n => [.k n (capOfBytes bs tag)]
  | .sWord n => [.s n (BitVec.ofNat 64 (natOfBytes bs))]
  | .sDword n => [.s n (BitVec.ofNat 64 (natOfBytes bs))]
  | .rows tile row rb n => (List.range n).flatMap fun r =>
      (List.range rb).map fun i => .tileByte tile (128 * (row + r) + i) ((bs[r * rb + i]?).getD 0)
  | .acc tile slot => (List.range 8).map fun i =>
      .acc tile (8 * slot + i) (BitVec.ofNat 56 (natOfBytes ((bs.drop (8 * i)).take 8)))

/-- The value belongs to a lane. -/
def LoadFmt.ofLane : LoadFmt → Bool
  | .ext _ _ _ => true
  | .words _ _ => true
  | .cap _ => true
  | _ => false

/-- R41, R45: a value, or its poison, reaches the return buffer entry that waits for it, in the lanes of `ranks`. -/
def deliver (s : State) (sid rb : Nat) (ranks : List Nat) (ws : List Write) (lane : Bool) (poison : Option (BitVec 12)) :
    State :=
  let fillLane := fun (l : RBLane) =>
    { l with pending := false, writes := l.writes ++ ws, poison := minPoison l.poison poison }
  let fill := fun (e : RBEntry) =>
    if lane then { e with lanes := mapIf (fun l => ranks.contains l.rank) fillLane e.lanes }
    else
      { e with strand := e.strand ++ ws, poison := minPoison e.poison poison
               lanes := mapIf (fun l => ranks.contains l.rank) (fun l => { l with pending := false }) e.lanes }
  updStrand s sid fun st => { st with rb := mapIf (fun e => e.id == rb) fill st.rb }

/-- R307: the threads of an event have seen the bytes' writes of the given numbers. -/
def markSeen (s : State) (e : MemEv) (seqs : List (Nat × Nat)) : State :=
  updThreads s (fun t => t.tid == e.tid && e.owners.contains t.rank) fun t => t.sees seqs

/-- R308, R310: a thread has acquired. At thread, strand or team scope (`wide` false) the L1 stays in use. -/
def Thread.acquired (t : Thread) (s : State) (wide : Bool) : Thread :=
  { t with acq := if wide then s.run.tick else t.acq, acqEv := s.run.nextEv }

/-- R310: an acquire of the event's threads has been performed. -/
def markAcquire (s : State) (e : MemEv) : State :=
  if e.sem = .acq then
    updThreads s (fun t => t.tid == e.tid && e.owners.contains t.rank) fun t => t.acquired s (decide (3 ≤ e.scope.toNat))
  else s

/-- The physical bytes of a place: for the alias window those of the groups that it touches (R326). -/
def locBytes (x : Loc × Nat) : List Nat :=
  match x.1 with
  | .phys pa _ => (List.range x.2).map (· + pa)
  | .window unit u => (aliasGroups u x.2).flatMap fun g => (List.range 24).map (· + groupAt unit g)
  | _ => []

/-- The coherence numbers that the bytes of places carry now. -/
def seqsOf (s : State) (locs : List (Loc × Nat)) : List (Nat × Nat) :=
  (locs.flatMap locBytes).map fun a => (a, sget 0 s.mem.wseq a)

/-- R44: the answer that the strand waits for: the check that failed, or what the access has taken. -/
def answerProbe (s : State) (e : MemEv) (cause : Option (BitVec 7)) (g : Got) : State :=
  if e.probe then
    updPath s e.sid e.pid fun p => { p with probe := mapIf (fun l => l.ev == e.id) (fun l =>
      { l with answered := true, cause := cause, bytes := g.bytes, tag := g.tag, poison := g.poison }) p.probe }
  else s

/-- R44, R264, R289: an access has failed a check at its target, or its owner has ended before it was performed. Its lanes
are filed with the cause when the instruction goes on. -/
def fileEvent (s : State) (e : MemEv) (cause : BitVec 7) : State :=
  answerProbe (dropEvent s e.id) e (some cause) ⟨[], [], false, none⟩

/-- R139, R307, R310: a load has taken its value. -/
def finishLoad (s : State) (e : MemEv) (g : Got) : State :=
  let s := markAcquire (markSeen s e g.seqs) e
  let s := dropEvent s e.id
  if e.probe then answerProbe s e none g
  else match e.dest with
  | some (rb, _, f) =>
    let tag := e.keepTag && g.tag
    deliver s e.sid rb e.owners (if g.poison.isSome then [] else loadWrites f g.bytes tag) f.ofLane g.poison
  | none => s

/-! ### Conditions (R305) -/

/-- The event is a load that may be performed now as far as its thread's own accesses go (R307). -/
def loadReady (s : State) (e : MemEv) : Bool := e.kind = .load && !earlierPending s e

/-- R305: all bytes of the event stand in its team's staged lines. -/
def allStaged (s : State) (e : MemEv) : Bool :=
  match teamOf s e.tid with
  | none => false
  | some tm => !e.locs.isEmpty && e.locs.all fun x => match x.1 with
    | .phys pa _ => (List.range x.2).all fun i => (stagedByte tm (pa + i)).isSome
    | _ => false

/-- R305: no byte of the event stands in its team's staged lines. -/
def noneStaged (s : State) (e : MemEv) : Bool :=
  match teamOf s e.tid with
  | none => true
  | some tm => e.locs.all fun x => match x.1 with
    | .phys pa _ => (List.range x.2).all fun i => (stagedByte tm (pa + i)).isNone
    | _ => true

/-- The L1 copy that holds every byte of an event, if the core has one. -/
def l1CopyFor (s : State) (e : MemEv) : Option (L1Copy × Nat × Nat) :=
  match e.locs with
  | [(.phys pa _, n)] =>
    if pa % 64 + n ≤ 64 then
      (s.mem.l1.find? fun x => x.core == e.core && x.line == lineOf pa).map fun x => (x, pa, n)
    else none
  | _ => none

/-- R305, R307, R310, R325: the load may take its bytes from the core's L1 copy; in the encrypted tiers, from one decrypted
under the slot that its own leaf names. -/
def l1Allowed (s : State) (e : MemEv) : Bool :=
  loadReady s e && noneStaged s e && (e.sem = .plain || e.scope.toNat ≤ 2) &&
    match l1CopyFor s e with
    | none => false
    | some (x, pa, n) =>
      ((tierAt pa).getD 0 == 0 || e.locs.any fun y => match y.1 with
        | .phys _ slot => slot == x.slot
        | _ => false) && (s.threads.filter fun t => t.tid == e.tid && e.owners.contains t.rank).all fun t =>
        decide (t.acq < x.filled) && (List.range n).all fun i =>
          decide (sget 0 t.seen (pa + i) ≤ (x.seqs[pa % 64 + i]?).getD 0)

/-! ### Steps (R305) -/

/-- R307: the staged bytes that a load takes are known to its threads. -/
def knowLocs (s : State) (e : MemEv) : State :=
  e.locs.foldl (fun s x => match x.1 with
    | .phys pa _ => knowStaged s e.tid pa x.2 e.owners
    | _ => s) s

/-- ReadStaged. -/
def stepReadStaged (s : State) (id : Nat) : State :=
  match eventOf s id with
  | none => s
  | some e =>
    if loadReady s e && allStaged s e then
      match readLocs s (teamOf s e.tid) e.locs with
      | (s, some g) => finishLoad (knowLocs s e) e g
      | (s, none) => s
    else s

/-- R138: the elements of the alias window that a load has still to take, where it takes more than one. -/
def elementsLeft (e : MemEv) : List Nat :=
  match e.kind, e.locs with
  | .load, [(.window _ _, n)] => (List.range (n / 2)).filter fun i => !(e.early.any fun x => x.1 == i)
  | _, _ => []

/-- R138: a load of the alias window takes one of its elements, any of those left but the last: only an element is single-copy
atomic there. -/
def stepPeek (s : State) (id : Nat) : State :=
  match eventOf s id with
  | none => s
  | some e =>
    match e.locs, elementsLeft e with
    | [(.window unit u, _)], i :: j :: rest =>
      let k := ((i :: j :: rest)[Config.pick s.run.tick 0x90A % (rest.length + 2)]?).getD i
      if !loadReady s e then s
      else match readLoc s none (.window unit (u + 2 * k)) 2 with
        | (s, some g) => { s with mem := { s.mem with
            events := mapIf (fun x => x.id == id) (fun x => { x with early := x.early ++ [(k, g.bytes, g.poison)] }) s.mem.events } }
        | (s, none) => s
    | _, _ => s

/-- R138: what a load takes, with the elements that it took before over it. -/
def Got.over (g : Got) (early : List (Nat × List Byte × Option (BitVec 12))) : Got :=
  early.foldl (fun g x => { g with bytes := replaceAt g.bytes (2 * x.1) x.2.1, poison := minPoison g.poison x.2.2 }) g

/-- ReadPoC. Bytes that the team holds staged are taken from there (R201). -/
def stepReadPoc (s : State) (id : Nat) : State :=
  match eventOf s id with
  | none => s
  | some e =>
    if loadReady s e && !allStaged s e && !e.isRemote then
      match readLocs s (teamOf s e.tid) e.locs with
      | (s, some g) => finishLoad (knowLocs s e) e (g.over e.early)
      | (s, none) => fileEvent s e 0x05
    else s

/-- ReadL1. -/
def stepReadL1 (s : State) (id : Nat) : State :=
  match eventOf s id with
  | none => s
  | some e =>
    if l1Allowed s e then
      match l1CopyFor s e with
      | none => s
      | some (x, pa, n) =>
        let g : Got :=
          { bytes := (x.bytes.drop (pa % 64)).take n
            seqs := (List.range n).map fun i => (pa + i, (x.seqs[pa % 64 + i]?).getD 0)
            tag := (x.tags[pa % 64 / 16]?).getD false, poison := x.poison }
        finishLoad s e g
    else s

/-- The bytes of a store that leave the core enter the auditor's signature (R281). -/
def signStore (s : State) (e : MemEv) : State :=
  if e.locs.any fun x => match x.1 with
    | .phys _ _ => true
    | .window _ _ => true
    | .remote _ _ => true
    | _ => false
  then updTeam s e.tid fun t => { t with signature := signBytes t.signature e.va e.data } else s

/-- A place whose buffer belongs to a team that has ended (R264). -/
def locGone (s : State) : Loc → Bool
  | .act tid _ => match teamOf s tid with
    | some tm => tm.state = .ended
    | none => true
  | _ => false

/-- R305: a plain store to translated device space whose team's interval is unexposed: it goes by Stage, not by Apply. -/
def stageable (s : State) (e : MemEv) : Bool :=
  e.plainStore && match teamOf s e.tid with
    | some tm => !tm.exposed && tm.state != .ended
    | none => false

/-- R201, R202, R305: Stage. A store that finds no free staging line exposes the team's interval. A store follows its
thread's earlier accesses to shared bytes (DEDUCED 14). -/
def stepStage (s : State) (id : Nat) : State :=
  match eventOf s id with
  | none => s
  | some e =>
    match teamOf s e.tid with
    | none => s
    | some tm =>
      if stageable s e && !earlierPending s e then
        let lines := e.locs.flatMap fun x => match x.1 with
          | .phys pa _ => linesOf pa x.2
          | _ => []
        let fresh := lines.filter fun l => (stagedLine tm l).isNone
        if stagingUsed s tm.place + fresh.length ≤ Config.stagingLines then
          (stagePieces s e e.locs e.va e.data)
        else exposeTeam s e.tid
      else s
where
  /-- The pieces of the store, one after the other; the event is performed. -/
  stagePieces (s : State) (e : MemEv) : List (Loc × Nat) → Nat → List Byte → State
    | [], _, _ => dropEvent s e.id
    | (.phys pa slot, n) :: rest, va, bs =>
      stagePieces (stageBytes s e.tid slot pa va (bs.take n) e.tag e.id e.owners) e rest (va + n) (bs.drop n)
    | (_, n) :: rest, va, bs => stagePieces s e rest (va + n) (bs.drop n)

/-- R305, R308: a store may be applied: its thread's earlier accesses to shared bytes are performed (DEDUCED 14), and a
release's earlier events are. -/
def applyReady (s : State) (e : MemEv) : Bool :=
  e.kind = .store && !e.isRemote && !stageable s e && !earlierPending s e && (e.sem != .rel || releaseReady s e)

/-- Apply. -/
def stepApply (s : State) (id : Nat) : State :=
  match eventOf s id with
  | none => s
  | some e =>
    if applyReady s e then
      if e.locs.any fun x => locGone s x.1 then fileEvent s e 0x05
      else
        let s := signStore (writeLocs (dropEvent s id) (some e.core) e.tag e.locs e.data) e
        let s := answerProbe s e none ⟨[], [], false, none⟩
        markSeen s e (seqsOf s e.locs)
    else s

/-- R277, R291, R293: a reduction enters its port's entry for the line, merging where the entry has its operation. `core` is
the core that issued it. The entry drains by itself at any time (`Act.drainRed`), and before any other operation on the
line. -/
def enterRed (s : State) (core : Option Nat) (op : BitVec 4) (pa : Nat) (x : Word) : State :=
  let line := lineOf pa
  let own := core.toList
  match s.mem.redEntries.find? fun e => e.line == line with
  | some e =>
    if e.op == op then
      let elems := match e.elems.find? fun y => y.1 == pa with
        | some _ => mapIf (fun y => y.1 == pa) (fun y => (y.1, atomOp op.toNat y.2.1 x, y.2.2 ++ own)) e.elems
        | none => e.elems ++ [(pa, x, own)]
      { s with mem := { s.mem with redEntries := mapIf (fun y => y.line == line) (fun y => { y with elems := elems }) s.mem.redEntries } }
    else
      let s := drainReds s line
      { s with mem := { s.mem with redEntries := s.mem.redEntries ++ [⟨line, op, [(pa, x, own)]⟩] } }
  | none => { s with mem := { s.mem with redEntries := s.mem.redEntries ++ [⟨line, op, [(pa, x, own)]⟩] } }

/-- R307: a reduction in its entry has no coherence number yet, but comes after every write of its word applied so far: its
threads take no older value from here on. -/
def seeRed (s : State) (e : MemEv) (pa : Nat) : State :=
  let no := s.mem.wseqNo + 1
  markSeen { s with mem := { s.mem with wseqNo := no } } e ((List.range 4).map fun i => (pa + i, no))

/-- R290, R292, R293, R294: what an atomic, cas or reduction makes of the word's old bytes: the new ones, if it writes. -/
def modifyOf (kind : EvKind) (data old : List Byte) : Option (List Byte) :=
  match kind with
  | .atom op => some (bytesOfWord (atomOp op.toNat (wordOf old) (wordOf data)))
  | .red op => some (bytesOfWord (atomOp op.toNat (wordOf old) (wordOf data)))
  | .cas => if old == data.take old.length then some (data.drop old.length) else none
  | _ => none

/-- The same for an event. -/
def modifyBytes (e : MemEv) (old : List Byte) : Option (List Byte) := modifyOf e.kind e.data old

/-- Modify. -/
def stepModify (s : State) (id : Nat) : State :=
  match eventOf s id with
  | none => s
  | some e =>
    let isMod := match e.kind with
      | .load => false
      | .store => false
      | _ => true
    if !isMod || e.isRemote || earlierPending s e then s
    else if e.locs.any fun x => locGone s x.1 then fileEvent s e 0x05
    else
      match e.kind, e.locs with
      | .red op, [(.phys pa slot, _)] =>
        if (tierAt pa).getD 0 == 0 then seeRed (enterRed (dropEvent s id) (some e.core) op pa (wordOf e.data)) e pa
        else
          let (s, old, _) := readPhys (dropEvent s id) slot pa 4
          let s := writePhys s (some e.core) slot pa ((modifyBytes e old).getD old) none
          markSeen s e (seqsOf s e.locs)
      | _, locs =>
        match readLocs s none locs with
        | (s, none) => s
        | (s, some g) =>
          let s := match modifyBytes e g.bytes with
            | some new => writeLocs s (some e.core) none locs new
            | none => s
          finishLoad s { e with keepTag := false } { g with seqs := seqsOf s locs }

/-- R325: the slot under which a core's fill of a line decrypts it: that of the leaf of an access which waits for the line; where
none waits, the slot of its last write. -/
def fillSlot (s : State) (core line : Nat) : Nat :=
  let named := fun (x : Loc × Nat) => match x.1 with
    | .phys pa slot => if (linesOf pa x.2).contains line then some slot else none
    | _ => none
  match firstSome (fun (e : MemEv) => if e.core == core then firstSome named e.locs else none) s.mem.events with
  | some slot => slot
  | none => ((sget none s.mem.encLines line).map (·.slot)).getD 0

/-- Fill: the core's L1 takes a copy of a line from its PoC. -/
def stepFill (s : State) (core line : Nat) : State :=
  let slot := fillSlot s core line
  if (tierAt (64 * line)).isNone then s
  else
    let (s, bytes, p) := readPhys s slot (64 * line) 64
    let copy : L1Copy :=
      { core := core, line := line, bytes := bytes, seqs := (List.range 64).map fun i => sget 0 s.mem.wseq (64 * line + i)
        filled := s.run.tick, slot := slot, tags := (List.range 4).map fun i => tagAt s.mem (64 * line + 16 * i), poison := p }
    { s with mem := { s.mem with l1 := (s.mem.l1.filter fun x => !(x.core == core && x.line == line)) ++ [copy] } }

/-- Evict: the L1 copy of a line is dropped. -/
def stepEvict (s : State) (core line : Nat) : State :=
  { s with mem := { s.mem with l1 := s.mem.l1.filter fun x => !(x.core == core && x.line == line) } }

/-- R41: a long result whose lanes wait for nothing more has returned. -/
def stepReturn (s : State) (sid entry : Nat) : State :=
  let back := fun (e : RBEntry) => e.id == entry && !(e.lanes.any (·.pending))
  updStrand s sid fun st => { st with rb := mapIf back (fun e => { e with returned := true }) st.rb }

end Sys2Proof.Machine
end

