-- ==== Sys2Proof/Machine/LaneMem.lean ====
section
/-! DEFINITION. Lane loads, stores, ordered accesses, atomics and the uniform accesses (R138 to R144, R288 to R294). -/

namespace Sys2Proof.Machine

/-! ### Issuing accesses -/

/-- R142, R250, R305: a fence of the strand, or an acquire of a thread of the path, is not yet performed: the path issues
no access to memory and no push. -/
def barred (s : State) (c : Ctx) : Bool :=
  c.st.paths.any (·.fence.isSome) || s.mem.events.any fun e =>
    e.sem = .acq && e.tid == c.tm.tid && ((e.sid == c.st.sid && e.pid == c.p.pid) ||
      e.owners.any fun r => (c.ranks s).contains r)

/-- R202: what an access exposes when it issues. -/
def exposeAccess (s : State) (tid va : Nat) (writes : Bool) (locs : List (Loc × Nat)) : State :=
  let sp := spaceOf va
  if sp == 0xA then
    locs.foldl (fun s x => match x.1 with
      | .act t _ => exposeTeam s t
      | _ => s) (exposeTeam s tid)
  else if writes && (sp == 0xC || sp == 0xD || sp == 0xF) then exposeTeam s tid
  else s

/-- One access of one lane, checked: its failure, or its address and the places of its bytes. -/
structure Checked where
  t    : Thread
  acc  : Access
  res  : Except Failure (List (Loc × Nat))

/-- R138: the accesses of the active lanes, each checked on its own. `reg` is the capability register for R178. -/
def checkLanes (c : Ctx) (reg : Nat) (req : Thread → Access) : State → List Thread → State × List Checked
  | s, [] => (s, [])
  | s, t :: ts =>
    let a := req t
    let (s, r) := checkAccess s (c.who s t.rank) a
    let res : Except Failure (List (Loc × Nat)) := match r with
      | .error cause => .error (accessFailure cause a.addr c.tm.asid reg)
      | .ok locs => .ok locs
    let (s, rest) := checkLanes c reg req s ts
    (s, ⟨t, a, res⟩ :: rest)

/-- The lanes whose access passes, with their places. -/
def passedLanes (xs : List Checked) : List (Thread × Nat × List (Loc × Nat)) :=
  xs.filterMap fun x => match x.res with
    | .ok locs => some (x.t, x.acc.addr.toNat, locs)
    | .error _ => none

/-- The lanes whose access fails. -/
def failedLanes (xs : List Checked) : List (Thread × Failure) :=
  xs.filterMap fun x => match x.res with
    | .ok _ => none
    | .error f => some (x.t, f)

/-! ### Checks that another package or core makes (R44, R264, R289) -/

/-- R264, R289: the access can still fail once it has left its core: in space 0xC, where checks 8 to 11 are made at the target
(those of a `red` concern the orphan alone), and in a peer's buffer, whose team may end before it is performed. -/
def asksElsewhere (tid : Nat) (kind : AccKind) (locs : List (Loc × Nat)) : Bool :=
  locs.any fun x => match x.1 with
    | .remote _ _ => kind != .red
    | .act t _ => t != tid
    | _ => false

/-- The answered lane of the instruction in progress. -/
def Ctx.answer? (c : Ctx) (rank : Nat) : Option ProbeLane := c.p.probe.find? fun l => l.rank == rank

/-- R44: a lane whose access has been answered: it fails as its answer says, and otherwise has passed. -/
def answeredLane (c : Ctx) (reg : Nat) (x : Checked) : Checked :=
  match c.answer? x.t.rank with
  | none => x
  | some l => match l.cause with
    | some cause => { x with res := .error (accessFailure cause x.acc.addr c.tm.asid reg) }
    | none => match x.res with
      | .ok _ => x
      | .error _ => { x with res := .ok [] }

/-- R44: the lanes that pass their checks here and have still to ask elsewhere. -/
def askingLanes (c : Ctx) (xs : List Checked) : List (Thread × Nat × List (Loc × Nat)) :=
  xs.filterMap fun x => match x.res with
    | .ok locs => if (c.answer? x.t.rank).isNone && asksElsewhere c.tm.tid x.acc.kind locs then some (x.t, x.acc.addr.toNat, locs) else none
    | .error _ => none

/-- R44: accesses that ask elsewhere are performed first. The instruction stays at its PC with nothing of it in RB, and the
strand issues nothing until each has been answered. -/
def askFirst (s : State) (c : Ctx) (apply : State → State) : State :=
  let t := apply s
  let new := t.mem.events.filter fun e => decide (s.run.nextEv ≤ e.id)
  let lane := fun (e : MemEv) =>
    ({ rank := e.rank, va := e.va, ev := e.id, answered := false, cause := none, bytes := [], tag := false, poison := none } : ProbeLane)
  let events := mapIf (fun e => decide (s.run.nextEv ≤ e.id)) (fun e => { e with probe := true }) t.mem.events
  let t := { t with mem := { t.mem with events := events } }
  match strandOf s c.st.sid with
  | none => t
  | some old => updStrand t c.st.sid fun st =>
      { (st.updPath c.p.pid fun p => { p with probe := new.map lane }) with rb := old.rb, nextRb := old.nextRb }

/-- The effect of an instruction whose answered lanes have been performed: their results enter RB with the others', and their
accesses are not made again. -/
def withAnswers (s : State) (c : Ctx) (apply : State → State) : State :=
  if c.p.probe.isEmpty then apply s
  else
    let t := apply s
    (t.mem.events.filter fun e => decide (s.run.nextEv ≤ e.id)).foldl (fun t e =>
      match c.answer? e.rank with
      | none => t
      | some l =>
        let t := dropEvent t e.id
        match e.dest with
        | some (rb, _, f) =>
          deliver t e.sid rb e.owners (if l.poison.isSome then [] else loadWrites f l.bytes (e.keepTag && l.tag)) f.ofLane l.poison
        | none => t) t

/-- R44, R138: a lane memory instruction: its checks, the implicit marker where a lane fails, the accesses of the lanes
that pass, the filings. `long` asks for R42's room, `sel` names the lanes that make an access. -/
def laneMemOn (s : State) (legal : Ctx → Bool) (long : Bool) (reg : Nat) (sel : State → Ctx → List Thread)
    (req : Ctx → Thread → Access) (apply : State → Ctx → List (Thread × Nat × List (Loc × Nat)) → State) : Out :=
  inCtx s fun c =>
    if !legal c then fileAll s c 0x01
    else if barred s c then s
    else
      let body := fun (s : State) =>
        let (s, xs) := checkLanes c reg (req c) s (sel s c)
        let xs := xs.map (answeredLane c reg)
        let go := fun (s : State) =>
          finish (fileThreads (withAnswers s c fun s => apply s c (passedLanes xs)) c.at (failedLanes xs)) c
        if !(askingLanes c xs).isEmpty then askFirst s c fun s => apply s c (askingLanes c xs)
        else if (failedLanes xs).isEmpty then go s else afterMarker s c false go
      if long then afterRbRoom s c body else body s

/-- R138: a lane memory instruction of every active lane. -/
def laneMem (s : State) (g : Guard) (legal : Ctx → Bool) (long : Bool) (reg : Nat) (req : Thread → Access)
    (apply : State → Ctx → List (Thread × Nat × List (Loc × Nat)) → State) : Out :=
  laneMemOn s legal long reg (fun s c => c.active s g) (fun _ => req) apply

/-- An event of the path's instruction, for the threads `owners`. -/
def Ctx.event (c : Ctx) (owners : List Nat) (kind : EvKind) (va : Nat) (locs : List (Loc × Nat)) (sem : Sem)
    (scope : BitVec 3) (data : List Byte) (tag : Option Bool) (keepTag : Bool) (cap : Cap)
    (dest : Option (Nat × Nat × LoadFmt)) (id : Nat) : MemEv :=
  { id := id, tid := c.tm.tid, rank := owners.headD 0, sid := c.st.sid, pid := c.p.pid, core := c.st.core
    owners := owners, kind := kind, locs := locs, va := va, asid := c.tm.asid, world := c.tm.world, sem := sem
    scope := scope, data := data, tag := tag, keepTag := keepTag, cap := cap, dest := dest, acq := 0
    launch := c.tm.launch, pc := c.p.pc, word := c.at.word, sent := false, probe := false, early := [] }

/-- The number that the strand's next long result gets. -/
def nextRbOf (s : State) (c : Ctx) : Nat := ((strandOf s c.st.sid).map (·.nextRb)).getD 0

/-- R41, R305: the long result of a load, one lane pending for each access, and the accesses. `mk` makes a lane's event
from the number of the result. -/
def issueLoads (s : State) (c : Ctx) (xs : List (Thread × Nat × List (Loc × Nat))) (writes : Bool)
    (mk : Nat → Thread → Nat → List (Loc × Nat) → Nat → MemEv) : State :=
  let rb := nextRbOf s c
  let s := xs.foldl (fun s x => exposeAccess s c.tm.tid x.2.1 writes x.2.2) s
  let s := pushRb s c (xs.map fun x => ⟨x.1.rank, true, [], none, BitVec.ofNat 64 x.2.1, none⟩) [] false none
  xs.foldl (fun s x => issueEvent s (mk rb x.1 x.2.1 x.2.2)) s

/-- R305: the accesses of a store, each an event of its own. -/
def issueStores (s : State) (c : Ctx) (xs : List (Thread × Nat × List (Loc × Nat)))
    (mk : Thread → Nat → List (Loc × Nat) → Nat → MemEv) : State :=
  let s := xs.foldl (fun s x => exposeAccess s c.tm.tid x.2.1 true x.2.2) s
  xs.foldl (fun s x => issueEvent s (mk x.1 x.2.1 x.2.2)) s

/-! ### Plain loads and stores (R139, R140) -/

/-- R139: bytes of a load size. -/
def loadSize (z : BitVec 3) : Nat :=
  match z.toNat with
  | 0 | 1 => 1
  | 2 | 3 => 2
  | 4 => 4
  | 5 => 8
  | _ => 16

/-- R139: destination of a load size. -/
def loadFmt (z : BitVec 3) (d : Nat) : LoadFmt :=
  match z.toNat with
  | 0 => .ext d 1 false
  | 1 => .ext d 1 true
  | 2 => .ext d 2 false
  | 3 => .ext d 2 true
  | 4 => .words d 1
  | 5 => .words d 2
  | 6 => .words d 4
  | _ => .cap (d % 16)

/-- R38, R139: the registers that a load of `n` registers from `d`, or of a capability, names. -/
def Ctx.dataOk (c : Ctx) (isCap : Bool) (d n cn : Nat) : Bool :=
  (if isCap then c.cOk [d % 16] else c.vOk ((List.range n).map (· + d))) && c.cOk [cn]

/-- R138: the address of format LM. -/
def lmAddr (cap : Cap) (o : BitVec 7) (size : Nat) : Int := (cap.addr : Int) + o.toInt * size

/-- R139: ld. -/
def execLd (g : Guard) (d : BitVec 6) (cn : BitVec 4) (z : BitVec 3) (o : BitVec 7) (s : State) : Out :=
  let size := loadSize z
  let isCap := z == 7
  let regs := if size ≤ 4 then 1 else size / 4
  laneMem s g (fun c => c.dataOk isCap d.toNat regs cn.toNat) true cn.toNat
    (fun t =>
      let cap := t.getC cn.toNat
      { kind := .load, cap := cap, addr := lmAddr cap o size, size := size, perm := permL, natural := true
        whole := isCap, fe := false, engine := false })
    fun s c xs => issueLoads s c xs false fun rb t va locs =>
      let cap := t.getC cn.toNat
      c.event [t.rank] .load va locs .plain 0 [] none (isCap && cap.has permLC) cap
        (some (rb, t.rank, loadFmt z d.toNat))

/-- The bytes of `n` consecutive lane registers. -/
def regBytes (t : Thread) (d n : Nat) : List Byte := (List.range n).flatMap fun i => bytesOfNat 4 (t.getV (d + i)).toNat

/-- R140: bytes of a store size. -/
def storeSize (z : BitVec 3) : Nat :=
  match z.toNat with
  | 0 => 1
  | 1 => 2
  | 2 => 4
  | 3 => 8
  | _ => 16

/-- R140: st. -/
def execSt (g : Guard) (d : BitVec 6) (cn : BitVec 4) (z : BitVec 3) (o : BitVec 7) (s : State) : Out :=
  let size := storeSize z
  let isCap := z == 5
  let regs := if size ≤ 4 then 1 else size / 4
  laneMem s g (fun c => c.dataOk isCap d.toNat regs cn.toNat) false cn.toNat
    (fun t =>
      let cap := t.getC cn.toNat
      { kind := .store, cap := cap, addr := lmAddr cap o size, size := size
        perm := if isCap && (t.getC (d.toNat % 16)).tag then permS ||| permSC else permS, natural := true
        whole := isCap, fe := false, engine := false })
    fun s c xs => issueStores s c xs fun t va locs =>
      let x := t.getC (d.toNat % 16)
      c.event [t.rank] .store va locs .plain 0 (if isCap then x.toBytes else (regBytes t d.toNat regs).take size)
        (if isCap then some x.tag else none) false (t.getC cn.toNat) none

/-! ### Ordered accesses (R141 to R143) -/

/-- R141: registers of an ordered size: w, d, q. -/
def orderedRegs (z : BitVec 2) : Nat :=
  match z.toNat with
  | 0 => 1
  | 1 => 2
  | _ => 4

/-- R142: an ordered load. -/
def orderedLoad (g : Guard) (d : BitVec 6) (cn : BitVec 4) (z : BitVec 2) (scope : BitVec 3) (sem : Sem) (s : State) : Out :=
  let regs := orderedRegs z
  let isCap := z == 3
  laneMem s g (fun c => c.dataOk isCap d.toNat regs cn.toNat) true cn.toNat
    (fun t =>
      let cap := t.getC cn.toNat
      { kind := .load, cap := cap, addr := cap.addr, size := 4 * regs, perm := permL, natural := true
        whole := isCap, fe := false, engine := false })
    fun s c xs => issueLoads s c xs false fun rb t va locs =>
      let cap := t.getC cn.toNat
      c.event [t.rank] .load va locs sem scope [] none (isCap && cap.has permLC) cap
        (some (rb, t.rank, if isCap then .cap (d.toNat % 16) else .words d.toNat regs))

/-- R142: ldo.rlx. -/
def execLdoRlx (g : Guard) (d : BitVec 6) (cn : BitVec 4) (z : BitVec 2) (k : BitVec 3) (s : State) : Out :=
  orderedLoad g d cn z k .rlx s
/-- R142: ldo.acq. -/
def execLdoAcq (g : Guard) (d : BitVec 6) (cn : BitVec 4) (z : BitVec 2) (k : BitVec 3) (s : State) : Out :=
  orderedLoad g d cn z k .acq s

/-- R142: an ordered store. It exposes the interval (R141, R202). -/
def orderedStore (g : Guard) (d : BitVec 6) (cn : BitVec 4) (z : BitVec 2) (scope : BitVec 3) (sem : Sem) (s : State) : Out :=
  let regs := orderedRegs z
  let isCap := z == 3
  laneMem s g (fun c => c.dataOk isCap d.toNat regs cn.toNat) false cn.toNat
    (fun t =>
      let cap := t.getC cn.toNat
      { kind := .store, cap := cap, addr := cap.addr, size := 4 * regs
        perm := if isCap && (t.getC (d.toNat % 16)).tag then permS ||| permSC else permS, natural := true
        whole := isCap, fe := false, engine := false })
    fun s c xs => issueStores (exposeTeam s c.tm.tid) c xs fun t va locs =>
      let x := t.getC (d.toNat % 16)
      c.event [t.rank] .store va locs sem scope (if isCap then x.toBytes else regBytes t d.toNat regs)
        (if isCap then some x.tag else none) false (t.getC cn.toNat) none

/-- R142: sto.rlx. -/
def execStoRlx (g : Guard) (d : BitVec 6) (cn : BitVec 4) (z : BitVec 2) (k : BitVec 3) (s : State) : Out :=
  orderedStore g d cn z k .rlx s
/-- R142: sto.rel. -/
def execStoRel (g : Guard) (d : BitVec 6) (cn : BitVec 4) (z : BitVec 2) (k : BitVec 3) (s : State) : Out :=
  orderedStore g d cn z k .rel s

/-- R143: the lanes that wait on full/empty words. -/
def feLanes (d : Nat) (xs : List (Thread × Nat × List (Loc × Nat))) : List FeLane :=
  xs.filterMap fun x => match x.2.2 with
    | (.act team off, _) :: _ => some ⟨x.1.rank, team, off, d, x.1.getV d⟩
    | _ => none

/-- R42, R143: the path parks in its wait at the instruction; RB has been committed. An `ldo.fe` is long, so the marker before
it is R42's where RB holds 24 results, and is counted then (DESIGN CHOICE 91). -/
def feAccess (g : Guard) (d : BitVec 6) (cn : BitVec 4) (take : Bool) (scope : BitVec 3) (s : State) : Out :=
  inCtx s fun c =>
    if !c.dataOk false d.toNat 1 cn.toNat then fileAll s c 0x01
    else if barred s c then s
    else afterMarker s c (take && !decide (c.st.rb.length < Config.rbSize)) fun s =>
      let (s, xs) := checkLanes c cn.toNat (fun t =>
        let cap := t.getC cn.toNat
        { kind := if take then .load else .store, cap := cap, addr := cap.addr, size := 4
          perm := if take then permL else permS, natural := true, whole := false, fe := true, engine := false })
        s (c.active s g)
      let lanes := feLanes d.toNat (passedLanes xs)
      let s := exposeTeam s c.tm.tid
      let s := (passedLanes xs).foldl (fun s x => exposeAccess s c.tm.tid x.2.1 true x.2.2) s
      let s := fileThreads s c.at (failedLanes xs)
      if lanes.isEmpty then finish s c
      else
        let w := if take then Wait.feTake lanes scope c.at.word else .feFill lanes scope c.at.word
        updPath s c.st.sid c.p.pid fun p => { p with state := .waiting w s.run.clock.toNat }

/-- R143: ldo.fe. -/
def execLdoFe (g : Guard) (d : BitVec 6) (cn : BitVec 4) (k : BitVec 3) (s : State) : Out := feAccess g d cn true k s
/-- R143: sto.fill. -/
def execStoFill (g : Guard) (d : BitVec 6) (cn : BitVec 4) (k : BitVec 3) (s : State) : Out := feAccess g d cn false k s

/-! ### Atomics (R288 to R294) -/

/-- R288: the issuing core's L1 copy of a line that an atomic names is dropped at issue. -/
def dropCopies (s : State) (core : Nat) (locs : List (Loc × Nat)) : State :=
  locs.foldl (fun s x => match x.1 with
    | .phys pa _ => stepEvict s core (lineOf pa)
    | _ => s) s

/-- The check of an atomic's word (R288, R289). -/
def atomAccess (cn size : Nat) (kind : AccKind) (perm : BitVec 8) (t : Thread) : Access :=
  let cap := t.getC cn
  { kind := kind, cap := cap, addr := cap.addr, size := size, perm := perm, natural := true, whole := false, fe := false
    engine := false }

/-- R288: what every atomic does at issue before its accesses: exposure and the dropped L1 copies. -/
def atomIssue (s : State) (c : Ctx) (xs : List (Thread × Nat × List (Loc × Nat))) : State :=
  xs.foldl (fun s x => dropCopies s c.st.core x.2.2) (exposeTeam s c.tm.tid)

/-- R292: atom. -/
def execAtom (g : Guard) (d : BitVec 6) (cn : BitVec 4) (b : BitVec 6) (o : BitVec 4) (s : State) : Out :=
  laneMem s g (fun c => c.vOk [d.toNat, b.toNat] && c.cOk [cn.toNat]) true cn.toNat
    (atomAccess cn.toNat 4 .atomic (permL ||| permS))
    fun s c xs => issueLoads (atomIssue s c xs) c xs true fun rb t va locs =>
      c.event [t.rank] (.atom o) va locs .rlx 5 (regBytes t b.toNat 1) none false (t.getC cn.toNat)
        (some (rb, t.rank, .words d.toNat 1))

/-- R293: red. -/
def execRed (g : Guard) (k : BitVec 3) (cn : BitVec 4) (b : BitVec 6) (o : BitVec 4) (s : State) : Out :=
  laneMem s g (fun c => c.vOk [b.toNat] && c.cOk [cn.toNat]) false cn.toNat (atomAccess cn.toNat 4 .red permS)
    fun s c xs => issueStores (atomIssue s c xs) c xs fun t va locs =>
      c.event [t.rank] (.red o) va locs .rlx k (regBytes t b.toNat 1) none false (t.getC cn.toNat) none

/-- R294: cas. -/
def execCas (g : Guard) (d : BitVec 6) (cn : BitVec 4) (b : BitVec 6) (k : BitVec 3) (z : BitVec 1) (s : State) : Out :=
  let n := if z == 0 then 1 else 2
  laneMem s g (fun c => c.vOk (((List.range n).map (· + d.toNat)) ++ (List.range n).map (· + b.toNat)) && c.cOk [cn.toNat])
    true cn.toNat (atomAccess cn.toNat (4 * n) .atomic (permL ||| permS))
    fun s c xs => issueLoads (atomIssue s c xs) c xs true fun rb t va locs =>
      c.event [t.rank] .cas va locs .rlx k (regBytes t d.toNat n ++ regBytes t b.toNat n) none false (t.getC cn.toNat)
        (some (rb, t.rank, .words d.toNat n))

/-! ### Uniform accesses (R144) -/

/-- R144: one access for the strand, checked with k[N]; a failure files every present thread. -/
def uniMem (s : State) (k : BitVec 4) (long : Bool) (req : Ctx → Access)
    (apply : State → Ctx → Nat → List (Loc × Nat) → State) : Out :=
  inCtx s fun c =>
    if barred s c then s
    else
      let body := fun (s : State) =>
        let a := req c
        let rank := ((lowestRankOf (c.threads s)).map (·.rank)).getD 0
        let (s, r) := checkAccess s (c.who s rank) a
        match c.p.probe.head? with
        | some l => match l.cause with
          | some cause => fileAllWith s c (accessFailure cause a.addr c.tm.asid (16 + k.toNat))
          | none => finish (withAnswers s { c with p := { c.p with probe := [{ l with rank := (c.ranks s).headD 0 }] } } fun s =>
              apply s c a.addr.toNat []) c
        | none => match r with
          | .error cause => fileAllWith s c (accessFailure cause a.addr c.tm.asid (16 + k.toNat))
          | .ok locs =>
            if asksElsewhere c.tm.tid a.kind locs then askFirst s c fun s => apply s c a.addr.toNat locs
            else finish (apply s c a.addr.toNat locs) c
      if long then afterRbRoom s c body else body s
where
  /-- The thread whose thread-local slice a uniform access of space 0xB takes: the lowest present rank. -/
  lowestRankOf : List Thread → Option Thread
    | [] => none
    | t :: ts => match lowestRankOf ts with
      | some u => if u.rank < t.rank then some u else some t
      | none => some t

/-- The access of a uniform load or store. -/
def uniAccess (c : Ctx) (k : BitVec 4) (o : BitVec 11) (size : Nat) (store whole : Bool) (perm : BitVec 8) : Access :=
  let cap := c.st.getK k.toNat
  { kind := if store then .store else .load, cap := cap, addr := (cap.addr : Int) + o.toInt * size, size := size
    perm := perm, natural := true, whole := whole, fe := false, engine := false }

/-- R144, R302: a uniform load is one event of every present thread; its result is the strand's. -/
def uniLoad (k : BitVec 4) (o : BitVec 11) (size : Nat) (f : LoadFmt) (isCap : Bool) (s : State) : Out :=
  uniMem s k true (fun c => uniAccess c k o size false isCap permL) fun s c va locs =>
    let rb := nextRbOf s c
    let cap := c.st.getK k.toNat
    let s := exposeAccess s c.tm.tid va false locs
    let s := pushRb s c ((c.ranks s).map fun r => ⟨r, true, [], none, BitVec.ofNat 64 va, none⟩) [] false none
    issueEvent s (c.event (c.ranks s) .load va locs .plain 0 [] none (isCap && cap.has permLC) cap
      (some (rb, (c.ranks s).headD 0, f)))

/-- R144: a uniform store. -/
def uniStore (k : BitVec 4) (o : BitVec 11) (size : Nat) (data : Ctx → List Byte) (tag : Ctx → Option Bool) (s : State) : Out :=
  uniMem s k false (fun c => uniAccess c k o size true (tag c).isSome (if tag c = some true then permS ||| permSC else permS))
    fun s c va locs =>
      issueEvent (exposeAccess s c.tm.tid va true locs)
        (c.event (c.ranks s) .store va locs .plain 0 (data c) (tag c) false (c.st.getK k.toNat) none)

/-- R144 sz 0. -/
def execUldW (d : BitVec 6) (k : BitVec 4) (o : BitVec 11) (s : State) : Out := uniLoad k o 4 (.sWord d.toNat) false s
/-- R144 sz 1. -/
def execUldD (d : BitVec 6) (k : BitVec 4) (o : BitVec 11) (s : State) : Out := uniLoad k o 8 (.sDword d.toNat) false s
/-- R144 sz 2. -/
def execUldC (d : BitVec 4) (k : BitVec 4) (o : BitVec 11) (s : State) : Out := uniLoad k o 16 (.capK d.toNat) true s
/-- R144 sz 3. -/
def execUstW (d : BitVec 6) (k : BitVec 4) (o : BitVec 11) (s : State) : Out :=
  uniStore k o 4 (fun c => bytesOfNat 4 (c.st.getS d.toNat).toNat) (fun _ => none) s
/-- R144 sz 4. -/
def execUstD (d : BitVec 6) (k : BitVec 4) (o : BitVec 11) (s : State) : Out :=
  uniStore k o 8 (fun c => bytesOfNat 8 (c.st.getS d.toNat).toNat) (fun _ => none) s
/-- R144 sz 5. -/
def execUstC (d : BitVec 4) (k : BitVec 4) (o : BitVec 11) (s : State) : Out :=
  uniStore k o 16 (fun c => (c.st.getK d.toNat).toBytes) (fun c => some (c.st.getK d.toNat).tag) s

end Sys2Proof.Machine
end

