-- ==== Sys2Proof/Machine/Accum.lean ====
section
/-! DEFINITION. Accumulator arithmetic: A56 values, the four-product step of every matrix instruction, narrowing, widening
and decay (R84 to R86, R229, R232). -/

namespace Sys2Proof.Machine

/-! ### Exact sums of products (R85) -/

/-- The product of two elements. Zero times infinity is a NaN. -/
def prodVal : FVal → FVal → FVal
  | .fin n m e, .fin k l f => .fin (n ^^ k) (m * l) (e + f)
  | .fin n m _, .inf k => if m == 0 then .nan a56.nan else .inf (n ^^ k)
  | .inf n, .fin k m _ => if m == 0 then .nan a56.nan else .inf (n ^^ k)
  | .inf n, .inf k => .inf (n ^^ k)
  | .nan c, _ => .nan c
  | _, .nan c => .nan c

/-- A signed integer m·2^(e − q) for q ≤ e. -/
def alignTo (q : Int) (neg : Bool) (m : Nat) (e : Int) : Int :=
  let x : Int := (m * 2 ^ (e - q).toNat : Nat)
  if neg then -x else x

/-- The least exponent among finite values. -/
def leastExp : Int → List FVal → Int
  | q, [] => q
  | q, .fin _ _ e :: vs => leastExp (min q e) vs
  | q, _ :: vs => leastExp q vs

/-- The exact sum of the finite values in units of 2^q. -/
def sumAt (q : Int) : List FVal → Int
  | [] => 0
  | .fin n m e :: vs => alignTo q n m e + sumAt q vs
  | _ :: vs => sumAt q vs

def FVal.isNan : FVal → Bool
  | .nan _ => true
  | _ => false

def FVal.isInf (neg : Bool) : FVal → Bool
  | .inf n => n == neg
  | _ => false

/-- A zero with the sign −. -/
def FVal.negZero : FVal → Bool
  | .fin n m _ => n && m == 0
  | _ => false

/-- R85: one floating step: ToA56 of the accumulator and the products, summed exactly. -/
def stepA56 (acc : Nat) (ps : List FVal) : Nat :=
  let vs := a56.decode acc :: ps
  if vs.any FVal.isNan then a56.nan
  else
    let up := vs.any (FVal.isInf false)
    let down := vs.any (FVal.isInf true)
    if up && down then a56.nan
    else if up || down then a56.signed down a56.inf
    else
      let q := leastExp 0 vs
      let x := sumAt q vs
      if x = 0 then a56.signed (vs.all FVal.negZero) 0
      else (a56.round .rn (decide (x < 0)) x.natAbs q).1

/-- R84: an accumulator element as a 56-bit two's-complement integer. -/
def intA56 (acc : Nat) : Int := if acc < 2 ^ 55 then (acc : Int) else (acc : Int) - (2 ^ 56 : Nat)

/-- An element of S8 as an integer. -/
def FVal.toInt : FVal → Int
  | .fin n m e => alignTo (min e 0) n m e
  | _ => 0

/-- R85: one integer step, and whether the exact sum left the 56-bit range. -/
def stepInt (acc : Nat) (ps : List FVal) : Nat × Bool :=
  let x := intA56 acc + (ps.map FVal.toInt).foldl (· + ·) 0
  ((x % (2 ^ 56 : Nat)).toNat, decide (x < -(2 ^ 55 : Nat)) || decide ((2 ^ 55 : Nat) ≤ x))

/-- R210: the bits that a written element sets: inf, nan, ovf. -/
def statOf (integer ovf : Bool) (x : Nat) : BitVec 4 :=
  if integer then (if ovf then 1 else 0)
  else match a56.decode x with
    | .inf _ => 4
    | .nan _ => 2
    | _ => 0

/-- R85: an output element over the products in steps of four, and whether an integer step overflowed. -/
def dotSteps (integer : Bool) : Nat → Nat → Bool → List FVal → Nat × Bool
  | 0, acc, ovf, _ => (acc, ovf)
  | n + 1, acc, ovf, ps =>
    if ps.isEmpty then (acc, ovf)
    else if integer then
      let (a, o) := stepInt acc (ps.take 4)
      dotSteps integer n a (ovf || o) (ps.drop 4)
    else dotSteps integer n (stepA56 acc (ps.take 4)) ovf (ps.drop 4)

/-- R85: one output element from a row of A and a row of B, with the bits of sr.mstat that it sets. -/
def dotElem (integer : Bool) (acc : Nat) (xs ys : List FVal) : Nat × BitVec 4 :=
  let (x, o) := dotSteps integer (xs.length / 4 + 1) acc false (xs.zipWith prodVal ys)
  (x, statOf integer o x)

/-! ### Narrowing and widening (R86, R229) -/

/-- R86: an accumulator element in a destination type: its code, its flags, and whether `.sat` replaced it. -/
def narrowA56 (ty : Nat) (sat : Bool) (x : Nat) : Nat × Flags × Bool :=
  match fmtOf ty with
  | none =>
    let v := intA56 x
    let c := if sat then clampInt (-(2 ^ 31 : Nat)) ((2 ^ 31 : Nat) - 1) v else v
    (intImage c, 0, c != v)
  | some f =>
    match a56.decode x with
    | .nan _ => (f.nan, 0, false)
    | .inf n => if sat then (f.signed n f.max, 0, true) else (f.signed n f.inf, if f.noInf then fNV else 0, false)
    | .fin n m e =>
      let (r, fl) := f.round .rn n m e
      if sat && fl &&& fOF != 0 then (f.signed n f.max, fl, true) else (r, fl, false)

/-- R229: a value of a type as an accumulator element, exactly. -/
def widenA56 (ty x : Nat) : Nat :=
  match fmtOf ty with
  | none => (sextNat32 x % (2 ^ 56 : Nat)).toNat
  | some f =>
    match f.decode x with
    | .nan _ => a56.nan
    | .inf n => a56.signed n a56.inf
    | .fin n m e => (a56.round .rn n m e).1
where
  /-- A 32-bit value read as signed. -/
  sextNat32 (x : Nat) : Int := if x % 2 ^ 32 < 2 ^ 31 then (x % 2 ^ 32 : Nat) else (x % 2 ^ 32 : Nat) - (2 ^ 32 : Nat)

/-- R232: ToA56(e·f) with the factor as f32. -/
def decayA56 (x factor : Nat) : Nat :=
  match prodVal (a56.decode x) (f32.decode factor) with
  | .nan _ => a56.nan
  | .inf n => a56.signed n a56.inf
  | .fin n m e => (a56.round .rn n m e).1

end Sys2Proof.Machine
end

