-- ==== Sys2Proof/Machine/Layout.lean ====
section
/-! DEFINITION. The layout cache and layout records (R221, R222, R252, R315), and what a stream of weight rows computes
(R223, R224, R226). -/

namespace Sys2Proof.Machine

/-! ### The layout cache (R315) -/

/-- The line of memory that a record at a place is, where it lies in memory. -/
def locLine : Loc → Option Nat
  | .phys pa _ => some (lineOf pa)
  | _ => none

/-- The team's staged line of a record. -/
def stagedRecord (tm : Team) (loc : Loc) : Option StagedLine := (locLine loc).bind (stagedLine tm)

/-- LayoutFill: the cache takes a copy of the record at a place from its PoC. None where the place's owner is gone (R264). -/
def fillLayout (s : State) (loc : Loc) : State × Option LayoutCopy :=
  match readLoc s none loc 64 with
  | (s, none) => (s, none)
  | (s, some g) =>
    let covers := fun (e : MemEv) => e.kind.writes && e.locs.any fun x => locsMeet x.1 x.2 loc 64
    let copy : LayoutCopy :=
      { loc := loc, bytes := g.bytes, tag := g.tag, poison := g.poison, filled := s.run.nextEv
        stores := (s.mem.events.filter covers).map fun e => (e.sid, e.id)
        held := s.teams.filterMap fun tm => (stagedRecord tm loc).map fun x => (tm.tid, x.since) }
    ({ s with mem := { s.mem with layout := (s.mem.layout.filter fun x => x.loc != loc) ++ [copy] } }, some copy)

/-- R315: a copy may serve a read by strand `sid` of `tm` whose latest lfence has number `lf`, in a launch that began at
`began`. -/
def layoutUsable (tm : Team) (sid lf began : Nat) (x : LayoutCopy) : Bool :=
  decide (began ≤ x.filled) && decide (lf ≤ x.filled) && !(x.stores.any fun y => y.1 == sid && decide (y.2 < lf)) &&
    x.held.all fun y => y.1 != tm.tid || decide (lf ≤ y.2) || (stagedRecord tm x.loc).any fun l => l.since == y.2

/-- R252: the team's staged bytes over a copy's; those staged before the lfence always, later ones by choice. -/
def overlayStaged (s : State) (tm : Team) (lf : Nat) (x : LayoutCopy) : Got :=
  match x.loc with
  | .phys pa _ =>
    let use := match stagedLine tm (lineOf pa) with
      | some l => decide (l.since < lf) || Config.pick s.run.tick (0x5000 + pa) % 2 == 0
      | none => false
    let bytes := (List.range 64).map fun i =>
      let b := (x.bytes[i]?).getD 0
      if use then (stagedByte tm (pa + i)).getD b else b
    ⟨bytes, [], if use then (stagedTag tm (pa / 16)).getD x.tag else x.tag, x.poison⟩
  | _ => ⟨x.bytes, [], x.tag, x.poison⟩

/-- A number of a place, by which its choices are told apart. -/
def locKey : Loc → Nat
  | .phys pa _ => pa
  | .act t off => 2 ^ 60 + 2 ^ 30 * t + off
  | .wgt t off => 2 ^ 61 + 2 ^ 30 * t + off
  | .remote _ va => va.toNat
  | .window unit u => 65536 * unit + u
  | .sys va => va.toNat

/-- LayoutRead of a record: none while a store that must come first is still pending. A usable copy may serve, and a fresh
one may be filled. A record whose owner is gone has no bytes. -/
def layoutRead (s : State) (tm : Team) (sid lf began : Nat) (loc : Loc) : State × Option Got :=
  let old := s.mem.layout.find? fun x => x.loc == loc && layoutUsable tm sid lf began x
  match old, fillLayout s loc with
  | some x, (s', some fresh) =>
    if Config.pick s.run.tick (0x4000 + locKey loc) % 2 == 0 then (s, some (overlayStaged s tm lf x))
    else if layoutUsable tm sid lf began fresh then (s', some (overlayStaged s' tm lf fresh))
    else (s, some (overlayStaged s tm lf x))
  | some x, (_, none) => (s, some (overlayStaged s tm lf x))
  | none, (s', some fresh) => if layoutUsable tm sid lf began fresh then (s', some (overlayStaged s' tm lf fresh)) else (s, none)
  | none, (s', none) => (s', some ⟨List.replicate 64 0, [], false, none⟩)

/-- R222, R252: a store of a strand to a record that its latest lfence puts before the read is still pending. -/
def recordHeld (s : State) (sid lf : Nat) (loc : Loc) : Bool :=
  s.mem.events.any fun e => e.sid == sid && decide (e.id < lf) && e.kind.writes && e.locs.any fun x => locsMeet x.1 x.2 loc 64

/-- R222, R315: a record at the place of a checked 64-byte access, read through the layout cache. `far` is what another
package has answered for a record in space 0xC. -/
def recordRead (s : State) (tm : Team) (sid lf began : Nat) (locs : List (Loc × Nat)) (far : Option Got) : State × Option Got :=
  match far, locs with
  | some g, (loc, _) :: _ => if recordHeld s sid lf loc then (s, none) else (s, some g)
  | some g, [] => (s, some g)
  | none, [(loc, _)] => layoutRead s tm sid lf began loc
  | none, locs => readLocs s (some tm) locs

/-! ### Records (R221) -/

/-- A layout record's fields; `ok` where every value lies in its column and bytes 32 to 63 are zero. -/
structure LayoutRec where
  wcap : Cap
  rows : Nat
  rowbytes : Nat
  sstride  : Nat
  dstride  : Nat
  ok : Bool
  /-- The same without the check of dstride, which mv.stream ignores. -/
  okStream : Bool
  deriving DecidableEq, Repr

/-- R221: the record of 64 bytes; `tag` is wcap's. -/
def parseRecord (bs : List Byte) (tag : Bool) : LayoutRec :=
  let w := fun i => natOfBytes ((bs.drop i).take 4)
  let inRange := fun x lo hi => decide (lo ≤ x) && decide (x ≤ hi)
  let okStream := inRange (w 16) 1 4095 && inRange (w 20) 1 4095 && inRange (w 24) 0 1048575 && (bs.drop 32).all (· == 0)
  { wcap := capOfBytes (bs.take 16) tag, rows := w 16, rowbytes := w 20, sstride := w 24, dstride := w 28
    ok := okStream && inRange (w 28) 0 1048575, okStream := okStream }

/-! ### Tiles (R188, R215, R217) -/

/-- R188: element width code, rows, row bytes and window of a tile's control register. -/
def Tile.ew (t : Tile) : Nat := (t.ctl.extractLsb' 2 2).toNat
def Tile.rows (t : Tile) : Nat := (t.ctl.extractLsb' 4 4).toNat + 1
def Tile.rb (t : Tile) : Nat := (t.ctl.extractLsb' 8 3).toNat
def Tile.rowBytes (t : Tile) : Nat := 16 * (t.rb + 1)
def Tile.win (t : Tile) : Nat := (t.ctl.extractLsb' 11 3).toNat

/-- A tile of the team. -/
def Team.tile (tm : Team) (n : Nat) : Tile := sget zeroTile tm.tiles n

/-- An accumulator element's bits. -/
def Team.acc (tm : Team) (tile e : Nat) : Nat := (sget 0 tm.accs (256 * tile + e)).toNat

/-- R278, R279: the poison of what a matrix instruction reads of a tile, and of elements of an accumulator tile. -/
def Team.tileMark (tm : Team) (n : Nat) : Option (BitVec 12) :=
  let t := tm.tile n
  let read := fun (w : Nat) => w / 512 == n && decide (w % 512 / 32 < t.rows) && decide (4 * (w % 32) < t.rowBytes)
  (tm.tilePoison.filter fun x => read x.1).foldl (fun p x => minPoison p x.2) none
def Team.accMark (tm : Team) (n : Nat) (slots : List Nat) : Option (BitVec 12) :=
  slots.foldl (fun p e => minPoison p (sget none tm.accPoison (256 * n + e))) none

/-- The byte of a tile. -/
def Tile.byte (t : Tile) (off : Nat) : Byte := sget 0 t.data off

/-- R217: element `k` of row `row` as a number, for elements of whole bytes. -/
def Tile.elem (t : Tile) (size row k : Nat) : Nat := natOfBytes (sbytes t.data (128 * row + size * k) size)

/-- The element formats of the matrix instructions (R216, R223). -/
inductive ElemFmt where
  | fp (f : Fmt)
  | s8
  deriving DecidableEq, Repr

/-- Bytes of an element. -/
def ElemFmt.size : ElemFmt → Nat
  | .fp f => (f.sb + 1) / 8
  | .s8 => 1

/-- R219: the exact value of an element; subnormals stay whole. -/
def ElemFmt.value : ElemFmt → Nat → FVal
  | .fp f, x => f.decode x
  | .s8, x => .fin (decide (128 ≤ x % 256)) (if 128 ≤ x % 256 then 256 - x % 256 else x % 256) 0

/-- The first `k` elements of a tile row. -/
def Tile.rowVals (t : Tile) (f : ElemFmt) (k row : Nat) : List FVal :=
  (List.range k).map fun i => f.value (t.elem f.size row i)

/-! ### Streams (R223, R224) -/

/-- R223: the vector elements of a weight format. -/
def streamVec (wf : Nat) : ElemFmt :=
  match wf with
  | 0 => .fp e4m3
  | 1 => .fp e5m2
  | 2 => .fp bf16
  | 3 => .fp f16
  | 4 => .s8
  | _ => .fp bf16

/-- R224 step 2: elements of a weight row, when the shape is one that the format allows. -/
def streamK (wf rowbytes : Nat) : Option Nat :=
  if wf == 5 then
    if rowbytes % 24 == 0 && decide (rowbytes * 4 / 3 ≤ 64) then some (rowbytes * 4 / 3) else none
  else
    let size := (streamVec wf).size
    if rowbytes % size == 0 && rowbytes / size % 4 == 0 then some (rowbytes / size) else none

/-- R224 step 2: rows, row bytes and the vector tile. -/
def streamShape (wf n : Nat) (r : LayoutRec) (v : Tile) : Option Nat :=
  match streamK wf r.rowbytes with
  | some k =>
    let size := (streamVec wf).size
    if r.okStream && decide (r.rows ≤ 16) && v.ew == size && decide (n ≤ v.rows) && decide (k * size ≤ v.rowBytes) then some k
    else none
  | none => none

/-- A weight row's elements (R80, R81, R224). -/
def weightVals (wf k : Nat) (bs : List Byte) : List FVal :=
  if wf == 5 then
    (List.range k).map fun i =>
      let g := (bs.drop (24 * (i / 32))).take 24
      let b := i % 32 / 4
      kn4Value (natOfBytes ((g.drop (16 + b)).take 1)) (natOfBytes ((g.drop (2 * b)).take 2)) (i % 4)
  else
    let f := streamVec wf
    (List.range k).map fun i => f.value (natOfBytes ((bs.drop (f.size * i)).take f.size))

/-- R224: the elements that a stream writes, with their bits of sr.mstat. `old` reads the accumulator under keep. -/
def streamElems (wf n k : Nat) (keep : Bool) (old : Nat → Nat) (rows : List (List Byte)) (v : Tile) :
    List (Nat × Nat × BitVec 4) :=
  let vecs := (List.range n).map (v.rowVals (streamVec wf) k)
  (rows.map (weightVals wf k)).zipIdx.flatMap fun (xs, i) =>
    vecs.zipIdx.map fun (ys, j) =>
      let (x, m) := dotElem (wf == 4) (if keep then old (16 * i + j) else 0) xs ys
      (16 * i + j, x, m)

end Sys2Proof.Machine
end

