-- ==== Sys2Proof/Machine/Matrix.lean ====
section
/-! DEFINITION. Matrix, tile and accumulator instructions (R206 to R233). -/

namespace Sys2Proof.Machine

/-! ### Quarters (R206 to R208) -/

/-- An active quarter: its number, its representative and its active threads. -/
structure Quarter where
  q   : Nat
  rep : Thread
  lanes : List Thread

/-- R206: the active quarters of the active threads, which stand in slot order. -/
def quartersOf (ts : List Thread) : List Quarter :=
  (List.range 4).filterMap fun q =>
    match ts.filter fun t => t.slot / 8 == q with
    | [] => none
    | t :: rest => some ⟨q, t, t :: rest⟩

/-- R207: the offset that sr.qtile gives a quarter: `which` is 0 for dA, 1 for dB, 2 for dacc. -/
def Ctx.qoff (c : Ctx) (q which : Nat) : Nat := ((sget 0 c.st.qtile q).extractLsb' (4 * which) 4).toNat

/-- What a quarter's operation gives: its destination, its writes, its bits of sr.mstat and its poison. -/
structure QDone where
  dest   : Nat
  writes : List Write
  stat   : BitVec 4
  poison : Option (BitVec 12)

/-- A quarter with its outcome. -/
abbrev QRes := Quarter × Except Failure QDone

/-- The representatives that are filed (R206). -/
def quarterFails (rs : List QRes) : List (Thread × Failure) :=
  rs.filterMap fun (q, r) => match r with
    | .error f => some (q.rep, f)
    | .ok _ => none

/-- R208: the results that stand: of the active quarters with one destination, the highest-numbered one's. Where that quarter
fails it writes nothing, and the results of the lower ones are discarded all the same (DEDUCED 59). -/
def keptQuarters (dest : Quarter → Nat) : List QRes → List (Quarter × QDone)
  | [] => []
  | (q, r) :: rest =>
    let kept := keptQuarters dest rest
    match r with
    | .error _ => kept
    | .ok d => if rest.any fun x => dest x.1 == dest q then kept else (q, d) :: kept

/-- The long result of the quarters that stand (R41, R210). -/
def pushQuarters (s : State) (c : Ctx) (dest : Quarter → Nat) (rs : List QRes) : State :=
  let kept := keptQuarters dest rs
  let stat := kept.foldl (fun (m : BitVec 4) x => m ||| x.2.stat) 0
  pushRb s c (kept.map fun x => ⟨x.1.rep.rank, false, [], x.2.poison, 0, none⟩)
    (kept.flatMap (·.2.writes) ++ (if stat == 0 then [] else [.mstat stat])) false none

/-- R44, R206: a quarter operation: after the marker where a representative fails, the results of the quarters that pass,
then the filings. `dest` is a quarter's effective destination. `f` answers none where a memory access must wait. -/
def quarterOp (s : State) (g : Guard) (legal : Ctx → List Quarter → Bool) (dest : Ctx → Quarter → Nat)
    (f : State → Ctx → Quarter → State × Option (Except Failure QDone)) : Out :=
  inCtx s fun c =>
    if !(c.notFresh && legal c (quartersOf (c.active s g))) then fileAll s c 0x01
    else afterRbRoom s c fun s =>
      match runAll c s (quartersOf (c.active s g)) with
      | (s, some rs) =>
        let go := fun (s : State) => finish (fileThreads (pushQuarters s c (dest c) rs) c.at (quarterFails rs)) c
        if (quarterFails rs).isEmpty then go s else afterMarker s c false go
      | (s, none) => s
where
  /-- The quarters in turn. -/
  runAll (c : Ctx) (s : State) : List Quarter → State × Option (List QRes)
    | [] => (s, some [])
    | q :: qs =>
      match f s c q with
      | (s, none) => (s, none)
      | (s, some r) =>
        match runAll c s qs with
        | (s, some rs) => (s, some ((q, r) :: rs))
        | (s, none) => (s, none)

/-- A quarter operation that touches no memory. -/
def quarterPure (s : State) (g : Guard) (legal : Ctx → List Quarter → Bool) (dest : Ctx → Quarter → Nat)
    (f : Ctx → Quarter → Except Failure QDone) : Out :=
  quarterOp s g legal dest fun s c q => (s, some (f c q))

/-- R207, R208: the effective destination of a quarter: an accumulator, or a tile. -/
def accDest (d : Nat) (c : Ctx) (q : Quarter) : Nat := d + c.qoff q.q 2
def tileDest (t : Nat) (c : Ctx) (q : Quarter) : Nat := t + c.qoff q.q 0

/-- R207: effective tiles and accumulators of the active quarters lie within the allocation. -/
def inTiles (c : Ctx) (qs : List Quarter) (t which : Nat) : Bool := c.tOk (qs.map fun q => t + c.qoff q.q which)
def inAccs (c : Ctx) (qs : List Quarter) (a : Nat) : Bool := c.aOk (qs.map fun q => a + c.qoff q.q 2)

/-! ### mma (R216 to R219) -/

/-- R219: the 256 elements of a result from the rows of A and of B. -/
def mmaResult (tm : Team) (integer keep : Bool) (dest : Nat) (xs ys : List (List FVal)) (mark : Option (BitVec 12)) : QDone :=
  let cells := xs.zipIdx.flatMap fun (x, i) => ys.zipIdx.map fun (y, j) =>
    let (v, m) := dotElem integer (if keep then tm.acc dest (16 * i + j) else 0) x y
    (16 * i + j, v, m)
  { dest := dest, writes := cells.map fun e => .acc dest e.1 (BitVec.ofNat 56 e.2.1)
    stat := cells.foldl (fun (m : BitVec 4) e => m ||| e.2.2) 0
    poison := if keep then minPoison mark (tm.accMark dest (List.range 256)) else mark }

/-- R217: the shape of an operand tile of whole-byte elements. -/
def mmaShape (f : ElemFmt) (t : Tile) : Bool := t.ew == f.size && t.rows == 16 && t.rb == 7

/-- R219: an mma of whole-byte elements. -/
def mmaBytes (g : Guard) (f : ElemFmt) (d a b : BitVec 4) (keep : BitVec 1) (s : State) : Out :=
  quarterPure s g (fun c qs => inTiles c qs a.toNat 0 && inTiles c qs b.toNat 1 && inAccs c qs d.toNat) (accDest d.toNat) fun c q =>
    let ta := c.tm.tile (a.toNat + c.qoff q.q 0)
    let tb := c.tm.tile (b.toNat + c.qoff q.q 1)
    if mmaShape f ta && mmaShape f tb then
      let k := 128 / f.size
      .ok (mmaResult c.tm (f == .s8) (keep == 1) (d.toNat + c.qoff q.q 2)
        ((List.range 16).map (ta.rowVals f k)) ((List.range 16).map (tb.rowVals f k))
        (minPoison (c.tm.tileMark (a.toNat + c.qoff q.q 0)) (c.tm.tileMark (b.toNat + c.qoff q.q 1))))
    else .error (failure 0x01)

/-- R216 0x29. -/
def execMmaE4m3 (g : Guard) (d a b : BitVec 4) (k : BitVec 1) (s : State) : Out := mmaBytes g (.fp e4m3) d a b k s
/-- R216 0x2A. -/
def execMmaE5m2 (g : Guard) (d a b : BitVec 4) (k : BitVec 1) (s : State) : Out := mmaBytes g (.fp e5m2) d a b k s
/-- R216 0x2B. -/
def execMmaBf16 (g : Guard) (d a b : BitVec 4) (k : BitVec 1) (s : State) : Out := mmaBytes g (.fp bf16) d a b k s
/-- R216 0x2C. -/
def execMmaF16 (g : Guard) (d a b : BitVec 4) (k : BitVec 1) (s : State) : Out := mmaBytes g (.fp f16) d a b k s
/-- R216 0x2E. -/
def execMmaS8 (g : Guard) (d a b : BitVec 4) (k : BitVec 1) (s : State) : Out := mmaBytes g .s8 d a b k s

/-- R218: the thread whose register gives a scale: of the slot, or of its home rank where the slot holds none. -/
def scaleThread (s : State) (c : Ctx) (slot : Nat) : Option Thread :=
  match s.threads.find? fun t => t.sid == c.st.sid && t.slot == slot with
  | some t => some t
  | none => threadOf s c.tm.tid (32 * c.st.num + slot)

/-- R218: the scale byte of row `row`, block `blk`; `off` is 0 for A and 4 for B. -/
def scaleByte (s : State) (c : Ctx) (q base off row blk : Nat) : Nat :=
  let reg := base + off + 2 * (row % 2) + blk / 4
  match scaleThread s c (8 * q + row / 2) with
  | some t => (t.getV reg).toNat / 2 ^ (8 * (blk % 4)) % 256
  | none => 0

/-- R217, R218: the 32 elements of a KN4 tile's window row with their scales. -/
def kn4Row (s : State) (c : Ctx) (q base off : Nat) (t : Tile) (row : Nat) : List FVal :=
  (List.range 32).map fun k =>
    let group := natOfBytes (sbytes t.data (128 * row + 16 * t.win + 2 * (k / 4)) 2)
    kn4Value (scaleByte s c q base off row (k / 4)) group (k % 4)

/-- R217: the shape of a KN4 operand tile. -/
def kn4Shape (t : Tile) : Bool := t.ew == 0 && t.rows == 16 && decide (t.win ≤ t.rb)

/-- R216 0x2D, R218. -/
def execMmaKn4 (g : Guard) (d a b : BitVec 4) (vs : BitVec 5) (ss : BitVec 2) (keep : BitVec 1) (s : State) : Out :=
  let base := 2 * vs.toNat + 4 * ss.toNat
  quarterOp s g (fun c qs => inTiles c qs a.toNat 0 && inTiles c qs b.toNat 1 && inAccs c qs d.toNat && c.vOk [base + 7])
    (accDest d.toNat)
    fun s c q =>
      let ta := c.tm.tile (a.toNat + c.qoff q.q 0)
      let tb := c.tm.tile (b.toNat + c.qoff q.q 1)
      if kn4Shape ta && kn4Shape tb then
        (s, some (.ok (mmaResult c.tm false (keep == 1) (d.toNat + c.qoff q.q 2)
          ((List.range 16).map (kn4Row s c q.q base 0 ta)) ((List.range 16).map (kn4Row s c q.q base 4 tb))
          (minPoison (c.tm.tileMark (a.toNat + c.qoff q.q 0)) (c.tm.tileMark (b.toNat + c.qoff q.q 1))))))
      else (s, some (.error (failure 0x01)))

/-! ### mv.stream (R223, R224) -/

/-- Checks of one access of a quarter's representative. -/
def repCheck (s : State) (c : Ctx) (t : Thread) (reg : Nat) (cap : Cap) (addr : Int) (size align : Nat) :
    State × Except Failure (List (Loc × Nat)) :=
  match checkAccess s (c.who s t.rank)
      { kind := .load, cap := cap, addr := addr, size := size, perm := permL, natural := false, whole := false
        fe := false, engine := false, align := align } with
  | (s, .error cause) => (s, .error (accessFailure cause addr c.tm.asid reg))
  | (s, .ok locs) => (s, .ok locs)

/-- The bytes of a checked access as they stand now. A place whose owner is gone has none (R264). -/
def readNow (s : State) (tm : Team) (locs : List (Loc × Nat)) (n : Nat) : State × Got :=
  match readLocs s (some tm) locs with
  | (s, some g) => (s, g)
  | (s, none) => (s, ⟨List.replicate n 0, [], false, none⟩)

/-- R44, R289: an access of a quarter's representative in space 0xC: its answer, or the check that failed at the target; none
until it has been answered. Each access is asked for once, and the instruction stays at its PC meanwhile. -/
def farAnswer (s : State) (c : Ctx) (t : Thread) (reg : Nat) (cap : Cap) (addr : Nat) (locs : List (Loc × Nat)) (keepTag : Bool) :
    State × Option (Except Failure Got) :=
  match c.p.probe.find? fun l => l.rank == t.rank && l.va == addr with
  | some l => match l.cause with
    | some cause => (s, some (.error (accessFailure cause addr c.tm.asid reg)))
    | none => (s, some (.ok ⟨l.bytes, [], l.tag, l.poison⟩))
  | none =>
    let ask : ProbeLane := { rank := t.rank, va := addr, ev := s.run.nextEv, answered := false, cause := none, bytes := []
                             tag := false, poison := none }
    let s := issueEvent s fun id => { c.event [t.rank] .load addr locs .plain 0 [] none keepTag cap none id with probe := true }
    (updPath s c.st.sid c.p.pid fun p => { p with probe := p.probe ++ [ask] }, none)

/-- An access in space 0xC. -/
def farLocs (locs : List (Loc × Nat)) : Bool := locs.any fun x => match x.1 with
  | .remote _ _ => true
  | _ => false

/-- A write of the thread to a place, earlier in its program order, is pending (R307). -/
def writePending (s : State) (c : Ctx) (t : Thread) (locs : List (Loc × Nat)) : Bool :=
  s.mem.events.any fun e => e.tid == c.tm.tid && e.owners.contains t.rank && e.kind.writes &&
    e.locs.any fun x => locs.any fun y => locsMeet x.1 x.2 y.1 y.2

/-- R224 step 3: the weight rows from `i` on: their bytes and poison, or the failure of one. None while an earlier store
of the representative to a row is pending. -/
def weightRows (s : State) (c : Ctx) (t : Thread) (reg : Nat) (r : LayoutRec) :
    Nat → Nat → State × Option (Except Failure (List (List Byte) × Option (BitVec 12)))
  | 0, _ => (s, some (.ok ([], none)))
  | n + 1, i =>
    let addr : Int := (r.wcap.addr : Int) + i * r.sstride
    match repCheck s c t reg r.wcap addr r.rowbytes 16 with
    | (s, .error f) => (s, some (.error f))
    | (s, .ok locs) =>
      if writePending s c t locs then (s, none)
      else
        let s := exposeAccess s c.tm.tid addr.toNat false locs
        match rowBytes s locs addr.toNat with
        | (s, none) => (s, none)
        | (s, some (.error f)) => (s, some (.error f))
        | (s, some (.ok g)) =>
          match weightRows s c t reg r n (i + 1) with
          | (s, some (.ok (rows, p))) => (s, some (.ok (g.bytes :: rows, minPoison g.poison p)))
          | other => other
where
  /-- The bytes of one row. -/
  rowBytes (s : State) (locs : List (Loc × Nat)) (addr : Nat) : State × Option (Except Failure Got) :=
    if farLocs locs then farAnswer s c t reg r.wcap addr locs false
    else
      let (s, g) := readNow s ((teamOf s c.tm.tid).getD c.tm) locs r.rowbytes
      (s, some (.ok g))

/-- R222, R224 step 1: the record of a quarter. In space 0xC its bytes are another package's answer. -/
def quarterRecord (s : State) (c : Ctx) (t : Thread) (reg : Nat) (cap : Cap) (locs : List (Loc × Nat)) :
    State × Option (Except Failure Got) :=
  let began := ((launchOf s c.tm.launch).map (·.began)).getD 0
  let lf := sget 0 s.eng.lfences c.st.sid
  let record := fun (s : State) (far : Option Got) =>
    match recordRead s ((teamOf s c.tm.tid).getD c.tm) c.st.sid lf began locs far with
    | (s, none) => (s, none)
    | (s, some g) => (s, some (Except.ok g))
  if farLocs locs then
    match farAnswer s c t reg cap cap.addr locs true with
    | (s, none) => (s, none)
    | (s, some (.error f)) => (s, some (.error f))
    | (s, some (.ok g)) => record s (some g)
  else record s none

/-- R223, R224: mv.stream. The record and the weights are read when the instruction issues. -/
def execMvStream (g : Guard) (d v cn : BitVec 4) (wf : BitVec 3) (nv : BitVec 3) (keep : BitVec 1) (s : State) : Out :=
  let n := nv.toNat + 1
  quarterOp s g (fun c qs => inTiles c qs v.toNat 0 && inAccs c qs d.toNat && c.cOk [cn.toNat]) (accDest d.toNat) fun s c q =>
    if barred s c then (s, none)
    else
      let cap := q.rep.getC cn.toNat
      match repCheck s c q.rep cn.toNat cap cap.addr 64 64 with
      | (s, .error f) => (s, some (.error f))
      | (s, .ok locs) =>
        let s := exposeAccess s c.tm.tid cap.addr false locs
        match quarterRecord s c q.rep cn.toNat cap locs with
        | (s, none) => (s, none)
        | (s, some (.error f)) => (s, some (.error f))
        | (s, some (.ok got)) =>
          let r := parseRecord got.bytes (got.tag && cap.has permLC)
          let tile := c.tm.tile (v.toNat + c.qoff q.q 0)
          let dest := d.toNat + c.qoff q.q 2
          match got.poison with
          | some p => (s, some (.ok { dest := dest, writes := [], stat := 0, poison := some p }))
          | none =>
            match streamShape wf.toNat n r tile with
            | none => (s, some (.error (failure 0x01)))
            | some k =>
              match weightRows s c q.rep cn.toNat r r.rows 0 with
              | (s, none) => (s, none)
              | (s, some (.error f)) => (s, some (.error f))
              | (s, some (.ok (rows, p))) =>
                let cells := streamElems wf.toNat n k (keep == 1) (c.tm.acc dest) rows tile
                let mark := if keep == 1 then c.tm.accMark dest (cells.map (·.1)) else none
                (s, some (.ok { dest := dest, writes := cells.map fun e => .acc dest e.1 (BitVec.ofNat 56 e.2.1)
                                stat := cells.foldl (fun (m : BitVec 4) e => m ||| e.2.2) 0
                                poison := minPoison p (minPoison (c.tm.tileMark (v.toNat + c.qoff q.q 0)) mark) }))

/-! ### Tiles (R211 to R215) -/

/-- R211: tcfg. -/
def execTcfg (t : BitVec 4) (a : BitVec 6) (n : BitVec 4) (s : State) : Out :=
  inCtx s fun c =>
    let ts := (List.range (n.toNat + 1)).map (· + t.toNat)
    if c.notFresh && c.tOk ts then
      let w : Word := (c.st.getS a.toNat).setWidth 32 &&& 0x3FFC
      finish (updTeam s c.tm.tid fun tm =>
        { tm with tiles := ts.foldl (fun m i => sput zeroTile m i { sget zeroTile m i with ctl := w }) tm.tiles }) c
    else fileAll s c 0x01

/-- R213: the rows that a lane moves, and the bytes of each. -/
def laneRows (t : Tile) (slot : Nat) : Nat := min 2 (t.rows - 2 * (slot % 8))

/-- R213: the lanes of a tile move that have rows. -/
def moveLanes (c : Ctx) (t : Nat) (ts : List Thread) : List Thread :=
  ts.filter fun u => decide (0 < laneRows (c.tm.tile (t + c.qoff (u.slot / 8) 0)) u.slot)

/-- R213: the access of a lane of a tile move. -/
def moveAccess (t cn : Nat) (load : Bool) (c : Ctx) (u : Thread) : Access :=
  let tile := c.tm.tile (t + c.qoff (u.slot / 8) 0)
  let cap := u.getC cn
  { kind := if load then .load else .store, cap := cap, addr := cap.addr, size := laneRows tile u.slot * tile.rowBytes
    perm := if load then permL else permS, natural := false, whole := false, fe := false, engine := false, align := 16 }

/-- R207, R213: the registers that a tile move names. -/
def moveLegal (g : Guard) (t cn : BitVec 4) (s : State) (c : Ctx) : Bool :=
  c.notFresh && c.cOk [cn.toNat] && inTiles c (quartersOf (c.active s g)) t.toNat 0

/-- R212 op 0, R213: tld. A lane of a quarter whose tile a higher quarter writes moves no row (R208). -/
def execTld (g : Guard) (t cn : BitVec 4) (s : State) : Out :=
  laneMemOn s (moveLegal g t cn s) true cn.toNat (fun s c => moveLanes c t.toNat (c.active s g))
    (moveAccess t.toNat cn.toNat true) fun s c xs =>
      let qs := quartersOf (c.active s g)
      issueLoads s c xs false fun rb u va locs =>
        let q := u.slot / 8
        let tile := t.toNat + c.qoff q 0
        let later := qs.any fun r => decide (q < r.q) && t.toNat + c.qoff r.q 0 == tile
        let x := c.tm.tile tile
        c.event [u.rank] .load va locs .plain 0 [] none false (u.getC cn.toNat)
          (some (rb, u.rank, .rows tile (2 * (u.slot % 8)) x.rowBytes (if later then 0 else laneRows x u.slot)))

/-- R212 op 1, R213: tst. -/
def execTst (g : Guard) (t cn : BitVec 4) (s : State) : Out :=
  laneMemOn s (moveLegal g t cn s) true cn.toNat (fun s c => moveLanes c t.toNat (c.active s g))
    (moveAccess t.toNat cn.toNat false) fun s c xs =>
      let mark := fun (u : Thread) => c.tm.tileMark (t.toNat + c.qoff (u.slot / 8) 0)
      let s := pushRb s c (xs.map fun x => { RBLane.done x.1 [] with poison := mark x.1 }) [] false none
      issueStores s c xs fun u va locs =>
        let x := c.tm.tile (t.toNat + c.qoff (u.slot / 8) 0)
        let data := (List.range (laneRows x u.slot)).flatMap fun r => sbytes x.data (128 * (2 * (u.slot % 8) + r)) x.rowBytes
        c.event [u.rank] .store va locs .plain 0 data none false (u.getC cn.toNat) none

/-- R212 op 2, R214: tzero. -/
def execTzero (g : Guard) (t : BitVec 4) (s : State) : Out :=
  quarterPure s g (fun c qs => inTiles c qs t.toNat 0) (tileDest t.toNat) fun c q =>
    let d := t.toNat + c.qoff q.q 0
    .ok { dest := d, writes := (List.range 2048).map fun i => .tileByte d i 0, stat := 0, poison := none }

/-- R215: element `k` of a row as its bits, `bits` wide. -/
def rowElem (t : Tile) (bits row k : Nat) : Nat :=
  if bits == 4 then (t.byte (128 * row + k / 2)).toNat / 16 ^ (k % 2) % 16
  else natOfBytes (sbytes t.data (128 * row + bits / 8 * k) (bits / 8))

/-- R215: row `j` of the transpose of 16 rows of 16 elements, as bytes. -/
def transRow (t : Tile) (bits j : Nat) : List Byte :=
  if bits == 4 then
    (List.range 8).map fun m => BitVec.ofNat 8 (rowElem t 4 (2 * m) j + 16 * rowElem t 4 (2 * m + 1) j)
  else (List.range 16).flatMap fun i => bytesOfNat (bits / 8) (rowElem t bits i j)

/-- R212 op 3, R215: ttrans. -/
def execTtrans (g : Guard) (t u : BitVec 4) (s : State) : Out :=
  quarterPure s g (fun c qs => inTiles c qs t.toNat 0 && inTiles c qs u.toNat 1) (tileDest t.toNat) fun c q =>
    let d := t.toNat + c.qoff q.q 0
    let td := c.tm.tile d
    let ts := c.tm.tile (u.toNat + c.qoff q.q 1)
    let bits := 4 * 2 ^ ts.ew
    if td.ew == ts.ew && td.rows == 16 && ts.rows == 16 && decide (2 * bits ≤ td.rowBytes) && decide (2 * bits ≤ ts.rowBytes) then
      .ok { dest := d, stat := 0, poison := c.tm.tileMark (u.toNat + c.qoff q.q 1)
            writes := (List.range 16).flatMap fun j => (transRow ts bits j).zipIdx.map fun (b, i) => .tileByte d (128 * j + i) b }
    else .error (failure 0x01)

/-! ### Accumulators (R227 to R233) -/

/-- R228: registers of an accmov by type. -/
def accRegs (ty : Nat) : Nat :=
  match ty with
  | 0 => 8
  | 6 => 8
  | 7 => 4
  | 8 => 4
  | _ => 2

/-- R229: the eight elements of a lane narrowed: its registers, flags, and whether `.sat` replaced one. -/
def narrowLane (tm : Team) (acc slot ty : Nat) (sat : Bool) : List Word × Flags × Bool :=
  let xs := (List.range 8).map fun k => narrowA56 ty sat (tm.acc acc (8 * slot + k))
  let w := accRegs ty
  let per := 8 / w
  let regs := (List.range w).map fun r =>
    BitVec.ofNat 32 (((xs.drop (per * r)).take per).foldr (fun x a => a * 2 ^ (32 / per) + x.1) 0)
  (regs, xs.foldl (fun (f : Flags) x => f ||| x.2.1) 0, xs.any (·.2.2))

/-- R227 dir 0, R229: a narrowing accmov. -/
def execAccmovNarrow (g : Guard) (d : BitVec 6) (a : BitVec 4) (sat : BitVec 1) (ty : BitVec 4) (s : State) : Out :=
  inCtx s fun c =>
    let w := accRegs ty.toNat
    if !(c.notFresh && c.aOk [a.toNat] && c.vOk [d.toNat + w - 1]) then fileAll s c 0x01
    else afterRbRoom s c fun s =>
      let res := fun (t : Thread) =>
        let (regs, fl, _) := narrowLane c.tm a.toNat t.slot ty.toNat (sat == 1)
        fpResult t (regs.zipIdx.map fun (x, i) => .v (d.toNat + i) x) fl
      runLanes s c g (fun _ t => res t) fun s rs =>
        let changed := (passing rs).any fun x => (narrowLane c.tm a.toNat x.1.slot ty.toNat (sat == 1)).2.2
        let mark := fun (t : Thread) => c.tm.accMark a.toNat ((List.range 8).map (8 * t.slot + ·))
        pushRb s c ((passing rs).map fun x => { RBLane.done x.1 x.2.writes with poison := mark x.1 }) (if changed then [.mstat 8] else []) false none

/-- R228: element `k` of a lane's registers. -/
def laneElem (t : Thread) (d ty k : Nat) : Nat :=
  let per := 8 / accRegs ty
  (t.getV (d + k / per)).toNat / 2 ^ (32 / per * (k % per)) % 2 ^ (32 / per)

/-- R227 dir 1, R229: a widening accmov. -/
def execAccmovWiden (g : Guard) (d : BitVec 6) (a : BitVec 4) (ty : BitVec 4) (s : State) : Out :=
  inCtx s fun c =>
    if !(c.notFresh && c.aOk [a.toNat] && c.vOk [d.toNat + accRegs ty.toNat - 1]) then fileAll s c 0x01
    else afterRbRoom s c fun s =>
      let ts := c.active s g
      let ws := ts.flatMap fun t => (List.range 8).map fun k =>
        Write.acc a.toNat (8 * t.slot + k) (BitVec.ofNat 56 (widenA56 ty.toNat (laneElem t d.toNat ty.toNat k)))
      finish (pushRb s c (ts.map fun t => RBLane.done t []) ws false none) c

/-- A short write to accumulators by the active lanes, with bits of sr.mstat. -/
def accShort (s : State) (g : Guard) (legal : Ctx → Bool) (f : Ctx → List Thread → List Write) : Out :=
  inCtx s fun c =>
    if c.notFresh && legal c then finish (strandWrites s c.st (f c (c.active s g))) c else fileAll s c 0x01

/-- R230 op 0, R231: acc.zero. -/
def execAccZero (g : Guard) (a : BitVec 4) (s : State) : Out :=
  accShort s g (fun c => c.aOk [a.toNat]) fun _ ts =>
    if ts.isEmpty then [] else (List.range 256).map fun e => .acc a.toNat e 0

/-- R230 op 1, R232: acc.decay. -/
def execAccDecay (g : Guard) (a : BitVec 4) (d : BitVec 6) (s : State) : Out :=
  accShort s g (fun c => c.aOk [a.toNat] && c.vOk [d.toNat]) fun c ts =>
    ts.flatMap fun t => (List.range 8).flatMap fun k =>
      let e := 8 * t.slot + k
      let x := decayA56 (c.tm.acc a.toNat e) (t.getV d.toNat).toNat
      [.acc a.toNat e (BitVec.ofNat 56 x), .mstat (statOf false false x)]

/-- R233: the access of a lane of a spill or fill. -/
def spillAccess (cn : Nat) (load : Bool) (t : Thread) : Access :=
  let cap := t.getC cn
  { kind := if load then .load else .store, cap := cap, addr := cap.addr, size := 64, perm := if load then permL else permS
    natural := true, whole := true, fe := false, engine := false }

/-- R230 op 2, R233: acc.spill. -/
def execAccSpill (g : Guard) (a cn : BitVec 4) (s : State) : Out :=
  laneMem s g (fun c => c.notFresh && c.aOk [a.toNat] && c.cOk [cn.toNat]) true cn.toNat (spillAccess cn.toNat false)
    fun s c xs =>
      let mark := fun (t : Thread) => c.tm.accMark a.toNat ((List.range 8).map (8 * t.slot + ·))
      let s := pushRb s c (xs.map fun x => { RBLane.done x.1 [] with poison := mark x.1 }) [] false none
      issueStores s c xs fun t va locs =>
        c.event [t.rank] .store va locs .plain 0
          ((List.range 8).flatMap fun k => bytesOfNat 8 (c.tm.acc a.toNat (8 * t.slot + k))) none false (t.getC cn.toNat) none

/-- R230 op 3, R233: acc.fill. -/
def execAccFill (g : Guard) (a cn : BitVec 4) (s : State) : Out :=
  laneMem s g (fun c => c.notFresh && c.aOk [a.toNat] && c.cOk [cn.toNat]) true cn.toNat (spillAccess cn.toNat true)
    fun s c xs => issueLoads s c xs false fun rb t va locs =>
      c.event [t.rank] .load va locs .plain 0 [] none false (t.getC cn.toNat) (some (rb, t.rank, .acc a.toNat t.slot))

end Sys2Proof.Machine
end

