-- ==== Sys2Proof/Machine/Fetch.lean ====
section
/-! DEFINITION. Instruction fetch (R30, R132) and the stepping of a repeat's follower (R47, R48). -/

namespace Sys2Proof.Machine

/-- R132: the check of a fetch against the path's code capability. -/
def fetchAccess (c : Ctx) (pc : DWord) : Access :=
  { kind := .fetch, cap := c.p.code, addr := pc.toNat, size := 4, perm := permX, natural := true, whole := false
    fe := false, engine := false }

/-- R100, R132: the word at `pc`, or the failure of its fetch. The word is the one at the point of coherence, and poison
of its line does not stop it (DESIGN CHOICE 15); a place that is not memory of this package gives cause 0x05. -/
def fetchAt (s : State) (c : Ctx) (pc : DWord) : State × Except Failure Word :=
  let rank := ((c.threads s).head?.map (·.rank)).getD 0
  let fail := fun (cause : BitVec 7) => ({ cause := cause, addr := pc, detail := 0, asid := c.tm.asid } : Failure)
  match checkAccess s (c.who s rank) (fetchAccess c pc) with
  | (s, .error cause) => (s, .error (fail cause))
  | (s, .ok locs) =>
    match readLocs s none locs with
    | (s, some g) => (s, .ok (wordOf g.bytes))
    | (s, none) => (s, .error (fail 0x05))

/-! ### Stepping (R47) -/

/-- A register field of a word: its lowest bit and the bits that step. -/
abbrev RegField := Nat × Nat

/-- R47: the register-numbering fields of a lane word, by format and by what the fields name. -/
def laneFields (w : Word) : List RegField :=
  let lr : List RegField := [(14, 6), (8, 6), (2, 6)]
  match (w.extractLsb' 20 6).toNat with
  | 0x09 | 0x0A | 0x0B | 0x0C | 0x0D => [(14, 6), (8, 6)]
  | 0x0E => [(17, 3), (8, 6), (2, 6)]
  | 0x0F => [(17, 3), (8, 6)]
  | 0x11 => [(17, 3), (14, 3), (11, 3)]
  | 0x12 | 0x13 => [(14, 6)]
  | 0x18 => [(14, 6), (8, 6)]
  | 0x1A => [(17, 3), (8, 6), (2, 6)]
  | 0x1C | 0x1D | 0x1E | 0x1F => [(14, 6), (8, 6)]
  | 0x22 => [(14, if w.extractLsb' 7 3 == 7 then 4 else 6), (10, 4)]
  | 0x23 => [(14, if w.extractLsb' 7 3 == 5 then 4 else 6), (10, 4)]
  | 0x24 | 0x25 => [(14, if w.extractLsb' 8 2 == 3 then 4 else 6), (10, 4)]
  | 0x26 | 0x27 | 0x28 => [(14, 6), (10, 4), (4, 6)]
  | 0x29 | 0x2A | 0x2B | 0x2C | 0x2D | 0x2E => [(16, 4), (12, 4), (8, 4)]
  | 0x2F => [(16, 4), (12, 4), (8, 4)]
  | 0x30 => [(14, 6), (10, 4)]
  | 0x31 => [(16, 4), (10, 6), (6, 4)]
  | 0x32 => [(16, 4), (12, 4), (8, 4)]
  | 0x33 => [(14, 6), (8, 6)]
  | 0x35 => [(14, if w.extractLsb' 1 1 == 0 then 3 else 6), (8, 3)]
  | 0x36 =>
    let op := (w.extractLsb' 0 6).toNat
    [(16, 4), (12, 4), (6, if op == 5 || op == 8 || op == 11 then 4 else 6)]
  | 0x37 => [(16, 4), (12, 4)]
  | _ => lr

/-- R47: the register-numbering fields of a uniform word of majors 0x01 to 0x07. -/
def uniformFields (w : Word) : List RegField :=
  match (w.extractLsb' 24 6).toNat with
  | 0x01 => [(18, 6), (12, 6), (6, 6)]
  | 0x07 => [(18, 6)]
  | _ => [(18, 6), (12, 6)]

/-- R47: the register-numbering fields of a follower. -/
def followerFields (w : Word) : List RegField := if w.getLsbD 31 then uniformFields w else laneFields w

/-- A field of a word with a new value. -/
def putField (w : Word) (f : RegField) (x : Nat) : Word :=
  (w &&& ~~~(BitVec.ofNat 32 (2 ^ f.2 - 1) <<< f.1)) ||| (BitVec.ofNat 32 (x % 2 ^ f.2) <<< f.1)

/-- A field of a word. -/
def getField (w : Word) (f : RegField) : Nat := w.toNat / 2 ^ f.1 % 2 ^ f.2

/-- R47: a word with each enabled field raised by `inc`. -/
def stepFields (inc : Nat) : Word → List RegField → List Bool → Word
  | w, f :: fs, e :: es => stepFields inc (if e then putField w f (getField w f + inc) else w) fs es
  | w, _, _ => w

/-- R46: the enables of a rep word: d, a, b. -/
def repEnables (w : Word) : List Bool := [w.getLsbD 17, w.getLsbD 16, w.getLsbD 15]

/-- R47: the word that repetition `i` issues; the follower's S applies after the last alone. -/
def stepWord (rep follower : Word) (i : Nat) : Word :=
  let stride := (rep.extractLsb' 12 3).toNat + 1
  let w := stepFields (i * stride) follower (followerFields follower) (repEnables rep)
  if i + 1 < repCount rep then w &&& ~~~(1#32 <<< 30) else w

/-- R48: the sets and majors that may follow a rep. -/
def followerMajor (w : Word) : Bool :=
  if w.getLsbD 31 then decide (1 ≤ (w.extractLsb' 24 6).toNat) && decide ((w.extractLsb' 24 6).toNat ≤ 7)
  else (w.extractLsb' 20 6).toNat != 0x38

/-- R48: the fields of a follower that number registers; a reduction's first field is its scope. -/
def numberFields (w : Word) : List RegField :=
  if !w.getLsbD 31 && w.extractLsb' 20 6 == 0x27 then (followerFields w).drop 1 else followerFields w

/-- R48: a word with its register numbers cleared. -/
def clearFields (w : Word) : Word := (numberFields w).foldl (fun w f => putField w f 0) w

/-- R48: the field names a register in this follower: it is not one that the follower's encoding fixes at zero (R35 to R37). `w`
has its register numbers cleared. -/
def fieldSteps (w : Word) (f : RegField) : Bool :=
  (List.range (2 ^ f.2)).any fun x => x != 0 && (decodeWord? (putField w f x)).isSome

/-- R48: the word fails R38 in its register numbers alone, which stepping changes. -/
def failsInNumbers (w : Word) : Bool :=
  let w0 := clearFields w
  (decodeWord? w0).isSome && (numberFields w).all fun f => getField w f == 0 || fieldSteps w0 f

/-- R48: the follower may be repeated: its major, the fields that its format has, and no failure that stepping cannot
change. -/
def followerOk (rep follower : Word) : Bool :=
  followerMajor follower &&
    ((repEnables rep).drop (followerFields follower).length).all (fun e => !e) &&
    ((decodeWord? follower).isSome || failsInNumbers follower)

end Sys2Proof.Machine
end

