-- ==== Sys2Proof/Machine/Flow.lean ====
section
/-! DEFINITION. Control flow: branches, divergence, joins, exits, the repeat prefix and compaction (R46 to R64, R132 to
R137). -/

namespace Sys2Proof.Machine

/-! ### Branches (R133, R135, R136) -/

/-- R133: bra. -/
def execBra (o : BitVec 24) (s : State) : Out := inCtx s fun c => finishAt s c (branchTarget c.p.pc o)

/-- R133: a branch on a condition of s[a], read as a signed value. -/
def uniBranch (a : BitVec 6) (o : BitVec 15) (cond : Int → Bool) (s : State) : Out :=
  inCtx s fun c => finishAt s c (if cond (c.st.getS a.toNat).toInt then branchTarget c.p.pc o else c.p.pc + 4)

/-- R133 cond 0. -/
def execBEz (a : BitVec 6) (o : BitVec 15) (s : State) : Out := uniBranch a o (fun x => decide (x = 0)) s
/-- R133 cond 1. -/
def execBNz (a : BitVec 6) (o : BitVec 15) (s : State) : Out := uniBranch a o (fun x => decide (x ≠ 0)) s
/-- R133 cond 2. -/
def execBLz (a : BitVec 6) (o : BitVec 15) (s : State) : Out := uniBranch a o (fun x => decide (x < 0)) s
/-- R133 cond 3. -/
def execBGez (a : BitVec 6) (o : BitVec 15) (s : State) : Out := uniBranch a o (fun x => decide (0 ≤ x)) s
/-- R133 cond 4. -/
def execBGz (a : BitVec 6) (o : BitVec 15) (s : State) : Out := uniBranch a o (fun x => decide (0 < x)) s
/-- R133 cond 5. -/
def execBLez (a : BitVec 6) (o : BitVec 15) (s : State) : Out := uniBranch a o (fun x => decide (x ≤ 0)) s

/-- R133: call. -/
def execCall (o : BitVec 24) (s : State) : Out :=
  inCtx s fun c => afterMarker s c false fun s =>
    finishAt (onStrand s c fun st => st.setS 62 (c.p.pc + 4)) c (branchTarget c.p.pc o)

/-- R133: loop. -/
def execLoop (a : BitVec 6) (o : BitVec 15) (s : State) : Out :=
  inCtx s fun c =>
    let x := c.st.getS a.toNat - 1
    finishAt (onStrand s c fun st => st.setS a.toNat x) c (if x = 0 then c.p.pc + 4 else branchTarget c.p.pc o)

/-- R135: ret. -/
def execRet (a : BitVec 6) (s : State) : Out :=
  inCtx s fun c => afterMarker s c false fun s => finishAt s c (c.st.getS a.toNat)

/-- R136: the check of a jump capability. -/
def jumpCause (x : Cap) : Option (BitVec 7) :=
  if !x.tag then some 0x04
  else if x.seal != 0 && x.seal != 1 then some 0x06
  else if !x.has permX then some 0x05
  else none

/-- R136: the link: the path's code capability at `pc`, as a sealed entry. -/
def linkCap (code : Cap) (pc : DWord) : Cap := (code.withAddr pc.toNat).withSeal 1

/-- R136: jmpc; with a link the write of k[D] comes from the path's own code capability. -/
def execJmpc (l : BitVec 2) (d a : BitVec 4) (s : State) : Out :=
  inCtx s fun c => afterMarker s c false fun s =>
    let x := c.st.getK a.toNat
    match jumpCause x with
    | some cause => fileAllWith s c { cause := cause, addr := 0, detail := BitVec.ofNat 32 (16 + a.toNat), asid := 0 }
    | none =>
      let s := if l == 1 then onStrand s c fun st => st.setK d.toNat (linkCap c.p.code (c.p.pc + 4)) else s
      let s := updPath s c.st.sid c.p.pid fun p => { p with code := x.withSeal 0 }
      finishAt s c (BitVec.ofNat 64 x.addr)

/-! ### No operation and traps (R137) -/

/-- R137 fn 0. -/
def execNop (s : State) : Out := uniShort s fun _ s => s
/-- R137 fn 1. -/
def execTrap (s : State) : Out := inCtx s fun c => fileAll s c 0x28
/-- R137 fn 2. -/
def execBrk (s : State) : Out := inCtx s fun c => fileAll s c 0x30

/-! ### Compaction (R60, R61) -/

/-- R60: the threads that a side's fresh strand may gather: present in a ready path of a home strand of the team that
stands at the side's start, with the code capability `code`. -/
def compactable (s : State) (tm : Team) (pc : DWord) (side : Bool) (code : Cap) : List (Strand × Path × Thread) :=
  (s.strands.filter fun x => x.tid == tm.tid && x.kind = .home).flatMap fun x =>
    (x.paths.filter fun p => p.fromBrp = some (pc, side) && p.state = .ready && p.code = code).flatMap fun p =>
      (presentOf s x.sid p).map fun t => (x, p, t)

/-- R61: the chosen threads move to a fresh strand. They take its slots from 0 on, in the order of their home strands, paths
and slots, which the spec leaves open (DESIGN CHOICE 91). -/
def moveThreads (sid : Nat) : List (Strand × Path × Thread) → Nat → State → State
  | [], _, s => s
  | (x, p, t) :: rest, i, s =>
    let s := updStrand s x.sid fun st =>
      { st with paths := (st.paths.map fun q =>
                  if q.pid == p.pid then { q with mask := q.mask &&& ~~~(1#32 <<< t.slot) } else q).filter fun q => q.mask != 0 }
    moveThreads sid rest (i + 1)
      (updThread s t.tid t.rank fun u => { u with sid := sid, slot := i, homeFrame := p.parent })

/-- R60, R61: at a divergent brp of a team with compaction the device may move threads of one side into a fresh strand;
whether it does and which threads it gathers is the free choice `k`. -/
def compactSide (s : State) (c : Ctx) (side : Bool) (k : Nat) : State :=
  if !c.tm.desc.compact || Config.pick s.run.tick (0x300 + k) % 2 == 0 then s
  else
    let all := compactable s c.tm c.p.pc side c.p.code
    let chosen := (all.filter fun x => Config.pick s.run.tick (0x10000 * (k + 1) + x.2.2.rank) % 2 == 1).take 32
    match chosen, freeNum s c.tm, freeSlot s c.st.core with
    | (x, p, _) :: _, some num, some slot =>
      let homes := (chosen.map fun y => y.1).foldl (fun (l : List Strand) h =>
        if (l.map (·.sid)).contains h.sid then l else l ++ [h]) []
      let low := homes.foldl (fun (b : Strand) h => if h.num < b.num then h else b) x
      let sid := s.run.nextSid
      let new := { copyStrand low sid num (.fresh (homes.map (·.sid))) (maskOf (List.range chosen.length)) p.pc p.code 0 0 with
        cslot := slot }
      let s := { s with strands := s.strands ++ [new], run := { s.run with nextSid := sid + 1 } }
      moveThreads sid chosen 0 s
    | _, _, _ => s

/-! ### Divergence (R56) -/

/-- R55: the lowest frame number that is free. -/
def freeFrame (st : Strand) : Option Nat := (List.range 16).find? fun i => (st.frame? i).isNone

/-- R56: the slots of the path's threads, present or filed, whose predicate gives `b`. -/
def sideMask (s : State) (c : Ctx) (n : Bool) (p : Nat) : BitVec 32 :=
  maskOf ((List.range 32).filter fun i => bitOf c.p.mask i && match slotThread s c.st.sid i with
    | some t => t.getP p ^^ n
    | none => false)

/-- R55: depth of a frame below `parent`. -/
def frameDepth (st : Strand) (parent : Option Nat) : Nat :=
  match parent.bind st.frame? with
  | some f => f.depth + 1
  | none => 1

/-- R56: the divergent case: a frame and two child paths; the taken one becomes current. -/
def diverge (s : State) (c : Ctx) (fid : Nat) (taken : BitVec 32) (target : DWord) : State :=
  updStrand s c.st.sid fun st =>
    let child := fun (pid : Nat) (mask : BitVec 32) (pc : DWord) (side : Bool) =>
      { c.p with pid := pid, mask := mask, pc := pc, parent := some fid, marks := 0, state := .ready, marked := false
                 probe := [], rep := 0, fromBrp := some (c.p.pc, side) }
    let f : Frame := { expected := c.p.mask, arrived := 0, joinpc := none, parent := c.p.parent
                       depth := frameDepth st c.p.parent, code := c.p.code, clock := none, lapsed := 0 }
    { st with frames := st.frames ++ [(fid, f)]
              paths := (st.paths.filter fun p => p.pid != c.p.pid) ++
                [child st.nextPid taken target true, child (st.nextPid + 1) (c.p.mask &&& ~~~taken) (c.p.pc + 4) false]
              cur := st.nextPid, nextPid := st.nextPid + 2 }

/-- R56: brp. -/
def execBrp (n : BitVec 1) (p : BitVec 3) (o : BitVec 20) (s : State) : Out :=
  inCtx s fun c => afterMarker s c false fun s =>
    let ts := c.threads s
    let val := fun (t : Thread) => t.getP p.toNat ^^ n == 1
    let target := branchTarget c.p.pc o
    if ts.all val then finishAt s c target
    else if ts.all fun t => !val t then finishAt s c (c.p.pc + 4)
    else match freeFrame c.st with
      | none => fileAll s c 0x01
      | some fid =>
        let s := diverge s c fid (sideMask s c (n == 1) p.toNat) target
        putMarker (compactSide (compactSide s c true 0) c false 1) c

/-! ### Join (R57, R62, R172, R174) -/

/-- The frames from `parent` upwards, with a slot added to what they expect. -/
def expectUp : Nat → Strand → Option Nat → BitVec 32 → Strand
  | 0, st, _, _ => st
  | _, st, none, _ => st
  | n + 1, st, some fid, m =>
    expectUp n (st.updFrame fid fun f => { f with expected := f.expected ||| m }) ((st.frame? fid).bind (·.parent)) m

/-- R174: waiting stragglers' threads join those that arrive, and their strands end. -/
def absorbStragglers (s : State) (c : Ctx) : List Strand → State
  | [] => s
  | x :: rest =>
    let ts := s.threads.filter fun t => t.sid == x.sid && t.status = .present
    let m := maskOf (ts.map fun t => t.rank % 32)
    let s := updStrand s c.st.sid fun st => expectUp 17 (st.updPath c.p.pid fun p => { p with mask := p.mask ||| m }) c.p.parent m
    let s := updThreads s (fun t => t.sid == x.sid && t.status = .present) fun t =>
      { t with sid := c.st.sid, slot := t.rank % 32, straggling := false, homeFrame := none }
    absorbStragglers (releaseStrand s x.sid) c rest

/-- R57, R172, R184: the path arrives at its frame, or at the strand's root join. -/
def arrive (s : State) (c : Ctx) : State :=
  let s := absorbStragglers s c (waitingStragglers s c.st.sid)
  match (strandOf s c.st.sid).bind fun st => st.path? c.p.pid with
  | none => s
  | some p =>
    let here := maskOf ((presentOf s c.st.sid p).map (·.slot))
    let s := updPath s c.st.sid p.pid fun q => { q with state := .atJoin s.run.clock.toNat, marked := false, fromBrp := none, probe := [] }
    let s := match p.parent with
      | some fid => updStrand s c.st.sid fun st => st.updFrame fid fun f =>
          match f.joinpc with
          | some _ => { f with arrived := f.arrived ||| here }
          | none => { f with arrived := f.arrived ||| here, joinpc := some c.p.pc, code := c.p.code }
      | none => updStrand s c.st.sid fun st => match st.rootJoin with
          | some _ => st
          | none => { st with rootJoin := some ⟨c.p.pc, none⟩ }
    settle s c.st.sid

/-- The path parks in a wait at its instruction. -/
def parkIn (s : State) (c : Ctx) (w : Wait) : State :=
  updPath s c.st.sid c.p.pid fun p => { p with state := .waiting w s.run.clock.toNat, marked := false }

/-- R62: one thread returns to its home strand, to its former slot, and arrives at the frame that it left. -/
def goHome (pc : DWord) (code : Cap) (s : State) (t : Thread) : State :=
  match homeStrand? s t.tid t.rank with
  | none => s
  | some h =>
    let m : BitVec 32 := 1#32 <<< (t.rank % 32)
    let s := match t.homeFrame with
      | some fid => updStrand s h.sid fun st => st.updFrame fid fun f =>
          match f.joinpc with
          | some _ => { f with arrived := f.arrived ||| m }
          | none => { f with arrived := f.arrived ||| m, joinpc := some pc, code := code }
      | none => s
    updThread s t.tid t.rank fun u => { u with sid := h.sid, slot := t.rank % 32, straggling := false, homeFrame := none }

/-- R62: a straggler strand whose thread straggled in a fresh strand returns it, at its first join, to the frame of its home
strand that it left. -/
def stragglerGoesHome (s : State) (c : Ctx) (home : Nat) (t : Thread) : State :=
  let s := goHome c.p.pc c.p.code (updStrand s c.st.sid fun x => { x with paths := x.paths.filter fun q => q.pid != c.p.pid }) t
  releaseStrand (settle s home) c.st.sid

/-- R57, R62, R174: join. A path whose fence is not performed yet joins after it. -/
def execJoin (s : State) : Out :=
  inCtx s fun c =>
    if c.p.fence.isSome then s
    else afterMarker s c false fun s =>
      let t := match c.st.kind, c.p.parent with
        | .fresh _, none => parkIn s c .freshReturn
        | .straggler home false, none => match (presentOf s c.st.sid c.p).find? fun t => t.homeFrame.isSome with
          | some t => stragglerGoesHome s c home t
          | none => if anyPresent s home then parkIn s c .straggler
            else arrive (onStrand s c fun st => { st with kind := .straggler home true }) c
        | _, _ => arrive s c
      putMarker t c

/-! ### The repeat prefix (R46 to R48) -/

/-- R46: the rep word of its fields. -/
def repWordOf (c : BitVec 6) (x y z : BitVec 1) (t : BitVec 3) : Word := 1#1 ++ 0#1 ++ 17#6 ++ c ++ x ++ y ++ z ++ t ++ 0#12

/-- R47, R48: rep: the follower is fetched and checked, and repetition 0 issues next. -/
def execRep (n : BitVec 6) (x y z : BitVec 1) (t : BitVec 3) (s : State) : Out :=
  inCtx s fun c =>
    let w := repWordOf n x y z t
    match fetchAt s c (c.p.pc + 4) with
    | (s, .error f) => fileAllWith s c f
    | (s, .ok follower) =>
      if followerOk w follower then
        updPath s c.st.sid c.p.pid fun p => { p with rep := repState 0, repWord := w, marked := false, fromBrp := none, probe := [] }
      else fileAll s c 0x01

end Sys2Proof.Machine
end

