-- ==== Sys2Proof/Machine/Sync.lean ====
section
/-! DEFINITION. Barriers (R197, R198, R239 to R243), checkpoints and rollback (R200, R203, R204), exit
(R58), fences (R249, R250,
R252), `ppoint` and `yield` (R253). -/

namespace Sys2Proof.Machine

/-! ### Barrier words (R197, R198) -/

/-- R198: the word that a handle names in a team's table. A handler strand's team has no table (R239). -/
def barrierLoc (tm : Team) (h : Nat) : Option BarrierLoc :=
  if tm.role = .handler then none
  else if h < 64 then (if 8 * h + 8 ≤ actBytes tm then some (.act tm.tid (8 * h)) else none)
  else (tm.handles.find? fun x => x.1 == h).map fun x => .cluster x.2

/-- The word's value. -/
def barrierWord (s : State) : BarrierLoc → DWord
  | .act tid off => match teamOf s tid with
    | some tm => BitVec.ofNat 64 (natOfBytes (sbytes tm.act off 8))
    | none => 0
  | .cluster id => match s.plant.clusterWords.find? fun w => w.id == id with
    | some w => w.word
    | none => 0

/-- The word written; a word in a buffer is logged first (R201). -/
def putBarrier (s : State) (loc : BarrierLoc) (w : DWord) : State :=
  match loc with
  | .act tid off => writeBuf s tid false off (bytesOfNat 8 w.toNat)
  | .cluster id =>
    let words := mapIf (fun (x : ClusterWord) => x.id == id) (fun x => { x with word := w }) s.plant.clusterWords
    { s with plant := { s.plant with clusterWords := words } }

/-- R197: the phase bit. -/
def phaseOf (w : DWord) : Bool := w.getLsbD 32
def arrivedOf (w : DWord) : Nat := (w.extractLsb' 16 16).toNat
def expectedOf (w : DWord) : Nat := (w.extractLsb' 0 16).toNat

/-- R197: a word with its three fields; bits [63:33] stay. -/
def barrierOf (w : DWord) (phase : Bool) (arrived expected : Nat) : DWord :=
  (w &&& 0xFFFFFFFE00000000) ||| (if phase then 0x100000000 else 0) ||| BitVec.ofNat 64 (arrived % 65536 * 65536 + expected % 65536)

/-- R197: one arrival on a word, and whether it completes the phase. -/
def arrival (w : DWord) : DWord × Bool :=
  if expectedOf w ≤ arrivedOf w + 1 then (barrierOf w (!phaseOf w) 0 (expectedOf w), true)
  else (barrierOf w (phaseOf w) (arrivedOf w + 1) (expectedOf w), false)

/-- R240: a path parked in a wait on the word whose phase has left its target. -/
def wakes (loc : BarrierLoc) (phase : Bool) (p : Path) : Bool :=
  match p.state with
  | .waiting (.barrier l _ target _) _ => l = loc && target != phase
  | _ => false

/-- R241: a wake from a cluster word is an acquire at cluster scope, from another word one at team scope. -/
def BarrierLoc.wide : BarrierLoc → Bool
  | .cluster _ => true
  | _ => false

/-- R308, R310: the threads of a strand's path acquire, at cluster scope or wider where `wide`. -/
def acquireThreads (s : State) (sid : Nat) (mask : BitVec 32) (wide : Bool) : State :=
  updThreads s (fun t => t.sid == sid && bitOf mask t.slot && t.status != .exited) fun t => t.acquired s wide

/-- R240, R241: the waiters of a word whose phase has changed go on at the next instruction. -/
def wakeBarrier (s : State) (loc : BarrierLoc) : State :=
  let ph := phaseOf (barrierWord s loc)
  let woken := s.strands.flatMap fun st => (st.paths.filter (wakes loc ph)).map fun p => (st.sid, p.mask)
  let s := woken.foldl (fun s x => acquireThreads s x.1 x.2 loc.wide) s
  let go := fun (p : Path) => { p.advanced with state := .ready, marks := 0 }
  { s with strands := s.strands.map fun st => { st with paths := mapIf (wakes loc ph) go st.paths } }

/-- R197: an arrival as one atomic step, and whether it completed the phase. The waiters of a completed phase wake. -/
def arriveAt (s : State) (loc : BarrierLoc) : State × Bool :=
  let (w, full) := arrival (barrierWord s loc)
  let s := putBarrier s loc w
  (if full then wakeBarrier s loc else s, full)

/-! ### Checkpoints (R200, R242) -/

/-- R242: the strand is parked in `pin.meet` on handle 0, with no path that is ready. -/
def inMeet0 (s : State) (st : Strand) : Bool :=
  (st.paths.any fun p => match p.state with
    | .waiting (.barrier _ 0 _ true) _ => true
    | _ => false) && !(st.paths.any (pathReady s st.sid))

/-- The home strands of a team. -/
def homeStrands (s : State) (tid : Nat) : List Strand := s.strands.filter fun x => x.tid == tid && x.kind = .home

/-- R43, R200: a checkpoint is due: every strand of the team with results in RB takes an implicit marker first, and none
issues before the checkpoint is taken. -/
def dueCheckpoint (s : State) (tid : Nat) : State :=
  let s := updTeam s tid fun tm => { tm with ckpt := true }
  let full := fun (st : Strand) => st.tid == tid && !st.rb.isEmpty && st.commit.isNone
  { s with strands := mapIf full (fun st => { st with commit := some (.implicit false) }) s.strands }

/-- R200: the team may take its checkpoint: every RB is committed and every plain store has reached the staging store or
its PoC. -/
def checkpointReady (s : State) (tid : Nat) : Bool :=
  (s.strands.filter fun st => st.tid == tid).all (fun st => st.rb.isEmpty && st.commit.isNone) &&
    !(s.mem.events.any fun e => e.tid == tid && e.plainStore)

/-- R200: the checkpoint: the team's staged lines drain, its state goes into the shadow banks, its undo log is cleared
and a new unexposed interval begins. -/
def takeCheckpoint (s : State) (tid : Nat) : State :=
  let s := drainTeam s tid
  match teamOf s tid with
  | none => s
  | some tm =>
    let sh : Shadow :=
      { strands := s.strands.filter fun x => x.tid == tid, threads := s.threads.filter fun t => t.tid == tid
        tiles := tm.tiles, accs := tm.accs, tilePoison := tm.tilePoison, accPoison := tm.accPoison, cmd := s.run.nextCmd, ev := s.run.nextEv }
    updTeam s tid fun t => { t with shadow := some sh, undo := [], exposed := false, ckpt := false, popped := [] }

/-- The due checkpoint of a team, once it can be taken. -/
def stepCheckpoint (s : State) (tid : Nat) : State :=
  match teamOf s tid with
  | some tm => if tm.ckpt && checkpointReady s tid then takeCheckpoint s tid else s
  | none => s

/-! ### Waits on queues (R190, R247, R248, R382) -/

/-- R190: commands of a strand on a queue pair that are outstanding. -/
def outstanding (s : State) (st : Strand) (q : Nat) : Nat :=
  (s.eng.cmds.filter fun c => c.sid == st.sid && c.queue == q).length + (st.records.filter fun r => r.queue == q + 1).length

/-- R190: paths of a strand that wait to push to a queue issue their push again. -/
def wakePushers (s : State) (sid q : Nat) : State :=
  updStrand s sid fun st =>
    let mine := fun (p : Path) => match p.state with
      | .waiting (.push k) _ => k == q
      | _ => false
    { st with paths := mapIf mine (fun p => p.resume p.pc) st.paths }

/-- R190, R247, R248, R382: a record has arrived in a queue: the paths that wait to pop it issue again, those that yielded
go on at their target, and a `net.done` issues again after the strand's last network command. -/
def wakePoppers (s : State) (sid q : Nat) : State :=
  let done := q == 5 && !(s.eng.cmds.any fun c => c.sid == sid && c.queue == 4)
  updStrand s sid fun st =>
    { st with paths := st.paths.map fun p => match p.state with
        | .waiting (.pop k) _ => if k == q then p.resume p.pc else p
        | .waiting .netDone _ => if done then p.resume p.pc else p
        | .waiting (.cpYield k t) _ => if k == q then { p.resume t with rep := 0, fromBrp := none } else p
        | _ => p }

/-- R190, R203, R247, R248: a strand's paths that wait for a record that it has, or for room that a queue has, go on. -/
def wakeQueues (s : State) (sid : Nat) : State :=
  match strandOf s sid with
  | none => s
  | some st =>
    let s := [1, 3, 5, 7].foldl (fun s q => if st.records.any fun r => r.queue == q then wakePoppers s sid q else s) s
    let s := if (st.records.filter fun r => r.queue == 5).isEmpty then wakePoppers s sid 5 else s
    [0, 2, 4, 6].foldl (fun s q => if outstanding s st q < Config.queueDepth then wakePushers s sid q else s) s

/-! ### Rollback (R203) -/

/-- R201, R203: one logged line of a buffer restored. -/
def restoreLine (tm : Team) (u : UndoLine) : Team :=
  let words := (List.range 16).map (· + 16 * u.line)
  if u.weight then
    { tm with wgt := sputs tm.wgt (64 * u.line) u.bytes
              wgtPoison := words.foldl (fun m i => sput none m i ((u.poison[i - 16 * u.line]?).getD none)) tm.wgtPoison }
  else
    { tm with act := sputs tm.act (64 * u.line) u.bytes
              fe := words.foldl (fun m i => sput false m i ((u.fe[i - 16 * u.line]?).getD false)) tm.fe
              actPoison := words.foldl (fun m i => sput none m i ((u.poison[i - 16 * u.line]?).getD none)) tm.actPoison }

/-- R203: the completion records that a strand has after a rollback: those of the checkpoint, and those of commands
pushed before it that arrived since, popped or not. -/
def rolledRecords (sh : Shadow) (tm : Team) (old new : Strand) : List QRecord :=
  let have' := fun (r : QRecord) => old.records.any fun x => x.cid == r.cid
  let popped := (tm.popped.filter fun x => x.1 == old.sid).map (·.2)
  let later := (popped ++ new.records).filter fun r => decide (r.cid < sh.cmd) && !have' r
  old.records ++ later

/-- R203: the copy and stream commands that the team pushed in the interval are performed. -/
def intervalPerformed (s : State) (tm : Team) : Bool :=
  let first := (tm.shadow.map (·.cmd)).getD 0
  !(s.eng.cmds.any fun c => c.tid == tm.tid && decide (first ≤ c.cid) && (c.queue == 0 || c.queue == 2) && cmdPending s c)

/-- R203, R348: a strand of the checkpoint as a rollback restores it, on the core where its team stands now. Its own slot may
have gone to a strand of another team since it ended; it then takes a free one. -/
def rollStrand (s : State) (tm : Team) (sh : Shadow) (st : Strand) : Strand :=
  let cur := (s.strands.find? fun x => x.sid == st.sid).getD st
  let stopping := s.strands.any fun x => x.tid == tm.tid && x.stop != .running
  let taken := s.strands.any fun x => x.tid != tm.tid && x.core == st.core && x.cslot == st.cslot
  { st with records := rolledRecords sh tm st cur
            cslot := if taken then (freeSlot s st.core).getD st.cslot else st.cslot
            stop := if cur.stop = .running && stopping then .requested s.run.clock.toNat else cur.stop }

/-- R203: Rollback(team). Entries of the team are withdrawn literally as the rule says, also those that stood at the
checkpoint. -/
def stepRollback (s : State) (tid : Nat) : State :=
  match teamOf s tid with
  | none => s
  | some tm =>
    match tm.rolling, tm.shadow with
    | some _, some sh =>
      if !intervalPerformed s tm then s
      else
        let back := sh.strands.map (rollStrand s tm sh)
        let s := withdraw s fun e => e.subject.ofTeam tid
        let s := { s with
          strands := (s.strands.filter fun x => x.tid != tid) ++ back
          threads := (s.threads.filter fun t => t.tid != tid) ++ sh.threads
          mem := { s.mem with events := s.mem.events.filter fun e => e.tid != tid || decide (e.id < sh.ev) }
          eng := { s.eng with cmds := s.eng.cmds.filter fun c => !(c.tid == tid && decide (sh.cmd ≤ c.cid)) } }
        let s := updTeam s tid fun t =>
          let t := t.undo.reverse.foldl restoreLine t
          { t with staged := [], undo := [], exposed := false, rolling := none, ckpt := false, popped := []
                   tiles := sh.tiles, accs := sh.accs, tilePoison := sh.tilePoison, accPoison := sh.accPoison
                   rollbacks := t.rollbacks + 1
                   homes := (sh.strands.filter fun x => x.kind = .home).length }
        back.foldl (fun s st => wakeQueues s st.sid) s
    | _, _ => s

/-! ### Released home strands (R243) -/

/-- R243: one home strand's slot is released: handle 0's word expects one arrival less. -/
def releaseHome (s : State) (tid : Nat) : State :=
  let loc := BarrierLoc.act tid 0
  let w := barrierWord s loc
  if expectedOf w == 0 then s
  else
    let e := expectedOf w - 1
    if e ≤ arrivedOf w then
      let parked := (homeStrands s tid).all (inMeet0 s) && !(homeStrands s tid).isEmpty
      let s := wakeBarrier (putBarrier s loc (barrierOf w (!phaseOf w) 0 e)) loc
      if parked then dueCheckpoint s tid else s
    else putBarrier s loc (barrierOf w (phaseOf w) (arrivedOf w) e)

/-- R243: the home strands released since the team's count was last taken. -/
def settleHomes (s : State) (tid : Nat) : State :=
  match teamOf s tid with
  | none => s
  | some tm =>
    let n := (homeStrands s tid).length
    if tm.role = .handler || tm.homes ≤ n then s
    else (List.range (tm.homes - n)).foldl (fun s _ => releaseHome s tid) (updTeam s tid fun t => { t with homes := n })

/-- R243: every team's home strands. -/
def settleAllHomes (s : State) : State := (s.teams.map (·.tid)).foldl settleHomes s

/-! ### Exit (R58, R181) -/

/-- R181: a handler lane that exits ends its subject, as though it had exited, and frees the entry. A subject may itself
be a handler lane (R168). -/
def exitSubject : Nat → State → Thread → State
  | 0, s, _ => s
  | n + 1, s, t =>
    match t.subject.bind (entryOf s) with
    | none => s
    | some e =>
      let s := withdraw s fun x => x.eid == e.eid
      match e.subject with
      | .thread tid rank => match threadOf s tid rank with
        | some u => exitThread (exitSubject n s u) tid rank
        | none => s
      | _ => s

/-- R58, R243: exit. -/
def execExit (s : State) : Out :=
  inCtx s fun c => afterMarker s c false fun s =>
    let s := (c.threads s).foldl (fun s t => exitThread (if c.handler then exitSubject 3 s t else s) t.tid t.rank) s
    putMarker (settleAllHomes s) c

/-! ### pin (R239 to R242) -/

/-- R241, R308: the accesses and commands that the strand's present threads issued are performed at the scope. -/
def strandQuiet (s : State) (c : Ctx) (sys : Bool) : Bool :=
  let ranks := (s.threads.filter fun t => t.sid == c.st.sid && t.status = .present).map (·.rank)
  !(s.mem.events.any fun e => e.tid == c.tm.tid && (sys || !e.isRemote) && e.owners.any fun r => ranks.contains r) &&
    !(s.eng.cmds.any fun x => x.tid == c.tm.tid && cmdPending s x && x.ranks.any fun r => ranks.contains r)

/-- R242: `pin.post` and `pin.meet` on handle 0 of a fresh or straggler strand. -/
def Ctx.awayStrand (c : Ctx) : Bool :=
  match c.st.kind with
  | .fresh _ => true
  | .straggler _ _ => true
  | _ => false

/-- R240, R241: the strand's arrival on a word; `exposed` is the state after R202. -/
def strandArrives (s : State) (c : Ctx) (loc : BarrierLoc) : State × Bool :=
  arriveAt (if loc.wide then exposeTeam s c.tm.tid else s) loc

/-- R239, R240: pin.post. The arrival waits for the accesses it releases. -/
def execPinPost (h : BitVec 12) (s : State) : Out :=
  inCtx s fun c =>
    if h == 0 && c.awayStrand then fileAll s c 0x01
    else match barrierLoc c.tm h.toNat with
      | none => fileAll s c 0x05
      | some loc =>
        if barred s c || !strandQuiet s c false then s
        else
          let ph := phaseOf (barrierWord s loc)
          let s := (strandArrives s c loc).1
          finish (onStrand s c fun st => { st with arrival := some (h, ph) }) c

/-- R240: the wait of pin.wait and pin.meet with its target. -/
def waitPhase (s : State) (c : Ctx) (loc : BarrierLoc) (h : BitVec 12) (target meet : Bool) : State :=
  let s := onStrand s c fun st => { st with arrival := none }
  if phaseOf (barrierWord s loc) == target then parkIn s c (.barrier loc h target meet)
  else finish (acquireThreads s c.st.sid c.p.mask loc.wide) c

/-- R239, R240: pin.wait. -/
def execPinWait (h : BitVec 12) (s : State) : Out :=
  inCtx s fun c =>
    match barrierLoc c.tm h.toNat with
    | none => fileAll s c 0x05
    | some loc => if barred s c then s else afterMarker s c false fun s =>
      let target := match c.st.arrival with
        | some (k, ph) => if k == h then ph else phaseOf (barrierWord s loc)
        | none => phaseOf (barrierWord s loc)
      waitPhase s c loc h target false

/-- R239, R240, R242: pin.meet. -/
def execPinMeet (h : BitVec 12) (s : State) : Out :=
  inCtx s fun c =>
    if h == 0 && c.awayStrand then fileAll s c 0x01
    else match barrierLoc c.tm h.toNat with
      | none => fileAll s c 0x05
      | some loc => afterMarker s c false fun s =>
        if barred s c || !strandQuiet s c false then s
        else
          let ph := phaseOf (barrierWord s loc)
          let all := (homeStrands s c.tm.tid).all fun st => st.sid == c.st.sid || inMeet0 s st
          let (s, full) := strandArrives s c loc
          let s := waitPhase s c loc h ph true
          if full && h == 0 && all then dueCheckpoint s c.tm.tid else s

/-- A parked wait whose phase has changed meanwhile, as after a resume (R240). -/
def stepBarrierWake (s : State) (loc : BarrierLoc) : State := wakeBarrier s loc

/-! ### Fences (R249, R250, R252) -/

/-- R250, R305: fence.scope. At thread scope it only exposes the interval. It issues once the path's earlier fence and its
threads' earlier acquires are performed. -/
def execFence (k : BitVec 3) (s : State) : Out :=
  inCtx s fun c => if barred s c then s else
    let s := exposeTeam s c.tm.tid
    let s := if k == 0 then s
      else
        let n := s.run.nextEv
        updPath { s with run := { s.run with nextEv := n + 1 } } c.st.sid c.p.pid fun p => { p with fence := some (k, n) }
    finish s c

/-- R250, R308: every access and push of the strand before the fence, and those that its threads issued in another strand, are
performed at its scope. -/
def fenceReady (s : State) (sid : Nat) (scope : BitVec 3) (n : Nat) : Bool :=
  let mine := fun (tid : Nat) (ranks : List Nat) =>
    s.threads.any fun t => t.sid == sid && t.tid == tid && t.status != .exited && ranks.contains t.rank
  !(s.mem.events.any fun e => ((e.sid == sid || mine e.tid e.owners) && decide (e.id < n) && (scope == 6 || !e.isRemote)) ||
      (scope == 6 && s.threads.any fun t => t.sid == sid && t.status != .exited && acquiredRemote s t.tid [t.rank] e)) &&
    !(s.eng.cmds.any fun x => (x.sid == sid || mine x.tid x.ranks) && decide (x.seq < n) && cmdPending s x)

/-- R250, R310: a fence of a path is performed. -/
def stepFence (s : State) (sid pid : Nat) : State :=
  match (strandOf s sid).bind fun st => st.path? pid with
  | none => s
  | some p =>
    match p.fence with
    | none => s
    | some (k, n) =>
      if fenceReady s sid k n then
        let s := updPath s sid pid fun q => { q with fence := none }
        acquireThreads s sid 0xFFFFFFFF (decide (3 ≤ k.toNat))
      else s

/-- R252, R305: lfence. -/
def execLfence (s : State) : Out :=
  inCtx s fun c => if barred s c then s else
    let n := s.run.nextEv + 1
    finish { s with run := { s.run with nextEv := n }, eng := { s.eng with lfences := sput 0 s.eng.lfences c.st.sid n } } c

/-! ### Pre-emption points and turns (R253) -/

/-- R253 fn 0: ppoint. With a request pending the strand takes its marker and stops; it resumes at the next instruction. -/
def execPpoint (s : State) : Out :=
  inCtx s fun c =>
    let t := finish s c
    match c.st.stop with
    | .requested _ =>
      if c.st.rb.isEmpty then onStrand (markTurn t c.st.sid) c fun st => { st with stop := .stopped, commit := none }
      else onStrand t c fun st => { st with commit := some .explicit }
    | _ => t

/-- R253 fn 1: yield. -/
def execYield (s : State) : Out := inCtx s fun c => afterMarker s c false fun s => finish s c

end Sys2Proof.Machine
end

