-- ==== Sys2Proof/Machine/Queues.lean ====
section
/-! DEFINITION. Engine queues as a strand sees them: pushes, pops, `cp.yield` and `qfence` (R189 to R191, R202, R225, R244
to R248, R251). -/

namespace Sys2Proof.Machine

/-! ### Commands -/

/-- Words of a command by queue (R191, R225, R353, R394). -/
def cmdWords (q : Nat) : Nat :=
  match q with
  | 0 => 4
  | 2 => 2
  | 4 => 4
  | _ => 3

/-- The word from an s register, 0 for a k word. -/
def QWord.sVal : QWord → DWord
  | .s w => w
  | .k _ => 0

/-- The word from a k register, untagged zero for an s word. -/
def QWord.kVal : QWord → Cap
  | .k c => c
  | .s _ => nullCap

/-- The word came from a k register. -/
def QWord.isK : QWord → Bool
  | .k _ => true
  | .s _ => false

/-- Word `i` of a command (from 0), by kind. -/
def Cmd.sWord (c : Cmd) (i : Nat) : DWord := ((c.words[i]?).getD (.s 0)).sVal
def Cmd.kWord (c : Cmd) (i : Nat) : Cap := ((c.words[i]?).getD (.s 0)).kVal

/-- A field of a doubleword. -/
def fieldOf (w : DWord) (lo n : Nat) : Nat := (w.extractLsb' lo n).toNat

/-- R191, R225, R353, R394: the kinds of register that a queue's words come from. -/
def wordKinds (q : Nat) : List Bool :=
  match q with
  | 0 => [true, true, false, false]
  | 2 => [true, false]
  | 4 => [true, true, false, false]
  | _ => [true, false, false]

/-- R225: a descriptor of a stream command that breaks its table, or names V or D beyond the allocation. -/
def streamMalformed (c : Ctx) (w : DWord) : Bool :=
  fieldOf w 17 15 != 0 || fieldOf w 8 2 != 0 || decide (6 ≤ fieldOf w 10 3) || !c.notFresh ||
    !(c.tOk [fieldOf w 4 4]) || !(c.aOk [fieldOf w 0 4])

/-- R202, R246: what the push of a command's last word exposes besides places in space 0xA: the command writes memory
outside the team's own buffers, multicasts to another core, or signals a cluster barrier word. -/
def cmdExposes (s : State) (c : Ctx) (q : Nat) (words : List QWord) : Bool :=
  let k := fun (i : Nat) => ((words[i]?).getD (QWord.s 0)).kVal
  let w := fun (i : Nat) => ((words[i]?).getD (QWord.s 0)).sVal
  let own := fun (x : Cap) => spaceOf x.addr == 8 || spaceOf x.addr == 9
  match q with
  | 0 =>
    let me := physCore s c.st.core % 4
    let mask := fieldOf (w 3) 14 4
    !own (k 1) || ((List.range 4).any fun i => i != me && mask / 2 ^ i % 2 == 1) ||
      (fieldOf (w 3) 12 1 == 1 && decide (64 ≤ fieldOf (w 3) 0 12))
  | 4 =>
    match fieldOf (w 3) 0 4 with
    | 0 => true
    | 1 => !own (k 0)
    | 2 => true
    | 4 => !own (k 1)
    | 5 => !own (k 1)
    | _ => false
  | 6 => !own (k 0)
  | _ => false

/-- R202: the teams whose buffers in space 0xA a command's capabilities name. -/
def exposePeers (s : State) (c : Ctx) (words : List QWord) : State :=
  words.foldl (fun s w =>
    let a := w.kVal.addr
    if w.isK && spaceOf a == 0xA then
      match peerTeam s c.tm (a % 2 ^ 60 / 2 ^ 56) with
      | some tm => exposeTeam (exposeTeam s c.tm.tid) tm.tid
      | none => exposeTeam s c.tm.tid
    else s) s

/-- R245, R246, R302, R313: the word that completes a command hands it to the engine. -/
def submitCmd (s : State) (c : Ctx) (q : Nat) (words : List QWord) : State :=
  let s := exposePeers s c words
  let s := if cmdExposes s c q words then exposeTeam s c.tm.tid else s
  let bad := words.map QWord.isK != wordKinds q
  let tm := (teamOf s c.tm.tid).getD c.tm
  let w1 := ((words[1]?).getD (QWord.s 0)).sVal
  let stream := q == 2 && !bad && !streamMalformed c w1
  let d := fieldOf w1 0 4
  let cmd : Cmd :=
    { cid := s.run.nextCmd, sid := c.st.sid, tid := c.tm.tid, queue := q, core := c.st.core, words := words
      asid := c.tm.asid, world := c.tm.world, solo := c.p.solo, launch := c.tm.launch, ranks := c.ranks s
      seq := s.run.nextEv
      after := (s.eng.qfences.filter fun f => f.1 == c.st.sid && f.2.1.getLsbD q).flatMap (·.2.2)
      lfence := sget 0 s.eng.lfences c.st.sid
      tile := if stream then some (tm.tile (fieldOf w1 4 4)) else none
      acc := if stream && fieldOf w1 16 1 == 1 then
          (tm.accs.filter fun x => x.1 / 256 == d).map fun x => (x.1 % 256, x.2)
        else []
      mark := if stream then minPoison (tm.tileMark (fieldOf w1 4 4))
          (if fieldOf w1 16 1 == 1 then tm.accMark d (List.range 256) else none) else none
      malformed := bad || (q == 2 && streamMalformed c w1), state := .queued, accWrites := [], peers := [], replies := [], part := [] }
  { s with eng := { s.eng with cmds := s.eng.cmds ++ [cmd] }
           run := { s.run with nextCmd := s.run.nextCmd + 1, nextEv := s.run.nextEv + 1 } }

/-- R190, R245: one word is pushed. A ninth command's last word parks the path until a record is popped. -/
def pushWord (q : BitVec 3) (word : Ctx → QWord) (s : State) : Out :=
  inCtx s fun c =>
    if q == 6 && !c.kernel then fileAll s c 0x02
    else if barred s c then s
    else
      let words := sget [] c.st.partials (q.toNat / 2) ++ [word c]
      if words.length < cmdWords q.toNat then
        finish (onStrand s c fun st => { st with partials := sput [] st.partials (q.toNat / 2) words }) c
      else if outstanding s c.st q.toNat < Config.queueDepth then
        let s := submitCmd s c q.toNat words
        finish (onStrand s c fun st => { st with partials := sput [] st.partials (q.toNat / 2) [] }) c
      else afterMarker s c false fun s => parkIn s c (.push q.toNat)

/-- R244 0x13 fn 0. -/
def execPushS (q : BitVec 3) (a : BitVec 6) (s : State) : Out := pushWord q (fun c => .s (c.st.getS a.toNat)) s
/-- R244 0x13 fn 1. -/
def execPushK (q : BitVec 3) (a : BitVec 4) (s : State) : Out := pushWord q (fun c => .k (c.st.getK a.toNat)) s

/-! ### Records -/

/-- The oldest record of a strand in a queue (R247). -/
def oldestRecord (st : Strand) (q : Nat) : Option QRecord := st.records.find? fun r => r.queue == q

/-- R247: a record leaves the strand; `put` writes the destination. -/
def takeRecord (s : State) (c : Ctx) (r : QRecord) (put : Strand → Strand) : State :=
  let s := onStrand s c fun st => put { st with records := st.records.filter fun x => x.cid != r.cid }
  let s := strandWrites s c.st r.accWrites
  let s := updTeam s c.tm.tid fun tm => { tm with popped := tm.popped ++ [(c.st.sid, r)] }
  wakePushers (acquireThreads s c.st.sid c.p.mask true) c.st.sid (r.queue - 1)

/-- R247, R305: pop. With no record the path parks. -/
def popRecord (q : BitVec 3) (put : State → QRecord → Strand → Strand) (s : State) : Out :=
  inCtx s fun c =>
    if q == 7 && !c.kernel then fileAll s c 0x02
    else if barred s c then s
    else match oldestRecord c.st q.toNat with
      | some r => finish (takeRecord s c r (put s r)) c
      | none => afterMarker s c false fun s => parkIn s c (.pop q.toNat)

/-- R244 0x14 fn 0. -/
def execPopS (d : BitVec 6) (q : BitVec 3) (s : State) : Out := popRecord q (fun _ r st => st.setS d.toNat r.word) s
/-- R244 0x14 fn 1: a record of q5 or q7 holds no capability: the register is untagged, its low half the record and its
high half a free value (DESIGN CHOICE 16). -/
def execPopK (d : BitVec 4) (q : BitVec 3) (s : State) : Out :=
  popRecord q (fun s r st =>
    st.setK d.toNat ⟨BitVec.ofNat 64 (Config.pick s.run.tick 0x7000) ++ r.word, false⟩) s

/-- R248: cp.yield. -/
def execCpYield (q : BitVec 3) (o : BitVec 21) (s : State) : Out :=
  inCtx s fun c =>
    if q == 7 && !c.kernel then fileAll s c 0x02
    else afterMarker s c false fun s =>
      let target := branchTarget c.p.pc o
      if (oldestRecord c.st q.toNat).isSome then finishAt s c target else parkIn s c (.cpYield q.toNat target)

/-! ### qfence (R251) -/

/-- R251: the strand's pending commands of the queues in a mask. -/
def pendingCids (s : State) (sid : Nat) (m : BitVec 8) : List Nat :=
  (s.eng.cmds.filter fun c => c.sid == sid && m.getLsbD c.queue && cmdPending s c).map (·.cid)

/-- R249, R251, R305: qfence. -/
def execQfence (m : BitVec 8) (s : State) : Out :=
  inCtx s fun c =>
    if m.getLsbD 6 && !c.kernel then fileAll s c 0x02
    else if barred s c then s
    else
      let s := exposeTeam s c.tm.tid
      let cids := pendingCids s c.st.sid m
      finish (if cids.isEmpty then s else { s with eng := { s.eng with qfences := s.eng.qfences ++ [(c.st.sid, m, cids)] } }) c

end Sys2Proof.Machine
end

