-- ==== Sys2Proof/Machine/Engines.lean ====
section
/-! DEFINITION. What the engines do with commands: copies (R189 to R195, R314), streams (R225, R226), storage (R353), the
completion of a command, and the filling of the layout cache. -/

namespace Sys2Proof.Machine

/-! ### Taking commands (R190, R251, R313) -/

/-- The command of a number. -/
def cmdOf (s : State) (cid : Nat) : Option Cmd := s.eng.cmds.find? fun c => c.cid == cid

/-- The state with `f` applied to a command. -/
def updCmd (s : State) (cid : Nat) (f : Cmd → Cmd) : State :=
  { s with eng := { s.eng with cmds := mapIf (fun c => c.cid == cid) f s.eng.cmds } }

/-- R190, R246, R251, R313: the command may be taken: it comes next in its queue, its qfences are passed, and what its threads
issued before the push is performed, at dev scope and wider. -/
def takeReady (s : State) (c : Cmd) : Bool :=
  !(s.eng.cmds.any fun x => decide (x.cid < c.cid) && x.core == c.core && x.queue == c.queue && cmdPending s x) &&
    !(s.eng.cmds.any fun x => c.after.contains x.cid && cmdPending s x) &&
    !(s.mem.events.any fun e => e.tid == c.tid && decide (e.id < c.seq) &&
      (e.sid == c.sid || e.owners.any fun r => c.ranks.contains r))

/-- R195: the status that takes the place of a cause. -/
def statusOf (cause : BitVec 7) : Nat :=
  match cause.toNat with
  | 0x04 => 1
  | 0x06 => 2
  | 0x03 => 4
  | 0x08 => 4
  | 0x10 => 5
  | 0x11 => 5
  | 0x07 => 6
  | 0x12 => 7
  | _ => 3

/-- A command ends with a status; its record is still to be written. -/
def endCmd (s : State) (cid status : Nat) : State := updCmd s cid fun c => { c with state := .performed status }

/-- R273: the context in which a command's accesses are translated and checked. -/
def Cmd.who (c : Cmd) (s : State) : Who :=
  let p := clusterOf s c.core
  let issuers := match c.queue with
    | 0 => [TlbIssuer.cluster p.die p.cluster]
    | 2 => coreIssuers s c.core
    | 4 => [.net]
    | _ => [.storage]
  { issuers := issuers, die := dieOf c.core, core := none, asid := c.asid, world := c.world, tid := some c.tid
    rank := c.ranks.foldl min (c.ranks.headD 0), solo := c.solo }

/-- An engine's access: no alignment of its own. -/
def engineAccess (kind : AccKind) (cap : Cap) (addr size : Nat) : Access :=
  { kind := kind, cap := cap, addr := addr, size := size, perm := permE ||| (if kind.writes then permS else permL)
    natural := false, whole := false, fe := false, engine := true }

/-- R186: an access of the network or storage port, which reach no buffer. -/
def portAccess (kind : AccKind) (cap : Cap) (addr size : Nat) : Access :=
  { engineAccess kind cap addr size with buffers := false }

/-- R186: an access of a command by its queue. -/
def Cmd.access (c : Cmd) (kind : AccKind) (cap : Cap) (addr size : Nat) : Access :=
  if c.queue == 0 || c.queue == 2 then engineAccess kind cap addr size else portAccess kind cap addr size

/-- R191: tag, seal, permission, bounds and checks 6 and 7 of a capability's whole range. -/
def rangeCheck (s : State) (c : Cmd) (kind : AccKind) (cap : Cap) (size : Nat) : Option Nat :=
  let a := c.access kind cap cap.addr size
  match capCheck a with
  | some e => some (statusOf e)
  | none =>
    if spaceOf cap.addr != spaceOf (cap.addr + size - 1) then some 3
    else match spaceCheck s (c.who s) a with
      | .error e => some (statusOf e)
      | .ok _ => none

/-- The team that issued a command, as it stands. -/
def Cmd.team (c : Cmd) (s : State) : Option Team := teamOf s c.tid

/-! ### Copies (R191 to R195, R314) -/

/-- The shape of a copy. -/
structure Shape where
  rows : Nat
  rowbytes : Nat
  sstride  : Nat
  dstride  : Nat
  deriving DecidableEq, Repr

/-- R192: the shape word's fields. -/
def shapeOf (w : DWord) : Shape := ⟨fieldOf w 12 12, fieldOf w 0 12, fieldOf w 24 20, fieldOf w 44 20⟩

/-- R192: the shape word of a shape. -/
def Shape.word (x : Shape) : DWord :=
  BitVec.ofNat 64 (x.dstride * 2 ^ 44 + x.sstride * 2 ^ 24 + x.rows * 2 ^ 12 + x.rowbytes)

/-- R192, R221, R272: where the layout table of a command's launch keeps a record, or the status that ends the command: the
table's address is translated in the pushing context, whose leaf must give R and a usable key (DESIGN CHOICE 17). -/
def tablePlace (s : State) (c : Cmd) (index : Nat) : State × Except Nat Loc :=
  match launchOf s c.launch with
  | none => (s, .error 5)
  | some l =>
    let va := l.layoutTable + 64 * index
    let w := c.who s
    match translate s w (va / 65536) with
    | (s, none) => (s, .error 5)
    | (s, some leaf) =>
      (s, if !leaf.r then .error 3 else if !keyCheck s w leaf then .error 7
          else .ok (.phys (leaf.pa + (va - leaf.page * 65536)) leaf.key))

/-- R191, R193: a copy command whose words are not those of a copy. -/
def copyMalformed (c : Cmd) : Bool :=
  let ctl := c.sWord 3
  c.malformed || fieldOf ctl 20 12 != 0 || fieldOf ctl 13 1 != 0

/-- R192, R221: the shape of a copy command, or the status that ends it. None while the layout record cannot be read yet. -/
def copyShape (s : State) (c : Cmd) : State × Option (Except Nat Shape) :=
  let w := c.sWord 2
  if fieldOf (c.sWord 3) 18 1 == 0 then
    let x := shapeOf w
    (s, some (if x.rows == 0 || x.rowbytes == 0 then .error 8 else .ok x))
  else
    let l := launchOf s c.launch
    if fieldOf w 16 48 != 0 || decide ((l.map (·.layoutCount)).getD 0 ≤ fieldOf w 0 16) then (s, some (.error 8))
    else
      match tablePlace s c (fieldOf w 0 16), c.team s with
      | (s, .error st), _ => (s, some (.error st))
      | (s, .ok _), none => (s, some (.error 5))
      | (s, .ok loc), some tm =>
        match layoutRead s tm c.sid c.lfence ((l.map (·.began)).getD 0) loc with
        | (s, none) => (s, none)
        | (s, some g) =>
          let r := parseRecord g.bytes g.tag
          (s, some (if g.poison.isSome then .error 10 else if r.ok then .ok ⟨r.rows, r.rowbytes, r.sstride, r.dstride⟩ else .error 8))

/-- R194: the peer team on a core of the cluster: the issuing team on its own core, else the launch's lowest-named team
there. -/
def peerOn (s : State) (tm : Team) (core n : Nat) : Option Nat :=
  let here := clusterOf s core
  if physCore s core % 4 == n then some tm.tid
  else
    let there := s.teams.filter fun x => x.launch == tm.launch && x.state != .ended && x.state != .saved && x.name.isSome &&
      match x.place with
      | some k => clusterOf s k = here && physCore s k % 4 == n
      | none => false
    (there.foldl (fun (b : Option Team) x => match b with
      | some y => if x.name.getD 0 < y.name.getD 0 then some x else some y
      | none => some x) none).map (·.tid)

/-- R194: the destination range lies within a team's buffer. -/
def fitsBuf (s : State) (weight : Bool) (off size tid : Nat) : Bool :=
  match teamOf s tid with
  | some tm => decide (off + size ≤ if weight then tm.desc.wgt else actBytes tm)
  | none => false

/-- R194: the peer teams of a multicast, or the status that ends it; no team for a command with no mask. -/
def copyPeers (s : State) (c : Cmd) : Except Nat (List Nat) :=
  let mask := fieldOf (c.sWord 3) 14 4
  let dst := (c.kWord 1).addr
  if mask == 0 then .ok []
  else if spaceOf dst != 8 && spaceOf dst != 9 then .error 8
  else match c.team s with
    | none => .error 9
    | some tm =>
      let peers := ((List.range 4).filter fun n => mask / 2 ^ n % 2 == 1).map (peerOn s tm c.core)
      if peers.any (·.isNone) then .error 9 else .ok (peers.filterMap id)

/-- R191, R194: the checks of a copy's ranges before any byte is written: its status, if one ends it. -/
def copyRanges (s : State) (c : Cmd) (x : Shape) : Option Nat :=
  let src := (x.rows - 1) * x.sstride + x.rowbytes
  let dst := (x.rows - 1) * x.dstride + x.rowbytes
  let to' := c.kWord 1
  match rangeCheck s c .load (c.kWord 0) src, rangeCheck s c .store to' dst with
  | some st, _ => some st
  | none, some st => some st
  | none, none => if c.peers.all (fitsBuf s (spaceOf to'.addr == 9) (to'.addr % 2 ^ 60) dst) then none else some 3

/-- R191, R193, R194: a copy command is taken: its fields, its peers, its shape and its ranges are checked. The peers stand
in it from the start, so that a check that fails signals each of them. -/
def startCopy (s : State) (c : Cmd) : State :=
  if copyMalformed c then endCmd s c.cid 8
  else match copyPeers s c with
    | .error st => endCmd s c.cid st
    | .ok peers =>
      let c := { c with peers := peers }
      match copyShape s c with
      | (s, none) => s
      | (s, some (.error st)) => endCmd (updCmd s c.cid fun x => { x with peers := peers }) c.cid st
      | (s, some (.ok x)) =>
        let s := updCmd s c.cid fun c => { c with peers := peers, words := c.words.set 2 (.s x.word) }
        match copyRanges s c x with
        | some st => endCmd s c.cid st
        | none => updCmd s c.cid fun c => { c with state := .running 0 0 false }

/-! #### Blocks of the destination (R192, R314)

A copy writes its destination block by block, each block as one event: a granule of 16 bytes, a group of the alias window, or
a whole line of an encrypted tier. A block holds the bytes of every row that falls in it. -/

/-- R192: the highest row that writes the byte `d` bytes after the start of the destination, and the lowest one. -/
def Shape.lastRow (x : Shape) (d : Nat) : Option Nat :=
  let r := if x.dstride == 0 then x.rows - 1 else min (x.rows - 1) (d / x.dstride)
  if d < r * x.dstride + x.rowbytes then some r else none
def Shape.firstRow (x : Shape) (d : Nat) : Option Nat :=
  (x.lastRow d).map fun _ => if x.dstride == 0 || decide (d < x.rowbytes) then 0 else (d - x.rowbytes) / x.dstride + 1

/-- R192: the source address of the byte at destination address `a`, from the highest row that writes it. -/
def Shape.source (x : Shape) (src dst a : Nat) : Option Nat :=
  if a < dst then none else (x.lastRow (a - dst)).map fun r => src + r * x.sstride + (a - dst - r * x.dstride)

/-- The rows that write bytes of a block before `row` does. -/
def Shape.earlier (x : Shape) (dst base size row : Nat) : Bool :=
  (List.range size).any fun i => !(decide (base + i < dst)) && match x.firstRow (base + i - dst) with
    | some r => decide (r < row)
    | none => false

/-- Bytes of a block that come from consecutive source addresses: their offset in the block, the first source address, and
how many. -/
structure CopyRun where
  at' : Nat
  src : Nat
  n   : Nat
  deriving DecidableEq, Repr

/-- Source addresses, byte by byte, gathered into runs. -/
def mkRuns : Nat → List (Option Nat) → List CopyRun
  | _, [] => []
  | i, none :: rest => mkRuns (i + 1) rest
  | i, some a :: rest =>
    match mkRuns (i + 1) rest with
    | r :: rs => if r.at' == i + 1 && r.src == a + 1 then ⟨i, a, r.n + 1⟩ :: rs else ⟨i, a, 1⟩ :: r :: rs
    | [] => [⟨i, a, 1⟩]

/-- The size of the block of a destination address: whole lines of tiers 1 and 2 go as one. -/
def blockSize (x : Shape) (src dst a tier : Nat) : Nat :=
  if spaceOf dst == 0xD then 64
  else if tier != 0 && (List.range 64).all fun i => (x.source src dst (a / 64 * 64 + i)).isSome then 64
  else 16

/-- The tier that a destination address lies in. -/
def blockTier (s : State) (c : Cmd) (a : Nat) : Nat :=
  match checkAccess s (c.who s) (engineAccess .store (c.kWord 1) a 1) with
  | (_, .ok [(.phys pa _, _)]) => (tierAt pa).getD 0
  | _ => 0

/-- A place further on. -/
def Loc.shift (loc : Loc) (n : Nat) : Loc :=
  match loc with
  | .phys pa slot => .phys (pa + n) slot
  | .act t o => .act t (o + n)
  | .wgt t o => .wgt t (o + n)
  | .remote p va => .remote p (va + BitVec.ofNat 51 n)
  | .window unit u => .window unit (u + n)
  | .sys va => .sys (va + BitVec.ofNat 64 n)

/-- The place of byte `i` of an access. -/
def locAt : List (Loc × Nat) → Nat → Option Loc
  | [], _ => none
  | (l, n) :: rest, i => if i < n then some (l.shift i) else locAt rest (i - n)

/-- The granules that lie whole in a range of addresses. -/
def wholeGranules (a n : Nat) : List Nat := (granulesOf a n).filter fun g => decide (a ≤ 16 * g) && decide (16 * g + 16 ≤ a + n)

/-- What another package has answered to a command's read of `n` bytes. -/
def Cmd.reply? (c : Cmd) (va : BitVec 51) (n : Nat) : Option Reply := c.replies.find? fun r => r.va == va && r.bytes.length == n

/-- The source bytes of an access of a command. Those of another package are its answer. A place whose owner is gone has none
(R264). -/
def sourceBytes (s : State) (c : Cmd) (locs : List (Loc × Nat)) (n : Nat) : State × Got :=
  match locs with
  | [(.act tid off, _)] => match teamOf s tid with
    | some tm => (s, ⟨bufBytes tm false off n, [], false, bufPoison tm false off n⟩)
    | none => (s, ⟨List.replicate n 0, [], false, none⟩)
  | [(.remote _ va, _)] => match c.reply? va n with
    | some r => (s, ⟨r.bytes, [], r.tags.headD false, r.poison⟩)
    | none => (s, ⟨List.replicate n 0, [], false, none⟩)
  | _ => match readLocs s (c.team s) locs with
    | (s, some g) => (s, g)
    | (s, none) => (s, ⟨List.replicate n 0, [], false, none⟩)

/-- R279: the poison of one byte of a source. -/
def bytePoison (s : State) (c : Cmd) (n : Nat) (locs : List (Loc × Nat)) (i : Nat) : Option (BitVec 12) :=
  match locAt locs i with
  | some (.phys pa _) => if ((c.team s).bind fun t => stagedByte t pa).isSome then none else poisonOf s.mem (lineOf pa)
  | some (.act t off) => (teamOf s t).bind fun tm => bufPoison tm false off 1
  | some (.wgt t off) => (teamOf s t).bind fun tm => bufPoison tm true off 1
  | some (.window unit u) => (linesOf (groupAt unit (u / 64)) 24).foldl (fun p l => minPoison p (poisonOf s.mem l)) none
  | some (.sys va) => (sysPhys va).bind fun pa => poisonOf s.mem (lineOf pa)
  | some (.remote _ va) => (c.reply? (va - BitVec.ofNat 51 i) n).bind (·.poison)
  | none => none

/-- R92: the tag of the source granule at byte `i` of a source. -/
def byteTag (s : State) (c : Cmd) (src n : Nat) (locs : List (Loc × Nat)) (i : Nat) : Bool :=
  match locAt locs i with
  | some (.phys pa _) => ((c.team s).bind fun t => stagedTag t (pa / 16)).getD (tagAt s.mem pa)
  | some (.remote _ va) =>
    match c.reply? (va - BitVec.ofNat 51 i) n, (wholeGranules src n).findIdx? fun g => g == (src + i) / 16 with
    | some r, some k => (r.tags[k]?).getD false
    | _, _ => false
  | _ => false

/-- A run with what has been read for it: its bytes, the poison of each, the tags of the whole granules that it carries by
their offset in the block (R92), and the places it goes to. -/
structure Piece where
  at'    : Nat
  bytes  : List Byte
  poison : List (Option (BitVec 12))
  tags   : List (Nat × Bool)
  to'    : List (Loc × Nat)

/-- R191: alignment that a run of the alias window needs. -/
def runAligned (base : Nat) (r : CopyRun) : Bool :=
  !(spaceOf r.src == 0xD && (r.src % 2 != 0 || r.n % 2 != 0)) &&
    !(spaceOf base == 0xD && ((base + r.at') % 2 != 0 || r.n % 2 != 0))

/-- R92: the tags that a run carries: of granules copied whole between aligned places, under LC and SC. -/
def runTags (s : State) (c : Cmd) (base : Nat) (r : CopyRun) (from' : List (Loc × Nat)) : List (Nat × Bool) :=
  if r.src % 16 == (base + r.at') % 16 && (c.kWord 0).has permLC && (c.kWord 1).has permSC then
    (wholeGranules (base + r.at') r.n).map fun g =>
      let i := 16 * g - (base + r.at')
      (r.at' + i, byteTag s c r.src r.n from' i)
  else []

/-- R191, R314: the runs of a block, checked and read one after the other; or the status that stops the command. -/
def readRuns (s : State) (c : Cmd) (base : Nat) : List CopyRun → State × Except Nat (List Piece)
  | [] => (s, .ok [])
  | r :: rs =>
    if !runAligned base r then (s, .error 4)
    else match checkAccess s (c.who s) (engineAccess .load (c.kWord 0) r.src r.n) with
      | (s, .error e) => (s, .error (statusOf e))
      | (s, .ok from') =>
        match checkAccess s (c.who s) (engineAccess .store (c.kWord 1) (base + r.at') r.n) with
        | (s, .error e) => (s, .error (statusOf e))
        | (s, .ok to') =>
          let (s, g) := sourceBytes s c from' r.n
          let poison := if g.poison.isNone then List.replicate r.n none else (List.range r.n).map (bytePoison s c r.n from')
          let piece : Piece := { at' := r.at', bytes := g.bytes, poison := poison, tags := runTags s c base r from', to' := to' }
          match readRuns s c base rs with
          | (s, .error e) => (s, .error e)
          | (s, .ok ps) => (s, .ok (piece :: ps))

/-- A packet's fields from an engine's access to another package. Its serial is odd and names the command. -/
def enginePacket (s : State) (c : Cmd) (t : PacketType) (pkg : BitVec 9) (va : BitVec 51) (bs : List Byte) (n : Nat) (op : BitVec 16) :
    Packet :=
  { ptype := t, target := pkg, source := s.fabric.pkgNo, world := c.world, colour := (c.kWord 1).colour, addr := va
    cap := c.kWord 1, payload := bs, length := n, tags := [], op := op
    serial := 2 * (c.cid * 2 ^ 32 + s.fabric.nextSerial % 2 ^ 32) + 1, launch := c.launch
    x := ((c.team s).map (·.key.x)).getD 0, y := ((c.team s).map (·.key.y)).getD 0, z := ((c.team s).map (·.key.z)).getD 0
    rank := c.ranks.headD 0, pc := 0, word := 0, status := 0 }

/-- A packet is put into the port's queue (R300). -/
def queuePacket (s : State) (p : Packet) : State :=
  { s with fabric := { s.fabric with outbox := s.fabric.outbox ++ [p], nextSerial := s.fabric.nextSerial + 1 } }

/-- The poison that an op field carries. -/
def opPoison (op : BitVec 16) : Option (BitVec 12) := if op.getLsbD 14 then some (op.setWidth 12) else none

/-- The lowest provenance of a list. -/
def joinPoison (ps : List (Option (BitVec 12))) : Option (BitVec 12) := ps.foldl minPoison none

/-- R281: bytes that an engine writes in its team's name add to the team's signature. -/
def signEngine (s : State) (c : Cmd) (va : Nat) (bs : List Byte) : State :=
  updTeam s c.tid fun t => { t with signature := signBytes t.signature va bs }

/-- R279: bytes of a line that a command has written: their poison joins the line's, and once the command has written the
whole line it is what the line has, and no other. -/
def noteLine (s : State) (c : Cmd) (line n : Nat) (prov : Option (BitVec 12)) : State :=
  let now := (cmdOf s c.cid).getD c
  let (m, p) := match now.part.find? fun x => x.1 == line with
    | some x => (x.2.1 + n, minPoison x.2.2 prov)
    | none => (n, prov)
  let rest := now.part.filter fun x => x.1 != line
  if m == 64 then
    { updCmd s c.cid fun c => { c with part := rest } with mem := { s.mem with poison := sput none s.mem.poison line p } }
  else
    let s := updCmd s c.cid fun c => { c with part := rest ++ [(line, m, p)] }
    match prov with
    | some q => { s with mem := addPoison s.mem line q }
    | none => s

/-- R92, R279, R314: bytes written to memory in the name of a command, with the tags of whole granules by their offset. -/
def writeMem (s : State) (c : Cmd) (slot pa : Nat) (bs : List Byte) (poison : List (Option (BitVec 12))) (tags : List (Nat × Bool)) :
    State :=
  let s := writePhys s none slot pa bs none
  let s := { s with mem := tags.foldl (fun m t => setTag m ((pa + t.1) / 16) t.2) s.mem }
  (linesOf pa bs.length).foldl (fun s l =>
    let mine := (List.range bs.length).filter fun i => lineOf (pa + i) == l
    noteLine s c l mine.length (joinPoison (mine.map fun i => (poison[i]?).getD none))) s

/-- R92, R193, R279, R314: bytes of a piece written to one place. The words of a buffer are settled afterwards. -/
def writePiece (s : State) (c : Cmd) (loc : Loc) (bs : List Byte) (poison : List (Option (BitVec 12)))
    (tags : List (Nat × Bool)) : State :=
  match loc with
  | .phys pa slot => writeMem s c slot pa bs poison tags
  | .act tid off => writeBuf s tid false off bs
  | .wgt tid off => writeBuf s tid true off bs
  | .window unit u =>
    let s := aliasWrite s none unit u bs
    match joinPoison poison with
    | some p => { s with mem := (aliasGroups u bs.length).foldl (fun m g =>
        (linesOf (groupAt unit g) 24).foldl (fun m l => addPoison m l p) m) s.mem }
    | none => s
  | .remote pkg va' =>
    let p := enginePacket s c .store pkg va' bs bs.length (poisonOp (joinPoison poison))
    queuePacket s { p with tags := tags.map (·.2) }
  | .sys a =>
    let s := writeLoc s none loc bs none
    match joinPoison poison, sysPhys a with
    | some p, some pa => { s with mem := (linesOf pa bs.length).foldl (fun m l => addPoison m l p) s.mem }
    | _, _ => s

/-- R193, R279: the words of a buffer after a block has been written: a word written whole has the poison of its new bytes
alone, any other that of both, lower provenance first; under `fill` each word of an activation buffer written whole becomes
full. `cells` are the written bytes' offsets with their poison. -/
def settleWords (s : State) (tid : Nat) (weight fill : Bool) (cells : List (Nat × Option (BitVec 12))) : State :=
  let words := (cells.map fun x => x.1 / 4).foldl (fun l i => nins i l) []
  updTeam s tid fun tm => words.foldl (fun (tm : Team) i =>
    let mine := cells.filter fun x => x.1 / 4 == i
    let new := joinPoison (mine.map (·.2))
    let old := sget none (if weight then tm.wgtPoison else tm.actPoison) i
    let p := if mine.length == 4 then new else minPoison old new
    if weight then { tm with wgtPoison := sput none tm.wgtPoison i p }
    else { tm with actPoison := sput none tm.actPoison i p, fe := if fill && mine.length == 4 then sput false tm.fe i true else tm.fe }) tm

/-- The byte offsets of pieces in a buffer, with their poison. -/
def bufCells (ps : List (Loc × List (Option (BitVec 12)))) (tid : Nat) (weight : Bool) : List (Nat × Option (BitVec 12)) :=
  ps.flatMap fun x => match x.1 with
    | .act t off => if t == tid && !weight then x.2.zipIdx.map fun y => (off + y.2, y.1) else []
    | .wgt t off => if t == tid && weight then x.2.zipIdx.map fun y => (off + y.2, y.1) else []
    | _ => []

/-- The places of a piece, each with its share: bytes, poison and tags by offset. -/
def pieceShares : List (Loc × Nat) → List Byte → List (Option (BitVec 12)) → List (Nat × Bool) →
    List (Loc × List Byte × List (Option (BitVec 12)) × List (Nat × Bool))
  | [], _, _, _ => []
  | (l, n) :: rest, bs, ps, ts =>
    (l, bs.take n, ps.take n, ts.filter fun t => decide (t.1 < n)) ::
      pieceShares rest (bs.drop n) (ps.drop n) ((ts.filter fun t => decide (n ≤ t.1)).map fun t => (t.1 - n, t.2))

/-- R194: the places of a piece in each peer's buffer. -/
def peerPlaces (peers : List Nat) (weight : Bool) (off n : Nat) : List (List (Loc × Nat)) :=
  peers.map fun t => [(if weight then .wgt t off else .act t off, n)]

/-- Every team of a place. -/
def locTeam : Loc → List (Nat × Bool)
  | .act t _ => [(t, false)]
  | .wgt t _ => [(t, true)]
  | _ => []

/-- R281, R193, R194, R314: pieces written as one event: each to its own places or, for a multicast, to those of every peer. -/
def writePieces (s : State) (c : Cmd) (fill : Bool) (base : Nat) (ps : List Piece) : State :=
  let s := ps.foldl (fun s p => signEngine s c (base + p.at') p.bytes) s
  let shares := ps.flatMap fun p =>
    let tags := p.tags.map fun t => (t.1 - p.at', t.2)
    let places := if c.peers.isEmpty then [p.to'] else peerPlaces c.peers (spaceOf base == 9) ((base + p.at') % 2 ^ 60) p.bytes.length
    places.flatMap fun to' => pieceShares to' p.bytes p.poison tags
  let s := shares.foldl (fun s x => writePiece s c x.1 x.2.1 x.2.2.1 x.2.2.2) s
  let bufs := (shares.flatMap fun x => locTeam x.1).foldl (fun l x => if l.contains x then l else l ++ [x]) []
  bufs.foldl (fun s b => settleWords s b.1 b.2 fill (bufCells (shares.map fun x => (x.1, x.2.2.1)) b.1 b.2)) s

/-- R390: the runs of a block whose source in another package has not answered yet, and where. -/
def farRuns (s : State) (c : Cmd) (rs : List CopyRun) : List (CopyRun × BitVec 9 × BitVec 51) :=
  rs.filterMap fun r =>
    match checkAccess s (c.who s) (engineAccess .load (c.kWord 0) r.src r.n) with
    | (_, .ok [(.remote pkg va, _)]) => if (c.reply? va r.n).isSome then none else some (r, pkg, va)
    | _ => none

/-- R92, R390: bytes of another package are asked for under a capability, with their tags. -/
def askFar (s : State) (c : Cmd) (cap : Cap) (pkg : BitVec 9) (va : BitVec 51) (n : Nat) : State :=
  if packetsOf s c.cid then s
  else queuePacket s { enginePacket s c .get pkg va [] n 0 with cap := cap, colour := cap.colour }

/-! #### Rotation (R265) -/

/-- A cluster's number. -/
def Place.key (p : Place) : Nat := 64 * p.die + p.cluster

/-- R265: a command's copy engine, and its core's number in the cluster. -/
def Cmd.cluster (c : Cmd) (s : State) : Nat := (clusterOf s c.core).key
def Cmd.localCore (c : Cmd) (s : State) : Nat := physCore s c.core % 4

/-- A copy that has a row to do. -/
def copyBusy (s : State) (c : Cmd) : Bool :=
  c.queue == 0 && match c.state with
    | .queued => takeReady s c
    | .running _ _ _ => true
    | .performed _ => false

/-- R265: how far a command's queue stands after the one that was served last. -/
def copyTurn (s : State) (c : Cmd) : Nat := (c.localCore s + 4 - sget 0 s.eng.copyLast (c.cluster s) % 4) % 4

/-- R265: the cluster's copy engine may serve the command now: its row is in progress, or none is and its queue comes first in
the rotation of those that have work. -/
def mayCopy (s : State) (c : Cmd) : Bool :=
  let k := c.cluster s
  let inRow := sget 0 s.eng.copyTurn k
  if inRow == c.cid + 1 then copyBusy s c
  else if s.eng.cmds.any fun x => x.cid + 1 == inRow && x.state.pending then false
  else copyBusy s c && !(s.eng.cmds.any fun x => x.cid != c.cid && x.cluster s == k && decide (copyTurn s x < copyTurn s c) && copyBusy s x)

/-- R265: a row of a command is in progress, or its turn has ended. -/
def takeTurn (s : State) (c : Cmd) : State :=
  { s with eng := { s.eng with copyTurn := sput 0 s.eng.copyTurn (c.cluster s) (c.cid + 1) } }
def passCopy (s : State) (c : Cmd) : State :=
  { s with eng := { s.eng with copyTurn := sput 0 s.eng.copyTurn (c.cluster s) 0
                               copyLast := sput 0 s.eng.copyLast (c.cluster s) (c.localCore s + 1) } }

/-! #### Running a copy -/

/-- The block of destination address `a` of a copy: its first address, its size and its runs. -/
def copyBlock (s : State) (c : Cmd) (x : Shape) (a : Nat) : Nat × Nat × List CopyRun :=
  let src := (c.kWord 0).addr
  let dst := (c.kWord 1).addr
  let size := blockSize x src dst a (blockTier s c a)
  let base := a / size * size
  (base, size, mkRuns 0 ((List.range size).map fun i => x.source src dst (base + i)))

/-- The copy goes on at byte `off` of `row`, or at the row after it, or ends. -/
def copyNext (s : State) (c : Cmd) (x : Shape) (row off : Nat) (bad : Bool) : State :=
  if off < x.rowbytes then updCmd s c.cid fun c => { c with state := .running row off bad }
  else if row + 1 < x.rows then passCopy (updCmd s c.cid fun c => { c with state := .running (row + 1) 0 bad }) c
  else passCopy (endCmd s c.cid (if bad then 10 else 0)) c

/-- R191, R192, R279, R314: the next block of a running copy. A block that an earlier row has written is passed. -/
def runCopy (s : State) (c : Cmd) (row off : Nat) (bad : Bool) : State :=
  let x := shapeOf (c.sWord 2)
  let dst := (c.kWord 1).addr
  let a := dst + row * x.dstride + off
  let (base, size, runs) := copyBlock s c x a
  let next := off + (base + size - a)
  let s := takeTurn s c
  if x.earlier dst base size row then copyNext s c x row next bad
  else match farRuns s c runs with
    | (r, pkg, va) :: _ => askFar s c (c.kWord 0) pkg va r.n
    | [] =>
      match readRuns s c base runs with
      | (s, .error st) => passCopy (endCmd s c.cid st) c
      | (s, .ok ps) =>
        let s := writePieces s c (fieldOf (c.sWord 3) 19 1 == 1) base ps
        let s := updCmd s c.cid fun c => { c with replies := [] }
        copyNext s c x row next (bad || (joinPoison (ps.flatMap (·.poison))).isSome)

/-- A step of the copy engine on a command of its queue. -/
def stepCopy (s : State) (cid : Nat) : State :=
  match cmdOf s cid with
  | none => s
  | some c =>
    if c.queue != 0 || !mayCopy s c then s
    else match c.state with
      | .queued => startCopy s c
      | .running row off bad => runCopy s c row off bad
      | .performed _ => s

/-! ### Streams (R225, R226) -/

/-- One access of the stream unit, with its alignment. -/
def streamCheck (s : State) (c : Cmd) (cap : Cap) (addr size align : Nat) : State × Except Nat (List (Loc × Nat)) :=
  match checkAccess s (c.who s) { engineAccess .load cap addr size with align := align } with
  | (s, .error e) => (s, .error (statusOf e))
  | (s, .ok locs) => (s, .ok locs)

/-- The bytes of an access of the stream unit. Those of another package are asked for first: none until they are there. -/
def streamBytes (s : State) (c : Cmd) (cap : Cap) (locs : List (Loc × Nat)) (n : Nat) : State × Option Got :=
  match locs with
  | [(.remote pkg va, _)] =>
    if (c.reply? va n).isSome then
      let (s, g) := sourceBytes s c locs n
      (s, some g)
    else (askFar s c cap pkg va n, none)
  | _ =>
    let (s, g) := sourceBytes s c locs n
    (s, some g)

/-- R202, R224 step 3 for a command: the weight rows from `i` on. None while another package has still to answer. -/
def streamRows (s : State) (c : Cmd) (r : LayoutRec) : Nat → Nat → State × Option (Except Nat (List (List Byte) × Bool))
  | 0, _ => (s, some (.ok ([], false)))
  | n + 1, i =>
    match streamCheck s c r.wcap (r.wcap.addr + i * r.sstride) r.rowbytes 16 with
    | (s, .error e) => (s, some (.error e))
    | (s, .ok locs) =>
      match streamBytes (exposeAccess s c.tid (r.wcap.addr + i * r.sstride) false locs) c r.wcap locs r.rowbytes with
      | (s, none) => (s, none)
      | (s, some g) =>
        match streamRows s c r n (i + 1) with
        | (s, some (.ok (rows, p))) => (s, some (.ok (g.bytes :: rows, p || g.poison.isSome)))
        | other => other

/-- R226: a stream command from its record's bytes. -/
def runStream (s : State) (c : Cmd) (got : Got) : State :=
  let d := c.sWord 1
  let wf := fieldOf d 10 3
  let n := fieldOf d 13 3 + 1
  let dest := fieldOf d 0 4
  let r := parseRecord got.bytes (got.tag && (c.kWord 0).has permLC)
  let tile := c.tile.getD zeroTile
  if got.poison.isSome then endCmd s c.cid 10
  else match streamShape wf n r tile with
    | none => endCmd s c.cid 8
    | some k =>
      match streamRows s c r r.rows 0 with
      | (s, none) => s
      | (s, some (.error e)) => endCmd s c.cid e
      | (s, some (.ok (rows, bad))) =>
        if bad || c.mark.isSome then endCmd s c.cid 10 else
        let cells := streamElems wf n k (fieldOf d 16 1 == 1) (fun e => (sget 0 c.acc e).toNat) rows tile
        let stat := cells.foldl (fun (m : BitVec 4) e => m ||| e.2.2) 0
        let ws := (cells.map fun e => Write.acc dest e.1 (BitVec.ofNat 56 e.2.1)) ++ (if stat == 0 then [] else [.mstat stat])
        endCmd (updCmd s c.cid fun c => { c with accWrites := ws }) c.cid 0

/-- R222: the record of a stream command: none while it cannot be read yet. -/
def streamRecord (s : State) (c : Cmd) (tm : Team) (locs : List (Loc × Nat)) : State × Option Got :=
  let began := ((launchOf s c.launch).map (·.began)).getD 0
  if farLocs locs then
    match streamBytes s c (c.kWord 0) locs 64 with
    | (s, none) => (s, none)
    | (s, some g) => recordRead s tm c.sid c.lfence began locs (some g)
  else recordRead s tm c.sid c.lfence began locs none

/-- A step of the stream unit: it performs a command of its queue. While it waits for another package the command stands in
the queue. -/
def stepStream (s : State) (cid : Nat) : State :=
  match cmdOf s cid with
  | none => s
  | some c =>
    if c.queue != 2 || c.state ≠ .queued || !takeReady s c then s
    else if c.malformed then endCmd s cid 8
    else
      let cap := c.kWord 0
      match streamCheck s c cap cap.addr 64 64, c.team s with
      | (s, .error e), _ => endCmd s cid e
      | (s, .ok _), none => endCmd s cid 3
      | (s, .ok locs), some tm =>
        match streamRecord s c tm locs with
        | (s, none) => s
        | (s, some got) => runStream s c got

/-! ### Completion (R193, R195, R197, R198) -/

/-- The utag that a record returns, in place (R195, R353, R381). -/
def Cmd.utag (c : Cmd) : DWord :=
  match c.queue with
  | 0 => BitVec.ofNat 64 (fieldOf (c.sWord 3) 32 32 * 2 ^ 32)
  | 2 => BitVec.ofNat 64 (fieldOf (c.sWord 1) 32 32 * 2 ^ 32)
  | 4 => BitVec.ofNat 64 (fieldOf (c.sWord 2) 24 12 * 2 ^ 32)
  | _ => BitVec.ofNat 64 (fieldOf (c.sWord 2) 32 32 * 2 ^ 32)

/-- R193: the teams whose barrier a copy signals. -/
def signalled (s : State) (c : Cmd) : List Nat :=
  if !c.peers.isEmpty then c.peers
  else
    let a := (c.kWord 1).addr
    if spaceOf a == 0xA then
      match (c.team s).bind fun tm => peerTeam s tm (a % 2 ^ 60 / 2 ^ 56) with
      | some tm => [tm.tid]
      | none => [c.tid]
    else [c.tid]

/-- R193, R198: the barrier signals of a copy that ends with `status`, and the status of its record. -/
def signalCopy (s : State) (c : Cmd) (status : Nat) : State × Nat :=
  let ctl := c.sWord 3
  if c.queue != 0 || fieldOf ctl 12 1 == 0 || status == 8 || status == 9 then (s, status)
  else
    (signalled s c).foldl (fun (x : State × Nat) tid =>
      match (teamOf x.1 tid).bind fun tm => if tm.state = .ended then none else barrierLoc tm (fieldOf ctl 0 12) with
      | some loc => ((arriveAt x.1 loc).1, x.2)
      | none => (x.1, 8)) (s, status)

/-- R195, R305: Complete: the barrier signals, then the record; commands of one strand and queue in their order. -/
def stepComplete (s : State) (cid : Nat) : State :=
  match cmdOf s cid with
  | none => s
  | some c =>
    match c.state with
    | .performed status =>
      if packetsOf s cid || s.eng.cmds.any fun x => decide (x.cid < cid) && x.sid == c.sid && x.queue == c.queue then s
      else
        let (s, status) := signalCopy s c status
        let r : QRecord :=
          { queue := c.queue + 1, word := c.utag ||| BitVec.ofNat 64 status
            accWrites := if status == 0 then c.accWrites else [], cid := cid }
        let fences := (s.eng.qfences.map fun f => (f.1, f.2.1, f.2.2.filter fun x => x != cid)).filter fun f => !f.2.2.isEmpty
        let s := { s with eng := { s.eng with cmds := s.eng.cmds.filter fun x => x.cid != cid, qfences := fences } }
        wakePoppers (updStrand s c.sid fun st => { st with records := st.records ++ [r] }) c.sid (c.queue + 1)
    | _ => s

/-- R305: LayoutFill of the record at 64 times `rec`. -/
def stepLayoutFill (s : State) (rec : Nat) : State :=
  let slot := match sget none s.mem.encLines rec with
    | some e => e.slot
    | none => 0
  if (tierAt (64 * rec)).isNone then s else (fillLayout s (.phys (64 * rec) slot)).1

/-! ### Storage (R353) -/

/-- R353: a storage command whose fields break the table. -/
def storageMalformed (c : Cmd) : Bool :=
  let w := c.sWord 2
  c.malformed || decide (15 < fieldOf (c.sWord 1) 56 8) || fieldOf (c.sWord 1) 48 8 != 0 || fieldOf w 8 8 == 0 ||
    fieldOf w 2 6 != 0 || (fieldOf w 0 2 != 1 && fieldOf w 0 2 != 2)

/-- R353: the checks of a storage command before its first page: its status, if one ends it. -/
def storageStart (s : State) (c : Cmd) : Option Nat :=
  let w := c.sWord 2
  let write := fieldOf w 0 2 == 2
  let key := keySlot s (fieldOf w 16 16)
  if storageMalformed c then some 8
  else match rangeCheck s c (if write then .load else .store) (c.kWord 0) (65536 * fieldOf w 8 8) with
    | some st => some st
    | none =>
      if !s.eng.drives.contains (fieldOf (c.sWord 1) 56 8) then some 13
      else if write && !(key.state == 1 && key.use == 0) then some 7
      else none

/-- The next page of a storage command, or its end. -/
def storageNext (s : State) (c : Cmd) (page : Nat) : State :=
  if page + 1 < fieldOf (c.sWord 2) 8 8 then updCmd s c.cid fun c => { c with state := .running (page + 1) 0 false }
  else endCmd s c.cid 0

/-- R353: one page read from a drive: verified before any byte of it is written. -/
def readPage (s : State) (c : Cmd) (page : Nat) (mediaError : Bool) : State :=
  let drive := fieldOf (c.sWord 1) 56 8
  let block := fieldOf (c.sWord 1) 0 48 + 16 * page
  let slot := fieldOf (c.sWord 2) 16 16
  let key := keySlot s slot
  let addr := (c.kWord 0).addr + 65536 * page
  if mediaError then endCmd s c.cid 12
  else match s.eng.drivePages.find? fun p => p.drive == drive && p.block == block with
    | none => endCmd s c.cid 11
    | some p =>
      if !(p.slot == slot && p.gen == key.gen && key.state == 1) then endCmd s c.cid 11
      else match checkAccess s (c.who s) (portAccess .store (c.kWord 0) addr 65536) with
        | (s, .error e) => endCmd s c.cid (statusOf e)
        | (s, .ok locs) =>
          let s := (locs.foldl (fun (x : State × Nat) y =>
            (writeLoc x.1 none y.1 (sbytes p.data x.2 y.2) none, x.2 + y.2)) (signEngine s c addr (sbytes p.data 0 65536), 0)).1
          let tag := fun (s : State) (y : Loc × Nat) (at' : Nat) => match y.1 with
            | .phys pa _ =>
              let mine := p.tags.filter fun g => decide (at' ≤ 16 * g) && decide (16 * g < at' + y.2)
              let m := mine.foldl (fun m g => setTag m (pa / 16 + (g - at' / 16)) true) s.mem
              if pa % 16 == 0 && at' % 16 == 0 then { s with mem := m } else s
            | _ => s
          let s := (locs.foldl (fun (x : State × Nat) y => (tag x.1 y x.2, x.2 + y.2)) (s, 0)).1
          storageNext s c page

/-- R353: the nonce of a page: the drive, the block and the slot's write counter; and the page's 4,096 tag bits as bytes. The
widths and order of the parts are the model's (DESIGN CHOICE 94). -/
def storageNonce (drive block counter : Nat) : BitVec 96 := BitVec.ofNat 96 (drive * 2 ^ 88 + block * 2 ^ 40 + counter % 2 ^ 40)
def tagBytes (tags : List Nat) : List Byte :=
  (List.range 512).map fun i => BitVec.ofNat 8 (((List.range 8).filter fun j => tags.contains (8 * i + j)).foldl (fun n j => n + 2 ^ j) 0)

/-- R353: one page written to a drive under the slot's key, over whatever its 16 blocks held, with its GCM tag after it. -/
def writePage (s : State) (c : Cmd) (page : Nat) (mediaError : Bool) : State :=
  let drive := fieldOf (c.sWord 1) 56 8
  let block := fieldOf (c.sWord 1) 0 48 + 16 * page
  let slot := fieldOf (c.sWord 2) 16 16
  let key := keySlot s slot
  let addr := (c.kWord 0).addr + 65536 * page
  if mediaError then endCmd s c.cid 12
  else match checkAccess s (c.who s) (portAccess .load (c.kWord 0) addr 65536) with
    | (s, .error e) => endCmd s c.cid (statusOf e)
    | (s, .ok locs) =>
      let (s, g) := sourceBytes s c locs 65536
      if g.poison.isSome then endCmd s c.cid 10
      else
        let tags := (locs.foldl (fun (x : List Nat × Nat) y => match y.1 with
          | .phys pa _ =>
            let mine := (List.range (y.2 / 16)).filter fun i => tagAt s.mem (pa + 16 * i)
            (x.1 ++ mine.map (· + x.2 / 16), x.2 + y.2)
          | _ => (x.1, x.2 + y.2)) ([], 0)).1
        let p : DrivePage :=
          { drive := drive, block := block, data := sputs [] 0 g.bytes, tags := tags, slot := slot, gen := key.gen
            counter := key.writes, gcm := gcmTag key.key (storageNonce drive block key.writes) (g.bytes ++ tagBytes tags) }
        let pages := (s.eng.drivePages.filter fun x => !(x.drive == drive && decide (x.block < block + 16) && decide (block < x.block + 16))) ++ [p]
        let s := { s with eng := { s.eng with drivePages := pages }
                          trust := { s.trust with keys := sput noKey s.trust.keys slot { key with writes := key.writes + 1 } } }
        storageNext s c page

/-- A step of the storage port on a command: `read` says which event it is, `mediaError` what the drive answers. -/
def stepStorage (s : State) (cid : Nat) (read mediaError : Bool) : State :=
  match cmdOf s cid with
  | none => s
  | some c =>
    if c.queue != 6 || read != (fieldOf (c.sWord 2) 0 2 != 2) then s
    else match c.state with
      | .queued =>
        if !takeReady s c then s
        else match storageStart s c with
          | some st => endCmd s cid st
          | none => updCmd s cid fun c => { c with state := .running 0 0 false }
      | .running page _ _ => if read then readPage s c page mediaError else writePage s c page mediaError
      | .performed _ => s

end Sys2Proof.Machine
end

