-- ==== Sys2Proof/Machine/Seams.lean ====
section
/-! DEFINITION. Seams (R360 to R374, R378, R379): the seam table, the Unpick stack and the seam instructions. -/

namespace Sys2Proof.Machine

/-! ### The seam table (R360, R361) -/

/-- R361: the handle of an activity. -/
def SeamEntry.handle (a : SeamEntry) : DWord :=
  BitVec.ofNat 64 (a.world.toNat * 2 ^ 32 + a.gen.toNat * 2 ^ 16 + a.index)

/-- R361, R363: the live activity that a handle names for an issuer of `world`. -/
def liveSeam (s : State) (world : BitVec 8) (h : DWord) : Option SeamEntry :=
  s.seams.entries.find? fun a => a.handle == h && a.world == world

/-- The activity at an index. -/
def seamAt (s : State) (index : Nat) : Option SeamEntry := s.seams.entries.find? fun a => a.index == index

/-- The state with `f` applied to one activity. -/
def updSeam (s : State) (index : Nat) (f : SeamEntry → SeamEntry) : State :=
  { s with seams := { s.seams with entries := mapIf (fun a => a.index == index) f s.seams.entries } }

/-- R366: a frame's 64 bytes, and where they stand: each die's last gigabyte is its pool (DESIGN CHOICE 25). -/
def SeamFrame.bytes (f : SeamFrame) : List Byte :=
  f.comp.toBytes ++ f.arg.toBytes ++ bytesOfNat 8 f.seq ++ bytesOfNat 8 f.prev ++ bytesOfNat 2 f.index ++
    [f.colour ++ (0 : BitVec 2) ++ f.state, BitVec.ofNat 8 (f.step - 1)] ++ bytesOfNat 4 f.owner ++ bytesOfNat 8 0
def SeamFrame.place (f : SeamFrame) : Nat := f.die * 0x1000000000 + 0xBA8000000 + 64 * f.slot

/-- R366: a frame written in its pool, with the tags of its two capabilities. -/
def keepFrame (m : MemState) (f : SeamFrame) : MemState :=
  let tags := fun (i : Nat) => (f.place / 16 + i, (i == 0 && f.comp.tag) || (i == 1 && f.arg.tag))
  putTags { m with cells := cellPuts m.cells f.place f.bytes } ((List.range 4).map tags)

/-- R366: the state with an activity changed, and its frames written in their pools. -/
def updFrames (s : State) (index : Nat) (f : SeamEntry → SeamEntry) : State :=
  let s := updSeam s index f
  match seamAt s index with
  | some a => { s with mem := a.frames.foldl keepFrame s.mem }
  | none => s

/-- R366: the place that a new frame takes in a die's pool: the lowest that is free (DESIGN CHOICE 18). -/
def poolSlot (s : State) (die : Nat) : Nat :=
  let used := s.seams.entries.flatMap fun a => (a.frames.filter fun f => f.die == die).map (·.slot)
  ((List.range (used.length + 1)).find? fun i => !used.contains i).getD used.length

/-- R360, R364: the activity reaches DONE: its frames are freed and its entry becomes free. -/
def seamDone (s : State) (index : Nat) : State :=
  { s with seams := { s.seams with entries := s.seams.entries.filter fun a => a.index != index } }

/-- R364, R373: an OPEN activity enters UNPICKING; its compensation teams run in `runner`. -/
def seamUnpick (s : State) (index runner : Nat) : State :=
  updSeam s index fun a => if a.state == .open then { a with state := .unpicking, runner := runner } else a

/-- A team has not ended. -/
def teamLives (s : State) (tid : Nat) : Bool :=
  match teamOf s tid with
  | some tm => tm.state != .ended
  | none => false

/-- R364: a step of the activity has entered stage 1 and is neither armed nor left by a team that has ended. -/
def stepInProgress (s : State) (a : SeamEntry) : Bool := a.frames.any fun f => f.state == 1 && teamLives s f.issuer

/-- R378: the seam instruction's result goes to s[d], and it goes on. -/
def seamResult (s : State) (c : Ctx) (d : BitVec 6) (w : DWord) : State :=
  finish (onStrand s c fun st => st.setS d.toNat w) c

/-- R374, R375: a waiting instruction that exposes its team's interval; illegal in a handler strand. -/
def waitingInstr (s : State) (k : Ctx → State → State) : Out :=
  inCtx s fun c =>
    if c.handler then fileAll s c 0x02
    else afterMarker s c false fun s => k c (exposeTeam s c.tm.tid)

/-! ### Instructions (R378) -/

/-- R360: the first index that holds no activity; of the free ones it is DESIGN CHOICE 18 that the lowest is taken. -/
def freeSeam (s : State) : Option Nat :=
  if Config.seamEntries ≤ s.seams.entries.length then none
  else (List.range (s.seams.entries.length + 1)).find? fun i => (seamAt s i).isNone

/-- R360: the generation that follows one. It skips 0. -/
def nextGen (g : BitVec 16) : BitVec 16 := if g + 1 == 0 then 1 else g + 1

/-- R362, R364, R378 fn 0: seam.open. In a compensation team sr.seam keeps the activity being unpicked. -/
def execSeamOpen (d : BitVec 6) (s : State) : Out :=
  waitingInstr s fun c s =>
    match freeSeam s with
    | none => seamResult s c d 5
    | some i =>
      let g := nextGen (sget 0 s.seams.gens i)
      let a : SeamEntry :=
        { index := i, gen := g, state := .open, world := c.tm.world, owner := c.tm.launch, runner := c.tm.launch
          asid := c.tm.asid, frames := [], steps := 0, links := [], snag := 0 }
      let s := { s with seams := { s.seams with entries := s.seams.entries ++ [a], gens := sput 0 s.seams.gens i g } }
      seamResult (onStrand s c fun st => { st with seam := if c.tm.role.compensates then st.seam else a.handle }) c d a.handle

/-- R365, R378: the check of a compensation capability. -/
def compCause (x : Cap) : Option (BitVec 7) :=
  if !x.tag then some 0x04 else if x.seal != 3 then some 0x06 else if !x.has permX then some 0x05 else none

/-- R308, R365: the accesses and commands that the path's present threads issued are performed at dev scope. -/
def pathQuiet (s : State) (c : Ctx) : Bool :=
  let ranks := (presentOf s c.st.sid c.p).map (·.rank)
  !(s.mem.events.any fun e => e.tid == c.tm.tid && !e.isRemote && e.owners.any fun r => ranks.contains r) &&
    !(s.eng.cmds.any fun x => x.tid == c.tm.tid && cmdPending s x && x.ranks.any fun r => ranks.contains r)

/-- R365 stage 1: a pending frame for the step. -/
def pushFrame (s : State) (c : Ctx) (a : SeamEntry) (comp arg : Cap) : State :=
  let seq := s.seams.seq + 1
  let f : SeamFrame :=
    { seq := seq, prev := ((a.frames.getLast?).map (·.seq)).getD 0, comp := comp, arg := arg, index := a.index
      step := a.steps + 1, die := dieOf c.st.core, slot := poolSlot s (dieOf c.st.core), colour := colourOf c.p.code, state := 1, pend := false
      issuer := c.tm.tid, owner := a.owner }
  let s := { s with seams := { s.seams with seq := seq } }
  let s := updFrames s a.index fun a => { a with frames := a.frames ++ [f], steps := a.steps + 1 }
  onStrand s c fun st => { st with stepping := some ⟨a.index, seq, c.p.pc⟩ }

/-- R365 stages 2 and 3: once the release is performed the frame is armed and the step returns 0. -/
def armFrame (s : State) (c : Ctx) (d : BitVec 6) (x : SeamStepping) : State :=
  if !pathQuiet s c then s
  else
    let arm := fun (f : SeamFrame) => { f with state := 2 }
    let s := updFrames s x.index fun a => { a with frames := mapIf (fun f => f.seq == x.seq && f.state == 1) arm a.frames }
    seamResult (onStrand s c fun st => { st with stepping := none }) c d 0

/-- R363, R365, R378 fn 1: seam.step. -/
def execSeamStep (d : BitVec 6) (a b : BitVec 4) (s : State) : Out :=
  waitingInstr s fun c s =>
    match ((strandOf s c.st.sid).bind (·.stepping)) with
    | some x => armFrame s c d x
    | none =>
      let comp := c.st.getK a.toNat
      match compCause comp with
      | some cause => fileAllWith s c { cause := cause, addr := 0, detail := BitVec.ofNat 32 (16 + a.toNat), asid := 0 }
      | none =>
        match liveSeam s c.tm.world (c.st.getS d.toNat) with
        | none => seamResult s c d 1
        | some x =>
          if x.owner != c.tm.launch then seamResult s c d 4
          else if x.state != .open then seamResult s c d 2
          else if 256 ≤ x.steps then fileAll s c 0x39
          else
            let s := pushFrame s c x comp (c.st.getK b.toNat)
            if pathQuiet s c then armFrame s c d ⟨x.index, s.seams.seq, c.p.pc⟩ else s

/-- R363, R364, R378 fn 2: seam.close. -/
def execSeamClose (d : BitVec 6) (s : State) : Out :=
  waitingInstr s fun c s =>
    match liveSeam s c.tm.world (c.st.getS d.toNat) with
    | none => seamResult s c d 1
    | some x =>
      if x.owner != c.tm.launch then seamResult s c d 4
      else if x.state != .open then seamResult s c d 2
      else if stepInProgress s x then s
      else seamResult (seamDone s x.index) c d 0

/-- R363, R364, R378 fn 3: seam.drop. -/
def execSeamDrop (d : BitVec 6) (s : State) : Out :=
  waitingInstr s fun c s =>
    match liveSeam s c.tm.world (c.st.getS d.toNat) with
    | none => seamResult s c d 1
    | some x =>
      if x.state != .open then seamResult s c d 2
      else if stepInProgress s x then s
      else seamResult (seamUnpick s x.index x.owner) c d 0

/-- R370: following links from an activity named by index and generation reaches another, in at most `n` links. -/
def reaches (s : State) (goal : Nat × BitVec 16) : Nat → List (Nat × BitVec 16) → List (Nat × BitVec 16) → Bool
  | 0, _, _ => false
  | _, _, [] => false
  | n + 1, seen, x :: todo =>
    x == goal ||
      (if seen.contains x then reaches s goal n seen todo
       else match s.seams.entries.find? fun a => a.index == x.1 && a.gen == x.2 with
         | some a => reaches s goal n (x :: seen) (a.links ++ todo)
         | none => reaches s goal n (x :: seen) todo)

/-- R363, R370, R378 fn 4: seam.link. -/
def execSeamLink (d a : BitVec 6) (s : State) : Out :=
  waitingInstr s fun c s =>
    match liveSeam s c.tm.world (c.st.getS d.toNat), liveSeam s c.tm.world (c.st.getS a.toNat) with
    | none, _ => seamResult s c d 1
    | some _, none => seamResult s c d 1
    | some x, some y =>
      if x.owner != c.tm.launch then seamResult s c d 4
      else if x.state != .open then seamResult s c d 2
      else if 4 ≤ x.links.length ||
          reaches s (x.index, x.gen) (5 * s.seams.entries.length + 6) [] [(y.index, y.gen)] then seamResult s c d 3
      else seamResult (updSeam s x.index fun x => { x with links := x.links ++ [(y.index, y.gen)] }) c d 0

/-- R360: the state's code. -/
def SeamState.code : SeamState → Nat
  | .done => 0
  | .open => 1
  | .unpicking => 2
  | .snagged => 3

/-- R379: the state word of a handle. -/
def seamWord (a : Option SeamEntry) : DWord :=
  match a with
  | none => 0
  | some a =>
    BitVec.ofNat 64 ((if a.state == .snagged then a.snag else 0) * 2 ^ 32 + a.frames.length * 2 ^ 16 + a.state.code * 2 ^ 8)

/-- R378 fn 5, R379: seam.state. -/
def execSeamState (d a : BitVec 6) (s : State) : Out :=
  waitingInstr s fun c s => seamResult s c d (seamWord (liveSeam s c.tm.world (c.st.getS a.toNat)))

/-- A launch is not over. -/
def launchLives (s : State) (num : Nat) : Bool :=
  match launchOf s num with
  | some l => l.state != .ended
  | none => false

/-- The Pillow entry's subject is an activity (R371). -/
def Subject.ofSeam (index : Nat) (gen : BitVec 16) : Subject → Bool
  | .seam i g _ _ => i == index && g == gen.toNat
  | _ => false

/-- R372: a SNAGGED activity unpicks again, with its top frame (retry) or without it (skip). Its entry is withdrawn. -/
def resumeSeam (s : State) (a : SeamEntry) (skip : Bool) (runner : Nat) : State :=
  let s := withdraw s fun e => e.subject.ofSeam a.index a.gen
  updSeam s a.index fun a =>
    { a with state := .unpicking, snag := 0, runner := runner
             frames := if skip then a.frames.dropLast else a.frames }

/-- R363, R372, R373, R378 fn 6: seam.resume. The compensation teams run where they ran before while that launch lives,
and in the resuming launch afterwards (DEDUCED 19). -/
def execSeamResume (d a : BitVec 6) (s : State) : Out :=
  waitingInstr s fun c s =>
    match liveSeam s c.tm.world (c.st.getS d.toNat) with
    | none => seamResult s c d 1
    | some x =>
      if x.state != .snagged then seamResult s c d 2
      else
        let runner := if launchLives s x.runner then x.runner else c.tm.launch
        seamResult (resumeSeam s x ((c.st.getS a.toNat).getLsbD 0) runner) c d 0

end Sys2Proof.Machine
end

