-- ==== Sys2Proof/Machine/Fabric.lean ====
section
/-! DEFINITION. The fabric (R289, R295, R318, R319, R389 to R402): net instructions and network commands, packets, orphaned
reductions, unreachable packages, collectives and rosters, leases and the leader. -/

namespace Sys2Proof.Machine

/-! ### Net instructions (R381, R382) -/

/-- R381: the four words of a net instruction's command are handed over as though pushed to q4. A partial command of the
strand in q4 stays as it is (DEDUCED 22). -/
def netCommand (cmd : Nat) (d : BitVec 6) (a b : BitVec 4) (s : State) : Out :=
  inCtx s fun c =>
    if barred s c then s
    else
      let s := exposeTeam s c.tm.tid
      if outstanding s c.st 4 < Config.queueDepth then
        let words := [QWord.k (c.st.getK a.toNat), .k (c.st.getK b.toNat), .s (c.st.getS d.toNat), .s (BitVec.ofNat 64 cmd)]
        finish (submitCmd s c 4 words) c
      else afterMarker s c false fun s => parkIn s c (.push 4)

/-- R381 fn 0. -/
def execNetPut (d : BitVec 6) (a b : BitVec 4) (s : State) : Out := netCommand 0 d a b s
/-- R381 fn 1. -/
def execNetGet (d : BitVec 6) (a b : BitVec 4) (s : State) : Out := netCommand 1 d a b s
/-- R381 fn 2. -/
def execNetRed (d : BitVec 6) (a b : BitVec 4) (s : State) : Out := netCommand 2 d a b s

/-- R382: the first status that is not 0. -/
def firstStatus : List QRecord → Nat
  | [] => 0
  | r :: rs => if fieldOf r.word 0 8 == 0 then firstStatus rs else fieldOf r.word 0 8

/-- R382: all records of the strand in q5 are taken. -/
def takeNetRecords (s : State) (c : Ctx) : List QRecord → State
  | [] => s
  | r :: rs => takeNetRecords (takeRecord s c r id) c rs

/-- R382: net.done. While a network command of the strand is not complete the path waits as a pop does. -/
def execNetDone (d : BitVec 6) (s : State) : Out :=
  inCtx s fun c =>
    let s := exposeTeam s c.tm.tid
    if s.eng.cmds.any fun x => x.sid == c.st.sid && x.queue == 4 then afterMarker s c false fun s => parkIn s c .netDone
    else
      let rs := c.st.records.filter fun r => r.queue == 5
      let w := BitVec.ofNat 64 (rs.length % 256 * 256 + firstStatus rs)
      finish (onStrand (takeNetRecords s c rs) c fun st => st.setS d.toNat w) c

/-! ### The port's checks of a command (R381, R394, R395) -/

/-- R381: fields of a descriptor. -/
def descLen (w : DWord) : Nat := fieldOf w 0 24
def descTag (w : DWord) : Nat := fieldOf w 24 12
def descOp  (w : DWord) : Nat := fieldOf w 36 4
def descRoff (w : DWord) : Nat := fieldOf w 40 24

/-- R395: the command code. -/
def Cmd.netCmd (c : Cmd) : Nat := fieldOf (c.sWord 3) 0 4

/-- R395: the roster slot of a collective. -/
def Cmd.netGroup (c : Cmd) : Nat := fieldOf (c.sWord 3) 16 8

/-- R292, R381: an op that a network reduction may have. -/
def netOpOk (op : Nat) : Bool := decide (op ≤ 11) && op != 9

/-- R381, R394, R395: a control word or descriptor that breaks its table. -/
def netMalformed (c : Cmd) : Bool :=
  let w := c.sWord 3
  let d := c.sWord 2
  let cmd := c.netCmd
  c.malformed || fieldOf w 41 23 != 0 || fieldOf w 24 8 != 0 || fieldOf w 4 12 != 0 || cmd == 3 || decide (7 ≤ cmd) ||
    (fieldOf w 32 9 != 0 && cmd != 5) || (fieldOf w 16 8 != 0 && decide (cmd < 4)) ||
    match cmd with
    | 0 => descLen d == 0 || descOp d != 0
    | 1 => descLen d == 0 || descOp d != 0 || descRoff d != 0
    | 2 => descLen d == 0 || descLen d % 4 != 0 || !netOpOk (descOp d)
    | 4 => descLen d == 0 || descLen d % 4 != 0 || !netOpOk (descOp d)
    | 5 => descLen d == 0 || descOp d != 0
    | _ => d != 0

/-- Space 0xC. -/
def farCap (x : Cap) : Bool := spaceOf x.addr == 0xC

/-- R381: checks 1 to 7 of a put, get or red, or the status that ends it. -/
def netStart (s : State) (c : Cmd) : Option Nat :=
  let d := c.sWord 2
  let get := c.netCmd == 1
  if netMalformed c then some 8
  else if !farCap (c.kWord 1) || farCap (c.kWord 0) then some 3
  else match rangeCheck s c (if get then .store else .load) (c.kWord 0) (descLen d) with
    | some st => some st
    | none =>
      match rangeCheck s c (if get then .load else .store) (c.kWord 1) (descLen d) with
      | some st => some st
      | none => if c.netCmd == 2 && (c.kWord 1).addr % 4 != 0 then some 4 else none

/-- The roster slot of a number. -/
def rosterOf (s : State) (slot : Nat) : Option Roster := s.fabric.rosters.find? fun r => r.slot == slot

/-- R396: this package's index in a roster, if it is admitted there. -/
def ownIndex (s : State) (r : Roster) : Option Nat :=
  (r.members.zipIdx.find? fun m => m.1.1 == s.fabric.pkgNo && m.1.2).map (·.2)

/-- R394, R397: what ends a collective before it begins. -/
def collectiveStart (s : State) (c : Cmd) : Option Nat :=
  let n := descLen (c.sWord 2)
  if netMalformed c then some 8
  else match rosterOf s c.netGroup with
    | none => some 3
    | some r =>
      if r.world != c.world then some 3
      else if r.state != 2 || (ownIndex s r).isNone then some 13
      else if c.netCmd == 6 then none
      else if farCap (c.kWord 0) || farCap (c.kWord 1) then some 3
      else match rangeCheck s c .load (c.kWord 0) n with
        | some st => some st
        | none => rangeCheck s c .store (c.kWord 1) n

/-! ### The port's work on a put, get or red (R318, R381, R390) -/

/-- R314, R390: bytes of the packet at an offset: up to 128, ending at a multiple of 128 of the address that is written, so that
no granule of the destination is written in two parts. -/
def packetSize (c : Cmd) (off : Nat) : Nat :=
  min (descLen (c.sWord 2) - off) (128 - ((if c.netCmd == 1 then c.kWord 0 else c.kWord 1).addr + off) % 128)

/-- R92, R390: tags of the whole granules of a piece of memory that goes out under LC, as they stand once it has been read. -/
def outTags (s : State) (c : Cmd) (locs : List (Loc × Nat)) (src dst n : Nat) : List Bool :=
  if src % 16 == dst % 16 && (c.kWord 0).has permLC then
    (wholeGranules dst n).map fun g => byteTag s c src n locs (16 * g - dst)
  else []

/-- Where a place in another package is. -/
def farPlace (addr : Nat) : BitVec 9 × BitVec 51 := (BitVec.ofNat 9 (addr % 2 ^ 60 / 2 ^ 51), BitVec.ofNat 51 addr)

/-- R381, R390: the next packet of a put or red: its bytes are read, checks 8 to 11 of the source included. -/
def sendPiece (s : State) (c : Cmd) (off : Nat) (bad : Bool) : State :=
  let n := packetSize c off
  let src := (c.kWord 0).addr + off
  let dst := (c.kWord 1).addr + off
  match checkAccess s (c.who s) (c.access .load (c.kWord 0) src n) with
  | (s, .error e) => endCmd s c.cid (statusOf e)
  | (s, .ok locs) =>
    let (s, g) := sourceBytes s c locs n
    let tags := outTags s c locs src dst n
    let (pkg, va) := farPlace dst
    if c.netCmd == 2 then
      if g.poison.isSome then endCmd s c.cid 10
      else
        let p := enginePacket s c .put pkg va g.bytes n (0x8000 + BitVec.ofNat 16 (descOp (c.sWord 2)))
        updCmd (queuePacket s p) c.cid fun c => { c with state := .running 0 (off + n) bad }
    else
      let p := enginePacket s c .put pkg va g.bytes n (poisonOp g.poison)
      updCmd (queuePacket (signEngine s c dst g.bytes) { p with tags := tags }) c.cid fun c => { c with state := .running 0 (off + n) (bad || g.poison.isSome) }

/-- R318, R381: the target record. -/
def recordWord (s : State) (d : DWord) : DWord :=
  BitVec.ofNat 64 (2 ^ 63 + s.fabric.pkgNo.toNat * 2 ^ 48 + descTag d * 2 ^ 32 + descLen d)

/-- R318, R381: after every byte is applied the record goes to the address that the descriptor names. -/
def sendRecord (s : State) (c : Cmd) (bad : Bool) : State :=
  let d := c.sWord 2
  let at' := (c.kWord 1).addr + 8 * descRoff d
  match rangeCheck s c .store ((c.kWord 1).withAddr at') 8 with
  | some st => endCmd s c.cid st
  | none =>
    let (pkg, va) := farPlace at'
    let p := enginePacket s c .put pkg va (bytesOfNat 8 (recordWord s d).toNat) 8 0
    updCmd (queuePacket s p) c.cid fun c => { c with state := .running 1 (descLen d) bad }

/-- R381: the next packet of a get. -/
def askGet (s : State) (c : Cmd) (off : Nat) (bad : Bool) : State :=
  let n := packetSize c off
  let (pkg, va) := farPlace ((c.kWord 1).addr + off)
  updCmd (queuePacket s (enginePacket s c .get pkg va [] n 0)) c.cid fun c => { c with state := .running 0 (off + n) bad }

/-- A step of the network port on a command of its queue: it is taken and checked, sends its next packet, or ends. A
collective waits for the other members once it is taken. -/
def stepNet (s : State) (cid : Nat) : State :=
  match cmdOf s cid with
  | none => s
  | some c =>
    if c.queue != 4 then s
    else match c.state with
      | .performed _ => s
      | .queued =>
        if !takeReady s c then s
        else if decide (4 ≤ c.netCmd) && c.netCmd ≤ 6 then
          match collectiveStart s c with
          | some st => endCmd s cid st
          | none =>
            let more := mapIf (fun (r : Roster) => r.slot == c.netGroup) (fun r => { r with issued := r.issued + 1 }) s.fabric.rosters
            updCmd { s with fabric := { s.fabric with rosters := more } } cid fun c => { c with state := .running 0 0 false }
        else match netStart s c with
          | some st => endCmd s cid st
          | none => updCmd s cid fun c => { c with state := .running 0 0 false }
      | .running phase off bad =>
        if 4 ≤ c.netCmd then s
        else if off < descLen (c.sWord 2) then (if c.netCmd == 1 then askGet s c off bad else sendPiece s c off bad)
        else if packetsOf s cid then s
        else if phase == 0 && descRoff (c.sWord 2) != 0 then sendRecord s c bad
        else endCmd s cid (if bad then 10 else 0)

/-! ### Packets of lane accesses (R319, R390) -/

/-- R390: packet type of an access. -/
def EvKind.packet : EvKind → PacketType
  | .load => .load
  | .store => .store
  | .atom _ => .atomic
  | .red _ => .red
  | .cas => .cas

/-- The operation of an access. -/
def EvKind.op : EvKind → BitVec 4
  | .atom o => o
  | .red o => o
  | _ => 0

/-- Where the access goes. -/
def MemEv.far (e : MemEv) : Option (BitVec 9 × BitVec 51) :=
  firstSome (fun x : Loc × Nat => match x.1 with
    | .remote p a => some (p, a)
    | _ => none) e.locs

/-- R390: the packet of a lane's or strand's access. Its serial is even and names the event. -/
def eventPacket (s : State) (e : MemEv) (pkg : BitVec 9) (va : BitVec 51) : Packet :=
  let key := ((teamOf s e.tid).map (·.key)).getD { kind := 0, x := 0, y := 0, z := 0, stage := 0 }
  { ptype := e.kind.packet, target := pkg, source := s.fabric.pkgNo, world := e.world, colour := e.cap.colour, addr := va
    cap := e.cap, payload := e.data, length := (e.locs.map (·.2)).foldl (· + ·) 0
    tags := match e.tag with
      | some t => [t]
      | none => []
    op := e.kind.op.setWidth 16 ||| (e.scope.setWidth 16 <<< 4), serial := 2 * e.id, launch := e.launch, x := key.x, y := key.y
    z := key.z, rank := e.rank, pc := e.pc, word := e.word, status := 0 }

/-- R305, R319: an access to another package may leave: its thread's earlier ones to shared bytes are answered, and what a
release waits for is performed. -/
def sendReady (s : State) (e : MemEv) : Bool :=
  e.isRemote && !e.sent && !earlierPending s e && (e.sem != .rel || releaseReady s e)

/-- R319: Send: a packet leaves its port. An answer to another package is gone then; every other packet is under way. -/
def stepSend (s : State) (serial : Nat) : State :=
  match s.fabric.outbox.find? fun p => p.serial == serial with
  | some p =>
    let rest := s.fabric.outbox.eraseP fun q => q.serial == serial
    let flight := if p.ptype == .response && p.target != s.fabric.pkgNo then s.fabric.flight else s.fabric.flight ++ [p]
    { s with fabric := { s.fabric with outbox := rest, flight := flight } }
  | none =>
    match (if serial % 2 == 0 then eventOf s (serial / 2) else none) with
    | none => s
    | some e =>
      match e.far with
      | none => s
      | some (pkg, va) =>
        if sendReady s e then
          let s := if e.kind = .store then signStore s e else s
          { s with fabric := { s.fabric with flight := s.fabric.flight ++ [eventPacket s e pkg va] }
                   mem := { s.mem with events := mapIf (fun x => x.id == e.id) (fun x => { x with sent := true }) s.mem.events } }
        else s

/-! ### At the target (R289, R295, R392) -/

/-- R392: the context in which a packet's checks 8 to 11 are made: the import table's for its world. -/
def targetWho (s : State) (p : Packet) : Option Who :=
  (s.fabric.imports.find? fun x => x.1 == p.world).map fun x =>
    { issuers := [.net], die := 0, core := none, asid := x.2, world := p.world, tid := none, rank := 0, solo := false }

/-- R289, R392: checks 8 to 11 of a packet. -/
def targetCheck (s : State) (p : Packet) (kind : AccKind) (size : Nat) : State × Except (BitVec 7) (List (Loc × Nat)) :=
  match targetWho s p with
  | none => (s, .error 0x10)
  | some w => pagesCheck s w (engineAccess kind p.cap p.addr.toNat size) false (size / 65536 + 2) p.addr.toNat size

/-- R91, R92, R279: bytes that a packet carries to memory, at their places, with the tags of whole granules and, from an engine,
the poison. -/
def landBytes (s : State) (p : Packet) (locs : List (Loc × Nat)) : State :=
  let poison := if p.serial % 2 == 1 then opPoison p.op else none
  let tags := (wholeGranules p.addr.toNat p.payload.length).zipIdx.map fun g =>
    (16 * g.1 - p.addr.toNat, (p.tags[g.2]?).getD false && p.cap.has permSC)
  (pieceShares locs p.payload (p.payload.map fun _ => poison) tags).foldl (fun s x =>
    match x.1 with
    | .phys pa slot =>
      let s := writePhys s none slot pa x.2.1 none
      let m := x.2.2.2.foldl (fun m t => setTag m ((pa + t.1) / 16) t.2) s.mem
      { s with mem := match poison with
          | some q => (linesOf pa x.2.1.length).foldl (fun m l => addPoison m l q) m
          | none => m }
    | _ => s) s

/-- R307: an access of this package's own thread has been performed at its target here: the thread has seen the bytes. -/
def landSeen (s : State) (p : Packet) (locs : List (Loc × Nat)) : State :=
  if p.source != s.fabric.pkgNo || p.serial % 2 == 1 then s
  else match eventOf s (p.serial / 2) with
    | none => s
    | some e => match e.kind, locs with
      | .red _, (.phys pa _, _) :: _ => seeRed s e pa
      | _, _ => markSeen s e (seqsOf s locs)

/-- R293: a reduction of one word at its port. -/
def landRed (s : State) (op : BitVec 4) (loc : Loc) (x : Word) : State :=
  match loc with
  | .phys pa slot =>
    if (tierAt pa).getD 0 == 0 then enterRed s none op pa x
    else
      let (s, old, _) := readPhys s slot pa 4
      writePhys s none slot pa (bytesOfWord (atomOp op.toNat (wordOf old) x)) none
  | _ => s

/-- R381: the elements of a network reduction, each as a `red`. -/
def landReds (s : State) (op : BitVec 4) : List (Loc × Nat) → List Byte → State
  | [], _ => s
  | (.phys pa slot, n) :: rest, bs =>
    let s := (List.range (n / 4)).foldl (fun s i =>
      landRed s op (.phys (pa + 4 * i) slot) (wordOf ((bs.drop (4 * i)).take 4))) s
    landReds s op rest (bs.drop n)
  | (_, n) :: rest, bs => landReds s op rest (bs.drop n)

/-- R295: the orphan of a reduction's packet. -/
def orphanOf (p : Packet) (cause : BitVec 7) : Orphan :=
  { launch := p.launch, x := p.x, y := p.y, z := p.z, rank := p.rank, source := p.source, cap := p.cap
    operand := wordOf p.payload, op := p.op.setWidth 4, addr := p.addr, world := p.world, serial := p.serial, pc := p.pc
    word := p.word, cause := cause }

/-- R295: the entry of an orphan. -/
def orphanEntry (s : State) (o : Orphan) : Entry :=
  let asid := ((targetWho s (orphanPacket s o)).map (·.asid)).getD 0
  { eid := s.traps.nextEid, die := 0, cause := 0x40, inner := 0, depth := 0, pc := o.pc, word := o.word
    addr := o.addr.setWidth 64, detail := o.cause.setWidth 32 ||| (o.source.setWidth 32 <<< 8), rep := 0
    subject := .orphan o, launch := o.launch, x := o.x, y := o.y, z := o.z, rank := BitVec.ofNat 9 o.rank, asid := asid
    world := o.world, colour := o.cap.colour, faultAsid := asid, stamp := s.run.clock.toNat, state := .filed }

/-- R162, R295: an orphan is filed, held by the port while no entry is free, or lost where no handler is installed. The
entry takes the share of die 0 (DESIGN CHOICE 23). -/
def fileOrphan (s : State) (o : Orphan) : State :=
  if (servingBank s 0 0x40).isNone then loseOrphan s o 0x85
  else if pillowRoom s 0 0x40 then
    { s with traps := { s.traps with pillow := s.traps.pillow ++ [orphanEntry s o], nextEid := s.traps.nextEid + 1 } }
  else { s with traps := { s.traps with heldOrphans := s.traps.heldOrphans ++ [o] } }

/-- R295: ORPHAN_DEFERRED_FILE: a held orphan is filed once an entry that it may take is free. -/
def stepDeferredFile (s : State) (index : Nat) : State :=
  match s.traps.heldOrphans[index]? with
  | none => s
  | some o =>
    if pillowRoom s 0 0x40 then fileOrphan { s with traps := { s.traps with heldOrphans := s.traps.heldOrphans.eraseIdx index } } o
    else s

/-- R289, R290: an atomic or cas at its target. -/
def landModify (s : State) (p : Packet) (kind : EvKind) (locs : List (Loc × Nat)) : State :=
  match readLocs s none locs with
  | (s, none) => answer s p 0x05 [] [] none
  | (s, some g) =>
    let s := match modifyOf kind p.payload g.bytes with
      | some new => writeLocs s none none locs new
      | none => s
    answer (landSeen s p locs) p 0 g.bytes [] g.poison

/-- R92: the tags that a get's answer carries: of the whole granules read, under LC. -/
def landTags (s : State) (p : Packet) (locs : List (Loc × Nat)) : List Bool :=
  if p.cap.has permLC then
    (wholeGranules p.addr.toNat p.length).map fun g => match locAt locs (16 * g - p.addr.toNat) with
      | some (.phys pa _) => tagAt s.mem pa
      | _ => false
  else []

/-- R289, R295, R318, R392: a packet is applied at this package. -/
def land (s : State) (p : Packet) : State :=
  let fail := fun (s : State) (e : BitVec 7) => answer s p e.toNat [] [] none
  match p.ptype with
  | .load => match targetCheck s p .load p.length with
    | (s, .error e) => fail s e
    | (s, .ok locs) => match readLocs s none locs with
      | (s, some g) => answer (landSeen s p locs) p 0 g.bytes [g.tag] g.poison
      | (s, none) => fail s 0x05
  | .get => match targetCheck s p .load p.length with
    | (s, .error e) => fail s e
    | (s, .ok locs) => match readLocs s none locs with
      | (s, some g) => answer s p 0 g.bytes (landTags s p locs) g.poison
      | (s, none) => fail s 0x05
  | .store => match targetCheck s p .store p.length with
    | (s, .error e) => fail s e
    | (s, .ok locs) => answer (landSeen (landBytes s p locs) p locs) p 0 [] [] none
  | .put =>
    if p.op.getLsbD 15 then match targetCheck s p .red p.length with
      | (s, .error e) => fail s e
      | (s, .ok locs) => answer (landReds s (p.op.setWidth 4) locs p.payload) p 0 [] [] none
    else match targetCheck s p .store p.length with
      | (s, .error e) => fail s e
      | (s, .ok locs) => answer (landBytes s p locs) p 0 [] [] none
  | .atomic => match targetCheck s p .atomic p.length with
    | (s, .error e) => fail s e
    | (s, .ok locs) => landModify s p (.atom (p.op.setWidth 4)) locs
  | .cas => match targetCheck s p .atomic p.length with
    | (s, .error e) => fail s e
    | (s, .ok locs) => landModify s p .cas locs
  | .red => match targetCheck s p .red 4 with
    | (s, .error e) => fileOrphan s (orphanOf p e)
    | (s, .ok ((loc, n) :: _)) =>
      answer (landSeen (landRed s (p.op.setWidth 4) loc (wordOf p.payload)) p [(loc, n)]) p 0 [] [] none
    | (s, .ok []) => fail s 0x05
  | _ => s

/-! ### Answers -/

/-- The status of a command whose packet failed: a running one stops, and one that has ended well ends with it. -/
def failCmd (s : State) (cid status : Nat) : State :=
  updCmd s cid fun c => match c.state with
    | .performed 0 => { c with state := .performed status }
    | .performed _ => c
    | _ => { c with state := .performed status }

/-- R92, R314, R381: the bytes of a get's answer go to their place. -/
def takeGet (s : State) (c : Cmd) (p : Packet) : State :=
  let off := (p.addr - BitVec.ofNat 51 (c.kWord 1).addr).toNat
  let dst := (c.kWord 0).addr + off
  let poison := opPoison p.op
  match checkAccess s (c.who s) (c.access .store (c.kWord 0) dst p.payload.length) with
  | (s, .error e) => failCmd s c.cid (statusOf e)
  | (s, .ok locs) =>
    let tags := if dst % 16 == p.addr.toNat % 16 && (c.kWord 0).has permSC then
        (wholeGranules dst p.payload.length).zipIdx.map fun g => (16 * g.1 - dst, (p.tags[g.2]?).getD false)
      else []
    let piece : Piece := { at' := 0, bytes := p.payload, poison := p.payload.map fun _ => poison, tags := tags, to' := locs }
    let s := writePieces s c false dst [piece]
    if poison.isSome then updCmd s c.cid fun c => match c.state with
      | .running ph o _ => { c with state := .running ph o true }
      | _ => c
    else s

/-- R381, R390: an answer to a packet that a command sent. -/
def answerCmd (s : State) (cid : Nat) (p : Packet) : State :=
  match cmdOf s cid with
  | none => s
  | some c =>
    if p.status != 0 then failCmd s cid (statusOf (BitVec.ofNat 7 p.status))
    else if p.payload.isEmpty then s
    else if c.queue == 4 then takeGet s c p
    else updCmd s cid fun c => { c with replies := c.replies ++ [⟨p.addr, p.payload, p.tags, opPoison p.op⟩] }

/-- R289, R295, R296: an answer to a lane's or strand's access. *Reduction lost* ends the launch. -/
def answerEvent (s : State) (id : Nat) (p : Packet) : State :=
  match eventOf s id with
  | none => s
  | some e =>
    match e.kind with
    | .red _ =>
      if p.status == 0 then dropEvent s id
      else
        let key := ((teamOf s e.tid).map (·.key)).getD { kind := 0, x := p.x, y := p.y, z := p.z, stage := 0 }
        endLaunch (dropEvent s id) e.launch p.status e.pc key (BitVec.ofNat 32 e.rank) 0
    | .store =>
      if p.status == 0 then answerProbe (dropEvent s id) e none ⟨[], [], false, none⟩ else fileEvent s e (BitVec.ofNat 7 p.status)
    | _ =>
      if p.status == 0 then
        finishLoad s e { bytes := p.payload, seqs := [], tag := p.tags.headD false, poison := opPoison p.op }
      else fileEvent s e (BitVec.ofNat 7 p.status)

/-- R319: an earlier packet under way of the same thread to shared bytes of the same package. -/
def overtakes (s : State) (p : Packet) : Bool :=
  let before := s.fabric.flight.takeWhile fun q => q != p
  before.any fun q => q.ptype != .response && q.target == p.target && q.source == p.source && q.launch == p.launch &&
    q.x == p.x && q.y == p.y && q.z == p.z && q.rank == p.rank &&
    decide (q.addr.toNat < p.addr.toNat + p.length) && decide (p.addr.toNat < q.addr.toNat + q.length)

/-- An answer takes effect: the access or command goes on. -/
def takeAnswer (s : State) (p : Packet) : State :=
  match packetCid p with
  | some cid => answerCmd s cid p
  | none => answerEvent s (p.serial / 2) p

/-- R319: Deliver: a packet is applied at its target. A packet that this package has sent to another is applied there, and
shows here by its answer alone; a packet from another package comes from outside. -/
def stepDeliver (s : State) (p : Packet) : State :=
  let own := p.source == s.fabric.pkgNo
  let without := fun (s : State) (q : Packet → Bool) => { s with fabric := { s.fabric with flight := s.fabric.flight.eraseP q } }
  if p.target != s.fabric.pkgNo then s
  else if p.ptype == .response then
    let mine := fun (q : Packet) =>
      if own then q == p else q.serial == p.serial && q.target == p.source && q.ptype != .response
    if s.fabric.flight.any mine then takeAnswer (without s mine) p else s
  else if own then (if s.fabric.flight.contains p && !overtakes s p then land (without s fun q => q == p) p else s)
  else land s p

/-! ### Unreachable packages (R393) -/

/-- R393: one outstanding access to an unreachable package ends. -/
def loseEvent (s : State) (e : MemEv) : State :=
  let (s, prov) := writeError s 0 7 e.va
  match e.kind with
  | .store => lose s e prov
  | .red _ => lose s e prov
  | _ => finishLoad s e { bytes := e.data, seqs := [], tag := false, poison := some prov }
where
  /-- A store or reduction ends its team. -/
  lose (s : State) (e : MemEv) (prov : BitVec 12) : State :=
    let s := dropEvent s e.id
    match teamOf s e.tid with
    | some tm => endOwner s tm tm.launch 0x80 e.pc (BitVec.ofNat 32 e.rank) prov 0x8000007F
    | none => s

/-- R393: an engine's outstanding packet to an unreachable package: a network command ends with status 11. A copy's store
ends its team and its load leaves the copy with status 10 (DEDUCED 24). -/
def losePacket (s : State) (p : Packet) : State :=
  match (packetCid p).bind (cmdOf s) with
  | none => s
  | some c =>
    if c.queue == 4 then failCmd s c.cid 11
    else
      let (s, prov) := writeError s 0 7 p.addr.toNat
      let s := failCmd s c.cid 10
      if p.ptype == .load || p.ptype == .get then s
      else match teamOf s c.tid with
        | some tm => endOwner s tm tm.launch 0x80 0 (BitVec.ofNat 32 p.rank) prov 0x8000007F
        | none => s

/-- R393: TARGET_UNREACHABLE: every outstanding access to the package ends. -/
def stepUnreachable (s : State) (pkg : BitVec 9) : State :=
  let to' := fun (p : Packet) => p.target == pkg && p.ptype != .response
  let packets := (s.fabric.outbox ++ s.fabric.flight).filter fun p => to' p && (packetCid p).isSome
  let keep := fun (p : Packet) => !to' p
  let s := { s with fabric := { s.fabric with outbox := s.fabric.outbox.filter keep, flight := s.fabric.flight.filter keep } }
  let events := s.mem.events.filter fun e => match e.far with
    | some (q, _) => q == pkg
    | none => false
  let s := events.foldl loseEvent s
  packets.foldl losePacket s

/-! ### Collectives (R397 to R399) -/

/-- A collective that is under way here, with its roster and this package's index. -/
def collective? (s : State) (cid kind : Nat) : Option (Cmd × Roster × Nat) := do
  let c ← cmdOf s cid
  let r ← rosterOf s c.netGroup
  let i ← ownIndex s r
  if c.queue == 4 && c.netCmd == kind && r.state == 2 && c.state = .running 0 0 false then some (c, r, i) else none

/-- The bytes that this package gives to a collective, or its status. -/
def ownBytes (s : State) (c : Cmd) : State × Except Nat (List Byte) :=
  let n := descLen (c.sWord 2)
  match checkAccess s (c.who s) (c.access .load (c.kWord 0) (c.kWord 0).addr n) with
  | (s, .error e) => (s, .error (statusOf e))
  | (s, .ok locs) =>
    let (s, g) := sourceBytes s c locs n
    if g.poison.isSome then (s, .error 10) else (s, .ok g.bytes)

/-- R314, R398: the bytes of a collective go to this package's destination. -/
def landOwn (s : State) (c : Cmd) (bs : List Byte) : State :=
  match checkAccess s (c.who s) (c.access .store (c.kWord 1) (c.kWord 1).addr bs.length) with
  | (s, .error e) => endCmd s c.cid (statusOf e)
  | (s, .ok locs) =>
    let piece : Piece := { at' := 0, bytes := bs, poison := bs.map fun _ => none, tags := [], to' := locs }
    endCmd (writePieces s c false (c.kWord 1).addr [piece]) c.cid 0

/-- R398: one member's elements folded in. -/
def foldElems (op : Nat) : List Byte → List Byte → List Byte
  | a0 :: a1 :: a2 :: a3 :: as, b0 :: b1 :: b2 :: b3 :: bs =>
    bytesOfWord (atomOp op (wordOf [a0, a1, a2, a3]) (wordOf [b0, b1, b2, b3])) ++ foldElems op as bs
  | _, _ => []

/-- R397: the indices of the other admitted members. -/
def otherIndices (r : Roster) (own : Nat) : List Nat :=
  (r.members.zipIdx.filter fun m => m.1.2 && m.2 != own).map (·.2)

/-- R398: ALLREDUCE, with the other admitted members' bytes by their index. Members whose length differs give status 8. -/
def stepAllreduce (s : State) (cid : Nat) (others : List (Nat × List Byte)) : State :=
  match collective? s cid 4 with
  | none => s
  | some (c, r, own) =>
    let n := descLen (c.sWord 2)
    let need := otherIndices r own
    let got := need.filterMap fun i => (others.find? fun x => x.1 == i)
    if got.length != need.length then s
    else if got.any fun x => x.2.length != n then endCmd s cid 8
    else match ownBytes s c with
      | (s, .error st) => endCmd s cid st
      | (s, .ok mine) =>
        let all := ((List.range r.members.length).filterMap fun i =>
          if i == own then some mine else (got.find? fun x => x.1 == i).map (·.2))
        match all with
        | [] => s
        | first :: rest => landOwn s c (rest.foldl (foldElems (descOp (c.sWord 2))) first)

/-- R398: BROADCAST, with the root's bytes where another member is the root. -/
def stepBroadcast (s : State) (cid : Nat) (root : List Byte) : State :=
  match collective? s cid 5 with
  | none => s
  | some (c, _, own) =>
    if fieldOf (c.sWord 3) 32 9 == own then
      match ownBytes s c with
      | (s, .error st) => endCmd s cid st
      | (s, .ok mine) => landOwn s c mine
    else if root.length != descLen (c.sWord 2) then endCmd s cid 8
    else landOwn s c root

/-- R398: NET_BARRIER: every member has pushed its barrier. -/
def stepNetBarrier (s : State) (cid : Nat) : State :=
  match collective? s cid 6 with
  | none => s
  | some _ => endCmd s cid 0

/-! ### Rosters (R396, R399) -/

/-- R396: ROSTER_WRITE: the record of a slot is written whole, by any member. -/
def stepRosterWrite (s : State) (slot : Nat) (r : RosterRec) : State :=
  if 256 ≤ slot then s
  else startEpoch s slot r.group r.world r.list r.members r.digest false

/-- The state with `f` applied to a roster slot. -/
def updRoster (s : State) (slot : Nat) (f : Roster → Roster) : State :=
  { s with fabric := { s.fabric with rosters := mapIf (fun r => r.slot == slot) f s.fabric.rosters } }

/-- R396, R399: ADMISSION: a member's fresh quote. In a forming group the last quote makes it active; a member that comes
back with the expected digest starts a new epoch. -/
def stepAdmission (s : State) (slot member : Nat) (digest : BitVec 256) (quoteOk : Bool) : State :=
  match rosterOf s slot with
  | none => s
  | some r =>
    if !r.asked.contains member then s
    else
      let ok := quoteOk && digest == r.digest
      let asked := r.asked.filter fun i => i != member
      let members := r.members.zipIdx.map fun m => if m.2 == member && ok then (m.1.1, true) else m.1
      if r.state == 3 then
        updRoster s slot fun r =>
          if ok then { r with members := members, asked := asked, state := if asked.isEmpty then 2 else 3, epoch := r.epoch + 1, issued := 0 }
          else { r with asked := asked }
      else updRoster s slot fun r =>
        { r with members := members, asked := asked, state := if asked.isEmpty then 2 else r.state }

/-- R399: the destination of a collective that a loss ends: each granule is untouched or holds unspecified bytes. -/
def scramble (s : State) (c : Cmd) : State :=
  let n := descLen (c.sWord 2)
  let dst := (c.kWord 1).addr
  if c.netCmd == 6 then s
  else match checkAccess s (c.who s) (c.access .store (c.kWord 1) dst n) with
    | (s, .error _) => s
    | (s, .ok locs) =>
      (List.range (n / 16 + 2)).foldl (fun s i =>
        if Config.pick s.run.tick (0x80000 + i) % 2 == 0 then s
        else
          let lo := if i == 0 then 0 else i * 16 - dst % 16
          let k := min (n - lo) (16 - (dst + lo) % 16)
          let place := locs.foldl (fun (x : Option (Loc × Nat) × Nat) y =>
            (if x.2 ≤ lo && lo < x.2 + y.2 then some (y.1, lo - x.2) else x.1, x.2 + y.2)) (none, 0)
          match place.1 with
          | some (loc, off) => writeLoc s none (loc.shift off) ((List.range k).map (Config.freeByte (s.run.tick + i))) none
          | none => s) s

/-- R399: MEMBER_LOST: collectives that are not complete end with status 12, the slot reforms in a new epoch, and the
member's admitted bit is clear until it comes back. -/
def stepMemberLost (s : State) (slot member : Nat) : State :=
  match rosterOf s slot with
  | none => s
  | some r =>
    if r.members.length ≤ member then s
    else
      let hit := s.eng.cmds.filter fun c => c.queue == 4 && c.netGroup == slot && c.state = .running 0 0 false && decide (4 ≤ c.netCmd)
      let s := failCollectives (hit.foldl scramble s) slot
      updRoster s slot fun r =>
        { r with state := 3, epoch := r.epoch + 1, issued := 0
                 asked := (r.asked.filter fun i => i != member) ++ [member]
                 members := r.members.zipIdx.map fun m => if m.2 == member then (m.1.1, false) else m.1 }

/-! ### Links (R389) -/

/-- Cycles of 1 ms. -/
def millisecond : Nat := 2500000

/-- R389: FLIT_REPLAY: a flit is sent again. More than 8 replays within 1 ms retire the link. -/
def stepFlitReplay (s : State) (link : Nat) : State :=
  if 16 ≤ link then s
  else
    let now := s.run.clock.toNat
    let new : DamkaiLink := { number := link, replays := 0, window := now, retired := false }
    let l : DamkaiLink := (s.fabric.links.find? fun x => x.number == link).getD new
    let l : DamkaiLink :=
      if now < l.window + millisecond then { l with replays := l.replays + 1 } else { l with replays := 1, window := now }
    let l : DamkaiLink := if 8 < l.replays then { l with retired := true } else l
    { s with fabric := { s.fabric with links := (s.fabric.links.filter fun x => x.number != link) ++ [l] } }

/-! ### Leases and the leader (R391, R400 to R402) -/

/-- R400: the lifetime of a lease in cycles. -/
def leaseLife : Nat := 2000 * millisecond

/-- R400: the live lease's leader. -/
def liveLease (s : State) : Option (BitVec 128) :=
  if s.run.clock.toNat < s.fabric.leaseAt + leaseLife then s.fabric.leaseLeader else none

/-- R400: a lease as its 48 bytes. -/
def Lease.toBytes (l : Lease) : List Byte :=
  bytesOfNat 8 l.term ++ bytesOfNat 16 l.leader.toNat ++ bytesOfNat 4 l.lifetime ++ bytesOfNat 2 l.recipient.toNat ++
    bytesOfNat 18 0

/-- R400: the leader's lease goes to every other member. -/
def sendLeases (s : State) : State :=
  s.fabric.members.foldl (fun s m =>
    if m.1 == s.fabric.pkgNo then s
    else
      let l : Lease := { term := s.fabric.leaseTerm, leader := s.trust.devid, lifetime := 2000, recipient := m.1.setWidth 16 }
      queuePacket s
        { ptype := .lease, target := m.1, source := s.fabric.pkgNo, world := 0, colour := 0, addr := 0, cap := nullCap
          payload := Lease.toBytes l, length := 48, tags := [], op := 0
          serial := 2 * (s.run.nextCmd * 2 ^ 32 + s.fabric.nextSerial % 2 ^ 32) + 1
          launch := 0, x := 0, y := 0, z := 0, rank := 0, pc := 0, word := 0, status := 0 }) s

/-- R400, R401: LEASE_RECEIVE. A lease of a lower term, or of another leader for a term that has one, is not accepted. A
leader that receives another's lease raises its term, and the higher identity defers. -/
def stepLeaseReceive (s : State) (l : Lease) : State :=
  let f := s.fabric
  if f.leading && l.leader != s.trust.devid then
    let term := max f.leaseTerm l.term + 1
    if s.trust.devid.toNat < l.leader.toNat then
      sendLeases { s with fabric := { f with leaseTerm := term, leaseLeader := some s.trust.devid, leaseAt := s.run.clock.toNat } }
    else { s with fabric := { f with leaseTerm := term, leading := false, leaseLeader := none } }
  else if l.term < f.leaseTerm then s
  else if l.term == f.leaseTerm && f.leaseLeader.isSome && f.leaseLeader != some l.leader then s
  else
    { s with fabric := { f with leaseTerm := l.term, leaseLeader := some l.leader, leaseAt := s.run.clock.toNat
                                pkgNo := l.recipient.setWidth 9 } }

/-- R400, R402: LEASE_LOST: T has passed without a renewal. -/
def stepLeaseLost (s : State) : State :=
  if s.fabric.leaseLeader.isSome && (liveLease s).isNone then
    { s with fabric := { s.fabric with leaseLeader := none, leading := false } }
  else s

/-- R400: LEASE_RENEW: the leader renews its lease. -/
def stepLeaseRenew (s : State) : State :=
  if s.fabric.leading then sendLeases { s with fabric := { s.fabric with leaseAt := s.run.clock.toNat } } else s

/-- An identity put into a rising list. -/
def insertId (x : BitVec 128) : List (BitVec 128) → List (BitVec 128)
  | [] => [x]
  | y :: ys => if x == y then y :: ys else if x.toNat < y.toNat then x :: y :: ys else y :: insertId x ys

/-- R391: numbers for the packages that have none: in ascending order of identity, each the lowest free number. -/
def assignNumbers : List (BitVec 9 × BitVec 128) → List (BitVec 128) → List (BitVec 9 × BitVec 128)
  | ms, [] => ms
  | ms, x :: xs =>
    if ms.any fun m => m.2 == x then assignNumbers ms xs
    else match (List.range 512).find? fun n => !(ms.any fun m => m.1 == BitVec.ofNat 9 n) with
      | some n => assignNumbers (ms ++ [(BitVec.ofNat 9 n, x)]) xs
      | none => ms

/-- R391, R401: LEADER_CLAIM: a package without a live lease, of the lowest identity that it reaches, claims leadership
with the next term, and assigns package numbers. -/
def stepLeaderClaim (s : State) (reached : List (BitVec 128)) : State :=
  if (liveLease s).isSome || reached.any fun x => decide (x.toNat < s.trust.devid.toNat) then s
  else
    let ids := (reached ++ [s.trust.devid]).foldl (fun l x => insertId x l) []
    let members := assignNumbers s.fabric.members ids
    let own := ((members.find? fun m => m.2 == s.trust.devid).map (·.1)).getD s.fabric.pkgNo
    sendLeases { s with fabric := { s.fabric with
      leaseTerm := s.fabric.leaseTerm + 1, leaseLeader := some s.trust.devid, leaseAt := s.run.clock.toNat, leading := true
      members := members, pkgNo := own } }

/-- R333: a measurement register extended with a digest: SHA-256 of the old value and the new digest. -/
def extendMeas (s : State) (i : Nat) (digest : BitVec 256) : State :=
  let old := sget 0 s.trust.meas i
  let new := sha256 (bytesOfNat 32 old.toNat ++ bytesOfNat 32 digest.toNat)
  { s with trust := { s.trust with meas := sput 0 s.trust.meas i new } }

/-- R333: what the root of trust measures when it boots: its own firmware, and the lifecycle state. In the model that happens with
the first boot images that it is sent (DESIGN CHOICE 97). -/
def measureBoot (s : State) : State :=
  if sget 0 s.trust.meas 0 == 0 then
    extendMeas (extendMeas s 0 Config.firmwareDigest) 3 (sha256 (bytesOfNat 4 s.trust.lifecycle.toNat))
  else s

/-- R402: IMAGE_RECEIVE: the boot images of the leader. A member that runs the same ones keeps them; others are measured
once their signatures verify. -/
def stepImageReceive (s : State) (krahal preder : BitVec 256) (sigOk : Bool) : State :=
  if (liveLease s).isNone || s.fabric.bootImage = some (krahal, preder) then s
  else if !sigOk then measureBoot s
  else
    let s := measureBoot s
    let s := extendMeas (extendMeas s 1 krahal) 2 preder
    { s with fabric := { s.fabric with bootImage := some (krahal, preder) } }

end Sys2Proof.Machine
end

