-- ==== Sys2Proof/Machine/System.lean ====
section
/-! DEFINITION. Gates (R332, R380), solo mode (R171, R383), control registers (R161, R283, R284, R324, R384), `tlb.inv`
and `revoke` (R101, R297 to R299), keys, quotes and `halt` (R324, R325, R333, R334, R385). -/

namespace Sys2Proof.Machine

/-! ### Translations that change (R274, R298, R299) -/

/-- A page range in 64 KiB pages, for one ASID or for all. -/
structure PageRange where
  all  : Bool
  asid : BitVec 16
  lo   : Nat
  hi   : Nat
  deriving DecidableEq, Repr

/-- `units` pages from `page` on overlap the range. -/
def PageRange.meets (r : PageRange) (asid : BitVec 16) (page units : Nat) : Bool :=
  (r.all || asid == r.asid) && decide (page < r.hi) && decide (r.lo < page + units)

/-- The 64 KiB leaf of a page and its place, walked without a cache. -/
def pageLeaf (s : State) (asid : BitVec 16) (page : Nat) : Option (Leaf × BitVec 128) :=
  let root := readEntry s (16 * asid.toNat)
  if root.getLsbD 127 then go 5 0 (pteBits root 0 52) else none
where
  /-- The walk from a level on. -/
  go : Nat → Nat → Nat → Option (Leaf × BitVec 128)
    | 0, _, _ => none
    | n + 1, level, table =>
      let pa := table + 16 * levelIndex level page
      let e := readEntry s pa
      if pteBits e 0 1 == 0 || pteMalformed level e then none
      else if pteBits e 1 1 == 1 then some (leafOf level page pa e, e)
      else go n (level + 1) (ptePa e)

/-- R101, R298: a range with the whole of every mapping that overlaps it, in the tables or in a cache. For all ASIDs at once it is
rounded out to the greatest mappings, of 1 GiB. -/
def wideRange (s : State) (r : PageRange) : PageRange :=
  if r.all then { r with lo := r.lo / 16384 * 16384, hi := (r.hi + 16383) / 16384 * 16384 }
  else
    let spans := ([r.lo, r.hi - 1].filterMap fun p => (pageLeaf s r.asid p).map fun x => (x.1.page, x.1.units)) ++
      (s.mem.tlb.filter fun x => r.meets x.asid x.page x.units).map fun x => (x.page, x.units)
    spans.foldl (fun r x => { r with lo := min r.lo x.1, hi := max r.hi (x.1 + x.2) }) r

/-- R298: every cached translation of the range is dropped, and every non-leaf entry on a path into it. -/
def dropRange (s : State) (r : PageRange) : State :=
  { s with mem := { s.mem with
      tlb := s.mem.tlb.filter fun x => !r.meets x.asid x.page x.units
      walkCache := s.mem.walkCache.filter fun x => !r.meets x.asid x.page x.units } }

/-- The access used a translation of the range, or may have: a thread-local address does not show its page. -/
def evTouches (r : PageRange) (e : MemEv) : Bool :=
  (e.locs.any fun x => match x.1 with
    | .phys _ _ => true
    | .window _ _ => true
    | _ => false) && (r.all || e.asid == r.asid) &&
    (spaceOf e.va == 0xB || r.meets e.asid (e.va % 2 ^ 57 / 65536) ((e.va % 65536 + 65535) / 65536 + 1))

/-- R101, R298: every access that used a translation of the range is performed: none is pending through a mapping that overlaps the
range, and no team holds a staged line there. -/
def rangeQuiet (s : State) (range : PageRange) : Bool :=
  let r := wideRange s range
  !(s.mem.events.any (evTouches r)) &&
    !(s.teams.any fun tm => (r.all || tm.asid == r.asid) &&
        tm.staged.any fun x => spaceOf x.va == 0xB || r.meets tm.asid (x.va % 2 ^ 57 / 65536) 1)

/-- A page-table entry written with one 16-byte store. -/
def writeEntry (s : State) (pa : Nat) (e : BitVec 128) : State := writePhys s none 0 pa (bytesOfNat 16 e.toNat) none

/-- R297: the checks of a `tlb.inv` or `revoke`, and its range. -/
def invArgs (ctl start len : DWord) (revoke : Bool) : Except (BitVec 7) PageRange :=
  let all := ctl.getLsbD 16
  let whole := ctl.getLsbD 17
  if fieldOf ctl 18 46 != 0 || (revoke && all) then .error 0x01
  else if whole then .ok ⟨all, ctl.setWidth 16, 0, 2 ^ 41⟩
  else if start.toNat % 65536 != 0 || len.toNat % 65536 != 0 then .error 0x08
  else if 2 ^ 57 ≤ start.toNat || len.toNat < 65536 || 2 ^ 57 < start.toNat + len.toNat then .error 0x03
  else .ok ⟨all, ctl.setWidth 16, start.toNat / 65536, (start.toNat + len.toNat) / 65536⟩

/-- R38, R39, R383: an instruction of major 0x20 in solo mode, after its marker. -/
def soloInstr (s : State) (k : Ctx → State → State) : Out :=
  inCtx s fun c => if c.p.solo then afterMarker s c false (k c) else fileAll s c 0x02

/-- R297, R298: tlb.inv. -/
def execTlbInv (d a b : BitVec 6) (s : State) : Out :=
  soloInstr s fun c s =>
    match invArgs (c.st.getS d.toNat) (c.st.getS a.toNat) (c.st.getS b.toNat) false with
    | .error cause => fileAll s c cause
    | .ok r => if rangeQuiet s r then finish (dropRange s r) c else s

/-- R299: one valid leaf's version raised. -/
def raiseVersion (s : State) (pa : Nat) (e : BitVec 128) : State :=
  let v := BitVec.ofNat 128 ((pteBits e 104 8 + 1) % 256)
  writeEntry s pa ((e &&& ~~~(0xFF#128 <<< 104)) ||| (v <<< 104))

/-- R299: the walk of a table of a level that raises the version of every valid leaf in the range. -/
def raiseTable (die : Nat) (r : PageRange) : Nat → Nat → Nat → Nat → State → State
  | 0, _, _, _, s => s
  | n + 1, level, table, base, s =>
    (List.range (if level == 4 then 32 else 512)).foldl (fun s i =>
      let page := base + i * levelUnits level
      let pa := table + 16 * i
      let e := readEntry s pa
      if !r.meets r.asid page (levelUnits level) || pteBits e 0 1 == 0 then s
      else if pteMalformed level e then (writeError s die 3 pa).1
      else if pteBits e 1 1 == 1 then raiseVersion s pa e
      else raiseTable die r n (level + 1) (ptePa e) page s) s

/-- R299: the versions of an ASID's pages in a range raised. -/
def raiseRange (s : State) (die : Nat) (r : PageRange) : State :=
  let root := readEntry s (16 * r.asid.toNat)
  if root.getLsbD 127 then raiseTable die r 5 0 (pteBits root 0 52) 0 s else s

/-- R101, R297, R299: revoke. -/
def execRevoke (d a b : BitVec 6) (s : State) : Out :=
  soloInstr s fun c s =>
    match invArgs (c.st.getS d.toNat) (c.st.getS a.toNat) (c.st.getS b.toNat) true with
    | .error cause => fileAll s c cause
    | .ok r => if rangeQuiet s r then finish (dropRange (raiseRange s (dieOf c.st.core) r) r) c else s

/-! ### Gates (R332, R380) -/

/-- A gate record (R380). -/
structure GateRecord where
  entry : Cap
  fromC : BitVec 4
  toC   : BitVec 4
  mask  : BitVec 8
  length : Nat
  deriving DecidableEq, Repr

/-- R380: a gate record's bytes. -/
def GateRecord.bytes (g : GateRecord) : List Byte :=
  g.entry.toBytes ++ [g.fromC.setWidth 8, g.toC.setWidth 8, g.mask] ++ bytesOfNat 5 0 ++ bytesOfNat 8 g.length

/-- R380: the record that a gate capability addresses, in the caller's context. -/
def gateRecord (s : State) (asid : BitVec 16) (va : Nat) : Option GateRecord := do
  let (l, _) ← pageLeaf s asid (va / 65536)
  let pa := l.pa + (va - l.page * 65536)
  let s := drainRange s pa 32
  let bs := cellGets s.mem.cells pa 32
  let byte := fun (i : Nat) => (bs[i]?).getD 0
  some { entry := capOfBytes (bs.take 16) (tagAt s.mem pa), fromC := (byte 16).setWidth 4, toC := (byte 17).setWidth 4
         mask := byte 18, length := natOfBytes (bs.drop 24) }

/-- R332: every page of a region is mapped by a valid 64 KiB leaf of a colour. -/
def pagesColoured (s : State) (asid : BitVec 16) (page n : Nat) (colour : BitVec 4) : Bool :=
  (List.range n).all fun i => match pageLeaf s asid (page + i) with
    | some (l, _) => l.units == 1 && l.colour == colour
    | none => false

/-- R332: the leaves of a region get a colour, one 16-byte update at a time. -/
def recolour (s : State) (asid : BitVec 16) (page n : Nat) (colour : BitVec 4) : State :=
  (List.range n).foldl (fun s i => match pageLeaf s asid (page + i) with
    | some (l, e) => writeEntry s l.at' ((e &&& ~~~(0xF#128 <<< 100)) ||| (colour.setWidth 128 <<< 100))
    | none => s) s

/-- R332: an argument that the gate accepts. Pages are mapped in space 0 alone. -/
def gateAccepts (s : State) (asid : BitVec 16) (g : GateRecord) (x : Cap) : Bool :=
  let (b, t) := x.region
  x.tag && x.seal == 0 && x.colour == g.fromC && decide (t ≤ 2 ^ 57) && b % 65536 == 0 && (t - b) % 65536 == 0 && decide (t - b ≤ g.length) &&
    pagesColoured s asid (b / 65536) ((t - b) / 65536) g.fromC

/-- R136, R380: the check of a gate capability. -/
def gateCause (g : Cap) : Option (BitVec 7) :=
  if !g.tag then some 0x04 else if g.seal != 2 then some 0x06 else if !g.has permG then some 0x05 else none

/-- R332: the pages of a region handed over. -/
def handOver (s : State) (asid : BitVec 16) (base len : Nat) (colour : BitVec 4) : State :=
  dropRange (recolour s asid (base / 65536) (len / 65536) colour) ⟨false, asid, base / 65536, (base + len) / 65536⟩

/-- R332, R380: gate.call. It waits for the release and for the accesses that used the region's translations. -/
def execGateCall (a b : BitVec 4) (s : State) : Out :=
  waitingInstr s fun c s =>
    let g := c.st.getK a.toNat
    let x := c.st.getK b.toNat
    match gateCause g with
    | some cause => fileAllWith s c { cause := cause, addr := 0, detail := BitVec.ofNat 32 (16 + a.toNat), asid := 0 }
    | none =>
      match gateRecord s c.tm.asid g.addr with
      | none => fileAll s c 0x3A
      | some r =>
        if 4 ≤ c.st.gates.length || !gateAccepts s c.tm.asid r x then fileAll s c 0x3A
        else
          let (lo, hi) := x.region
          if !pathQuiet s c || !rangeQuiet s ⟨false, c.tm.asid, lo / 65536, hi / 65536⟩ then s
          else
            let s := handOver s c.tm.asid lo (hi - lo) r.toC
            let rec0 : GateRec := { fromC := r.fromC, toC := r.toC, base := lo, length := hi - lo, pc := c.p.pc + 4, code := c.p.code }
            let y := (x.withColour r.toC).withPerms (x.perms &&& r.mask)
            let s := onStrand s c fun st => { st.setK b.toNat y with gates := st.gates ++ [rec0] }
            let s := updPath s c.st.sid c.p.pid fun p => { p with code := r.entry }
            finishAt s c (BitVec.ofNat 64 r.entry.addr)

/-- R332, R380: gate.ret. -/
def execGateRet (s : State) : Out :=
  waitingInstr s fun c s =>
    match c.st.gates.getLast? with
    | none => fileAll s c 0x3A
    | some r =>
      if !pagesColoured s c.tm.asid (r.base / 65536) (r.length / 65536) r.toC then fileAll s c 0x3A
      else if !pathQuiet s c || !rangeQuiet s ⟨false, c.tm.asid, r.base / 65536, (r.base + r.length) / 65536⟩ then s
      else
        let s := handOver s c.tm.asid r.base r.length r.fromC
        let s := onStrand s c fun st => { st with gates := st.gates.dropLast }
        finishAt (updPath s c.st.sid c.p.pid fun p => { p with code := r.code }) c r.pc

/-! ### Solo mode (R171, R383) -/

/-- R43, R171, R383: solo.on. In solo mode it has no effect but its marker. -/
def execSoloOn (s : State) : Out :=
  inCtx s fun c =>
    if !c.kernel then fileAll s c 0x02
    else afterMarker s c false fun s => finish (updPath s c.st.sid c.p.pid fun p => { p with solo := true }) c

/-- R171, R383: solo.off. -/
def execSoloOff (s : State) : Out :=
  soloInstr s fun c s => finish (updPath s c.st.sid c.p.pid fun p => { p with solo := false }) c

/-! ### The cause table (R161) -/

/-- R161, R384: the control word of an entry. -/
def CauseEntry.control (e : CauseEntry) : DWord :=
  BitVec.ofNat 64 ((if e.valid then 2 ^ 63 else 0) + e.cls.toNat * 2 ^ 56 + e.width.toNat * 2 ^ 48 + e.timeout.toNat * 2 ^ 32 + e.home.toNat)

/-- R161: an entry with the fields of a control word. -/
def CauseEntry.withControl (e : CauseEntry) (w : DWord) : CauseEntry :=
  { e with valid := w.getLsbD 63, cls := w.extractLsb' 56 2, width := w.extractLsb' 48 6, timeout := w.extractLsb' 32 16
           home := w.extractLsb' 0 24, resident := false }

/-- R161: a control word that the table accepts for a bank and cause. `home` holds the ASID in [23:8] and the world in
[7:0]. -/
def controlOk (bank cause : Nat) (w : DWord) : Bool :=
  let cls := fieldOf w 56 2
  let width := fieldOf w 48 6
  cls != 3 && (cls != 2 || bank == 0) && decide (1 ≤ width) && decide (width ≤ 32) && fieldOf w 32 16 != 0 &&
    (fieldOf w 8 16 != 0xFFFF || cls == 0) && (bank == 0 || fieldOf w 0 8 == bank) &&
    (!bankZeroOnly cause || (bank == 0 && cls == 2))

/-- The bank and cause name an entry that can be written. -/
def entryNamed (bank cause : Nat) : Bool :=
  decide (1 ≤ cause) && decide (cause ≤ 0x7F) && (bank == 0 || !bankZeroOnly cause)

/-- The table with one entry changed. -/
def updCause (s : State) (bank cause : Nat) (f : CauseEntry → CauseEntry) : State :=
  { s with traps := { s.traps with
      causeTable := sput noCause s.traps.causeTable (128 * bank + cause) (f (causeEntry s bank cause)) } }

/-- R161: a code capability that an entry accepts. -/
def codeOk (x : Cap) : Bool := x.tag && x.has permX && (x.seal == 0 || x.seal == 1)

/-- R161, R384: CAUSE_TABLE_WRITE: one part of an entry, from a word or a capability; none where it is refused. The parts
serve once the control word is valid. -/
def causeWrite (s : State) (bank cause part : Nat) (w : DWord) (x : Cap) : Option State :=
  if !entryNamed bank cause then none
  else match part with
    | 0 => if controlOk bank cause w then some (updCause s bank cause fun e => e.withControl w) else none
    | 1 => if codeOk x then some (updCause s bank cause fun e => { e with code := x, resident := false }) else none
    | 2 => some (updCause s bank cause fun e => { e with data := x })
    | _ => none

/-! ### Control registers (R384) -/

/-- R283: a third of a die's fuse map. -/
def harvestWord (s : State) (die i : Nat) : DWord :=
  BitVec.ofNat 64 (((fusedOf s die).filter fun p => decide (64 * i ≤ p) && decide (p < 64 * i + 64)).foldl
    (fun m p => m + 2 ^ (p - 64 * i)) 0)

/-- R287: a core has been taken out, alone or with its cluster. -/
def coreOut (s : State) (core : Nat) : Bool :=
  let p := clusterOf s core
  (s.plant.cores.any fun x => x.logical == core && x.out) || s.plant.clustersOut.contains (p.die, p.cluster)

/-- R284: the csr.l2p word of a package-logical core. -/
def l2pWord (s : State) (core : Nat) : DWord :=
  BitVec.ofNat 64 ((if coreOut s core then 0 else 2 ^ 63) + core * 2 ^ 32 + dieOf core * 2 ^ 16 + physCore s core)

/-- R324: the csr.keyslot word. -/
def keyWord (s : State) (i : Nat) : DWord :=
  let k := keySlot s i
  BitVec.ofNat 64 (k.state.toNat * 2 ^ 62 + k.world.toNat * 2 ^ 48 + i * 2 ^ 32 + k.colour.toNat * 2 ^ 28 + k.use.toNat * 2 ^ 26 + k.gen.toNat)

/-- R384: what a control register reads as, where the read writes an s register. -/
def csrValue (s : State) (die b : Nat) (idx : DWord) : DWord :=
  match b with
  | 0 => harvestWord s die 0
  | 1 => harvestWord s die 1
  | 2 => harvestWord s die 2
  | 3 => l2pWord s (fieldOf idx 32 10)
  | 4 => if fieldOf idx 40 2 == 0 then (causeEntry s (fieldOf idx 48 8) (fieldOf idx 32 7)).control else 0
  | 16 => s.trust.lifecycle.setWidth 64
  | 17 => s.trust.devid.setWidth 64
  | 18 => (s.trust.devid >>> 64).setWidth 64
  | 19 => keyWord s (fieldOf idx 32 16)
  | n => if 8 ≤ n && n ≤ 15 then (sget 0 s.trust.meas (n - 8)).extractLsb' (64 * fieldOf idx 32 2) 64 else 0

/-- R384: csr.rd. Parts 1 and 2 of the cause table go to the k register of d[3:0]. -/
def execCsrRd (d a b : BitVec 6) (s : State) : Out :=
  inCtx s fun c =>
    if !c.p.solo then fileAll s c 0x02
    else
      let idx := c.st.getS a.toNat
      let e := causeEntry s (fieldOf idx 48 8) (fieldOf idx 32 7)
      let put := fun (st : Strand) =>
        if b == 4 && fieldOf idx 40 2 == 1 then st.setK (d.toNat % 16) e.code
        else if b == 4 && fieldOf idx 40 2 == 2 then st.setK (d.toNat % 16) e.data
        else st.setS d.toNat (csrValue s (dieOf c.st.core) b.toNat idx)
      finish (onStrand s c put) c

/-- R384: csr.wr: p7 tells whether the write was refused or ignored. -/
def execCsrWr (d a b : BitVec 6) (s : State) : Out :=
  inCtx s fun c =>
    if !c.p.solo then fileAll s c 0x02
    else
      let idx := c.st.getS a.toNat
      let done := if b == 4 then
          causeWrite s (fieldOf idx 48 8) (fieldOf idx 32 7) (fieldOf idx 40 2) (c.st.getS d.toNat) (c.st.getK (d.toNat % 16))
        else none
      finish (onPresent (done.getD s) c fun t => t.setP 7 done.isNone) c

/-! ### Keys, quotes, halt (R385) -/

/-- R333: the bytes whose digest extends meas6 for a `key.load`. -/
def keyEvent (slot : Nat) (k : KeySlot) : List Byte :=
  bytesOfNat 2 slot ++ [k.world, k.colour.setWidth 8] ++ bytesOfNat 2 k.gen.toNat

/-- R324, R385: what a `key.load` of a wrapped key answers, and the key it loads. -/
def keyLoadResult (s : State) (ctl : DWord) (wrapped : List Byte) : Nat × Option (BitVec 256) :=
  let target := fieldOf ctl 0 16
  let wrapping := keySlot s (fieldOf ctl 16 16)
  if target == 0 || (keySlot s target).state == 1 then (1, none)
  else if wrapping.state != 1 || wrapping.use != 1 || wrapping.world.toNat != fieldOf ctl 40 8 then (2, none)
  else if s.trust.unlocking then (5, none)
  else if 2 ≤ fieldOf ctl 36 2 then (4, none)
  else match unwrapKey wrapping.key wrapped with
    | none => (3, none)
    | some k => (0, some k)

/-- R324, R333, R385: a key loaded into a slot. -/
def loadKey (s : State) (ctl : DWord) (key : BitVec 256) : State :=
  let slot := fieldOf ctl 0 16
  let old := keySlot s slot
  let k : KeySlot :=
    { state := 1, world := ctl.extractLsb' 40 8, colour := ctl.extractLsb' 32 4, use := ctl.extractLsb' 36 2
      gen := old.gen + 1, key := key, writes := 0 }
  let s := { s with trust := { s.trust with keys := sput noKey s.trust.keys slot k } }
  extendMeas s 6 (sha256 (keyEvent slot k))

/-- An access of a privileged instruction through k[a]. -/
def kAccess (kind : AccKind) (cap : Cap) (addr size align : Nat) (perm : BitVec 8) : Access :=
  { kind := kind, cap := cap, addr := addr, size := size, perm := perm, natural := false, whole := true, fe := false
    engine := false, align := align }

/-- The rank of the lane that runs a privileged instruction. -/
def Ctx.soloRank (c : Ctx) (s : State) : Nat := (c.ranks s).headD 0

/-- R385: key.load. -/
def execKeyLoad (d : BitVec 6) (a : BitVec 4) (b : BitVec 6) (s : State) : Out :=
  soloInstr s fun c s =>
    let cap := c.st.getK a.toNat
    match checkAccess s (c.who s (c.soloRank s)) (kAccess .load cap cap.addr 40 8 permL) with
    | (s, .error cause) => fileAllWith s c (accessFailure cause cap.addr c.tm.asid (16 + a.toNat))
    | (s, .ok locs) =>
      match readLocs s none locs with
      | (s, none) => fileAllWith s c (accessFailure 0x05 cap.addr c.tm.asid (16 + a.toNat))
      | (s, some g) =>
        let ctl := c.st.getS b.toNat
        let (st, key) := keyLoadResult s ctl g.bytes
        let s := match key with
          | some k => loadKey s ctl k
          | none => s
        finish (onStrand s c fun x => x.setS d.toNat (BitVec.ofNat 64 st)) c

/-- R325 step 1: every staged line whose page names the slot drains. -/
def drainSlot (s : State) (slot : Nat) : State :=
  let mine := fun (x : StagedLine) => x.slot == slot && (tierAt (64 * x.line)).getD 0 != 0
  (s.teams.map (·.tid)).foldl (fun s tid => match teamOf s tid with
    | none => s
    | some tm =>
      updTeam ((tm.staged.filter mine).foldl (fun s x => drainLine s tid tm.place x) s) tid fun t =>
        { t with staged := t.staged.filter fun x => !mine x, signature := (tm.staged.filter mine).foldl signLine t.signature }) s

/-- R325 step 2: an access past its key check under the slot is pending. -/
def slotPending (s : State) (slot : Nat) : Bool :=
  s.mem.events.any fun e => e.locs.any fun x => match x.1 with
    | .phys pa k => k == slot && (tierAt pa).getD 0 != 0
    | _ => false

/-- R325 steps 3 and 4. -/
def killSlot (s : State) (slot : Nat) : State :=
  let k := keySlot s slot
  { s with mem := { s.mem with l1 := s.mem.l1.filter fun x => !(x.slot == slot && (tierAt (64 * x.line)).getD 0 != 0) }
           trust := { s.trust with keys := sput noKey s.trust.keys slot { k with state := 2, key := 0 } } }

/-- R325, R385: key.kill. -/
def execKeyKill (d a : BitVec 6) (s : State) : Out :=
  soloInstr s fun c s =>
    let slot := fieldOf (c.st.getS a.toNat) 0 16
    if slot == 0 || (keySlot s slot).state != 1 then finish (onStrand s c fun x => x.setS d.toNat 1) c
    else
      let s := drainSlot s slot
      if slotPending s slot then s
      else finish (onStrand (killSlot s slot) c fun x => x.setS d.toNat 0) c

/-- R334: the signed bytes of a quote. -/
def quoteBody (s : State) (nonce : List Byte) (world : BitVec 8) : List Byte :=
  bytesOfNat 4 1 ++ bytesOfNat 16 s.trust.devid.toNat ++ bytesOfNat 4 s.trust.lifecycle.toNat ++ bytesOfNat 8 s.trust.sigIndex ++
    nonce ++ bytesOfNat 4 world.toNat ++ (List.range 8).flatMap fun i => bytesOfNat 32 (sget 0 s.trust.meas i).toNat

/-- R334: a quote of 5,560 bytes. -/
def quoteBytes (s : State) (nonce : List Byte) (world : BitVec 8) : List Byte :=
  let body := quoteBody s nonce world
  body ++ hssSign s.trust.sigIndex body

/-- R334, R385: attest. -/
def execAttest (d : BitVec 6) (a : BitVec 4) (b : BitVec 6) (s : State) : Out :=
  soloInstr s fun c s =>
    let cap := c.st.getK a.toNat
    let w := c.who s (c.soloRank s)
    let fail := fun (s : State) (cause : BitVec 7) => fileAllWith s c (accessFailure cause cap.addr c.tm.asid (16 + a.toNat))
    let answer := fun (s : State) (n : DWord) => finish (onStrand s c fun x => x.setS d.toNat n) c
    match checkAccess s w (kAccess .load cap cap.addr 5560 64 (permL ||| permS)) with
    | (s, .error cause) => fail s cause
    | (s, .ok from') =>
      match checkAccess s w (kAccess .store cap cap.addr 5560 64 (permL ||| permS)) with
      | (s, .error cause) => fail s cause
      | (s, .ok to') =>
        if Config.quoteLimit ≤ s.trust.sigIndex then answer s 1
        else if s.trust.unlocking then answer s 2
        else match readLocs s none from' with
          | (s, none) => fail s 0x05
          | (s, some g) =>
            let quote := quoteBytes s ((g.bytes.drop 32).take 32) ((c.st.getS b.toNat).setWidth 8)
            let s := writeLocs s (some c.st.core) none to' quote
            answer { s with trust := { s.trust with sigIndex := s.trust.sigIndex + 1 } } 0

/-- R356: a Pillow entry as it is dumped: without the operand register of an orphaned reduction. -/
def Entry.bare (e : Entry) : Entry :=
  match e.subject with
  | .orphan o => { e with subject := .orphan { o with operand := 0 } }
  | _ => e

/-- R356: what Krahal dumps. -/
def dumpOf (s : State) : Dump :=
  { errors := s.plant.errors, pillow := s.traps.pillow.map Entry.bare
    slots := s.strands.map fun st => (st.core, st.cslot, ((teamOf s st.tid).map (·.launch)).getD 0, st.tid)
    dirs := s.plant.linkDirs, links := s.fabric.links, log := s.front.reports }

/-- R356: the device stops until the package reset. -/
def haltDevice (s : State) (dump : Bool) : State :=
  { s with run := { s.run with halted := true }
           plant := { s.plant with dumped := s.plant.dumped || dump, dump := if dump then some (dumpOf s) else s.plant.dump } }

/-- R385: halt. -/
def execHalt (a : BitVec 6) (s : State) : Out :=
  soloInstr s fun c s =>
    let reason := (c.st.getS a.toNat) &&& 0xFF
    haltDevice { s with plant := { s.plant with health := (s.plant.health &&& ~~~0xFF) ||| reason } } false

end Sys2Proof.Machine
end

