-- ==== Sys2Proof/Machine/Loader.lean ====
section
/-! DEFINITION. Preder's frame allocator and page tables (R182, R183, R270, R271) and its image loader (R19 to R28, R255,
R331, R338, R340, R341, R380). -/

namespace Sys2Proof.Machine

/-! ### Frames (R183) -/

/-- The frame pools: those of the eight dies' HBM4 (0 to 7), of tier 1 (8) and of tier 2 (9). -/
def poolBase (k : Nat) : Nat :=
  if k == 0 then 0x100000
  else if k < 8 then k * 0x1000000000
  else if k == 8 then 0x10000000000
  else 0x100000000000

/-- Frames of a pool. Die 0's begins above the ASID root table, and each die's last gigabyte is its Unpick pool (R366;
where it lies is DESIGN CHOICE 25). -/
def poolFrames (k : Nat) : Nat :=
  if k == 0 then 0xBA800 - 16
  else if k < 8 then 0xBA800
  else if k == 8 then 0x1000000
  else 0x10000000

/-- The pools of a tier, in the order in which the allocator tries them. -/
def tierPools (tier : Nat) : List Nat := if tier == 0 then List.range 8 else [tier + 7]

/-- R355: a frame that a retired region meets. -/
def frameRetired (s : State) (pa : Nat) : Bool :=
  s.mem.retired.any fun r => decide (64 * r.1 < pa + 65536) && decide (pa < 64 * (r.1 + r.2.1))

/-- R329: the lowest L2 way of a die that no world owns. -/
def freeWay (s : State) (die : Nat) : Option Nat :=
  let used := (s.plant.ways.filter fun x => x.1 / 256 == die).foldl (fun m x => m ||| x.2) 0
  (List.range 16).find? fun i => !used.testBit i

/-- R329: a world that comes to hold clusters or frames on a die has a way of its L2: its own, or a free one; none where the 16 ways
serve 16 other worlds. Which way and how many are DESIGN CHOICE 96. -/
def giveWay (s : State) (die world : Nat) : Option State :=
  if sget 0 s.plant.ways (256 * die + world) != 0 then some s
  else (freeWay s die).map fun i =>
    { s with plant := { s.plant with ways := sput 0 s.plant.ways (256 * die + world) (2 ^ i) } }

/-- Frames of a megabyte, in which the worlds' shares of a pool are counted. -/
def chunkFrames : Nat := 16

/-- R183, R329: the frame that comes next in a world's share of a pool, from frame `cur` of its last megabyte on, in at most `fuel + 1`
steps: its number, and the state in which it has been taken. A retired frame is passed over (R355). -/
def poolTake (world k : Nat) : Nat → State → Option (Nat × State)
  | 0, _ => none
  | fuel + 1, s =>
    let cur := sget 0 s.front.nextFrame (16 * world + k)
    let chunk := sget 0 s.front.nextChunk k
    let take := fun (n : Nat) (s : State) =>
      let s := { s with front := { s.front with nextFrame := sput 0 s.front.nextFrame (16 * world + k) (n + 1) } }
      if frameRetired s (poolBase k + 65536 * n) then poolTake world k fuel s else some (poolBase k + 65536 * n, s)
    if cur % chunkFrames != 0 then take cur s
    else if chunkFrames * chunk < poolFrames k then
      let mega := poolBase k / 0x100000 + chunk
      let chunks := sput 0 s.front.nextChunk k (chunk + 1)
      let owners := sput 0 s.front.frameWorld mega (world + 1)
      take (chunkFrames * chunk) { s with front := { s.front with nextChunk := chunks, frameWorld := owners } }
    else none

/-- R183, R329: a frame of a tier for a world: one of its own that was freed first, otherwise the next of its share of the first pool
that has one. The shares are the model's way to give each world pools of its own (DESIGN CHOICE 96). -/
def allocFrame (s : State) (tier world : Nat) : Option (Nat × State) :=
  let own := fun (f : Nat) => tierAt f == some tier && !frameRetired s f && sget 0 s.front.frameWorld (f / 0x100000) == world + 1
  match s.front.freeFrames.find? own with
  | some f => some (f, { s with front := { s.front with freeFrames := s.front.freeFrames.filter fun x => x != f } })
  | none => firstSome (fun k =>
      (if k < 8 then giveWay s k world else some s).bind fun s =>
        poolTake world k (if s.mem.retired.isEmpty then 1 else poolFrames k + 1) s) (tierPools tier)

/-- R182: a frame's 64 KiB zeroed: no byte, tag or poison of its former use stays. Under an encrypted tier its lines are
written under the slot. -/
def zeroFrame (s : State) (pa slot : Nat) : State :=
  let inside := fun (a : Nat) => decide (pa ≤ a) && decide (a < pa + 65536)
  let m := s.mem
  let no := m.wseqNo + 1
  let m := { m with cells := sdrop inside m.cells
                    tags := m.tags.filter fun g => !inside (16 * g)
                    poison := sdrop (fun l => inside (64 * l)) m.poison
                    wseq := m.wseq.map fun x => if inside x.1 then (x.1, no) else x
                    wseqNo := no
                    redEntries := m.redEntries.filter fun e => !inside (64 * e.line) }
  if (tierAt pa).getD 0 == 0 then { s with mem := m }
  else
    let lines := (List.range 1024).map (· + pa / 64)
    { s with mem := lines.foldl (fun m l => countWrite m l slot (keySlot s slot).key) m }

/-! ### Page-table entries (R271) -/

/-- A non-leaf entry for a table at a physical address. -/
def tablePte (pa : Nat) : BitVec 128 := BitVec.ofNat 128 (pa * 4096 + 1)

/-- The leaf of a 64 KiB page. `perms` holds R, W and X in bits 0 to 2. -/
def leafPte (pa : Nat) (tier : BitVec 2) (colour : BitVec 4) (version : BitVec 8) (slot : BitVec 16) (perms : BitVec 3) :
    BitVec 128 :=
  slot ++ version ++ colour ++ tier ++ (0 : BitVec 34) ++ BitVec.ofNat 52 pa ++ (0 : BitVec 5) ++ perms ++ (0 : BitVec 2) ++
    (3 : BitVec 2)

/-- The table below an entry, taken from Preder's own frames of tier 0 where there is none. -/
def ensureTable (s : State) (at' : Nat) : Option (Nat × State) :=
  let e := readEntry s at'
  if pteBits e 0 1 == 1 then (if pteBits e 1 1 == 1 then none else some (ptePa e, s))
  else do
    let (f, s) ← allocFrame s 0 0
    some (f, writeEntry (zeroFrame s f 0) at' (tablePte f))

/-- The entry of a page at level 4, with the tables above it. -/
def leafPlace (page : Nat) : Nat → Nat → Nat → State → Option (Nat × State)
  | 0, _, _, _ => none
  | n + 1, level, table, s =>
    let at' := table + 16 * levelIndex level page
    if level == 4 then some (at', s)
    else do
      let (t, s) ← ensureTable s at'
      leafPlace page n (level + 1) t s

/-- R270: the level 0 table of an ASID. -/
def ensureRoot (s : State) (asid : BitVec 16) : Option (Nat × State) :=
  let root := readEntry s (16 * asid.toNat)
  if root.getLsbD 127 then some (pteBits root 0 52, s)
  else do
    let (f, s) ← allocFrame s 0 0
    some (f, writeEntry (zeroFrame s f 0) (16 * asid.toNat) (BitVec.ofNat 128 (2 ^ 127 + f)))

/-- The place of a page's leaf in an address space. -/
def pagePlace (s : State) (asid : BitVec 16) (page : Nat) : Option (Nat × State) := do
  let (t, s) ← ensureRoot s asid
  leafPlace page 5 0 t s

/-! ### Regions (R182) -/

/-- The region that a page of an address space lies in. -/
def regionOf (s : State) (asid : BitVec 16) (page : Nat) : Option Region :=
  s.front.regions.find? fun r => r.asid == asid && decide (r.base ≤ 65536 * page) && decide (65536 * page < r.base + r.length)

/-- R182: a page of a region is mapped to a zeroed frame, with the page's current version. None where no frame is left. -/
def mapPage (s : State) (r : Region) (page : Nat) : Option State := do
  let (f, s) ← allocFrame s r.tier.toNat r.world.toNat
  let (at', s) ← pagePlace (zeroFrame s f r.slot.toNat) r.asid page
  let old := readEntry s at'
  some (writeEntry s at' (leafPte f r.tier r.colour (old.extractLsb' 104 8) r.slot r.perms))

/-- Every page of a region mapped. -/
def mapPages (s : State) (r : Region) : List Nat → Option State
  | [] => some s
  | p :: ps => do mapPages (← mapPage s r p) r ps

/-- A region of whole pages for a context: `length` bytes at a multiple of `align`, above what the context has. -/
def newRegion (s : State) (asid : BitVec 16) (world : BitVec 8) (length align : Nat) (perms : BitVec 3) (image : Nat) :
    Region × State :=
  let a := max align 65536
  let next := max 65536 (sget 0 s.front.nextVa asid.toNat * 65536)
  let base := (next + a - 1) / a * a
  let r : Region :=
    { asid := asid, base := base, length := (length + 65535) / 65536 * 65536, colour := 1, tier := 0, perms := perms, slot := 0
      image := image, world := world }
  let pages := base / 65536 + r.length / 65536
  (r, { s with front := { s.front with regions := s.front.regions ++ [r], nextVa := sput 0 s.front.nextVa asid.toNat pages } })

/-- R324, R352: the lowest slot that holds a key of a world for its data; slot 0 where none does (DESIGN CHOICE 30). -/
def worldSlot (s : State) (world : BitVec 8) : Nat :=
  ((s.trust.keys.find? fun k => k.2.state == 1 && k.2.use == 0 && k.2.world == world).map (·.1)).getD 0

/-- R352: the region of a launch's save areas: in tier 1 under the world's key, mapped as areas are written, and of no permission. -/
def saveRegion (s : State) (asid : BitVec 16) (world : BitVec 8) (length image : Nat) : Region × State :=
  let (r, s) := newRegion s asid world length 65536 0 image
  let r' := { r with tier := 1, slot := BitVec.ofNat 16 (worldSlot s world) }
  (r', { s with front := { s.front with regions := s.front.regions.map fun x => if x = r then r' else x } })

/-- A region with every page mapped. -/
def mappedRegion (s : State) (asid : BitVec 16) (world : BitVec 8) (length align : Nat) (perms : BitVec 3) (image : Nat) :
    Option (Region × State) :=
  let (r, s) := newRegion s asid world length align perms image
  (mapPages s r ((List.range (r.length / 65536)).map (· + r.base / 65536))).map fun s => (r, s)

/-- The frames of `n` pages go back to the allocator and their leaves become invalid; their version stays. -/
def freePages (s : State) (asid : BitVec 16) (page n : Nat) : State :=
  let s := (List.range n).foldl (fun s i => match pageLeaf s asid (page + i) with
    | some (l, e) =>
      let s := writeEntry s l.at' (e &&& (0xFF#128 <<< 104))
      { s with front := { s.front with freeFrames := s.front.freeFrames ++ [l.pa] } }
    | none => s) s
  dropRange s ⟨false, asid, page, page + n⟩

/-- A region is freed, with its pages on drives. The pages of a region of save areas, which alone lie in tier 1, go with their teams. -/
def freeRegion (s : State) (r : Region) : State :=
  let s := if r.tier == 0 then freePages s r.asid (r.base / 65536) (r.length / 65536) else s
  let gone := fun (x : SwapEntry) => x.asid == r.asid && decide (r.base ≤ 65536 * x.page) && decide (65536 * x.page < r.base + r.length)
  let s := { s with front := { s.front with swaps := s.front.swaps.filter fun x => !gone x } }
  { s with front := { s.front with regions := s.front.regions.filter fun x => x != r } }

/-- The physical address of a device-virtual address of a context. -/
def physOf (s : State) (asid : BitVec 16) (va : Nat) : Option (Nat × Nat) :=
  (pageLeaf s asid (va / 65536)).map fun x => (x.1.pa + (va - x.1.page * 65536), x.1.key)

/-- Firmware writes bytes at a device-virtual address of a context, a page at a time. -/
def firmWrite (s : State) (asid : BitVec 16) : Nat → Nat → List Byte → State
  | 0, _, _ => s
  | _, _, [] => s
  | n + 1, va, bs =>
    let k := 65536 - va % 65536
    let s := match physOf s asid va with
      | some (pa, slot) => writePhys s none slot pa (bs.take k) none
      | none => s
    firmWrite s asid n (va + k) (bs.drop k)

/-- Firmware reads bytes within one page of a context. -/
def firmRead (s : State) (asid : BitVec 16) (va n : Nat) : Option (List Byte) :=
  (physOf s asid va).map fun x => cellGets (drainRange s x.1 n).mem.cells x.1 n

/-- Firmware reads bytes of a context, page by page; none where a page is not mapped. -/
def firmReads (s : State) (asid : BitVec 16) : Nat → Nat → Nat → Option (List Byte)
  | _, _, 0 => some []
  | 0, _, _ => none
  | fuel + 1, va, n =>
    let k := min n (65536 - va % 65536)
    match firmRead s asid va k with
    | none => none
    | some bs => (firmReads s asid fuel (va + k) (n - k)).map fun rest => bs ++ rest

/-- The bytes of an image from an offset on; none outside its length. -/
def imageRead (s : State) (asid : BitVec 16) (addr length off n : Nat) : Option (List Byte) :=
  if off + n ≤ length then firmReads s asid (n / 65536 + 2) (addr + off) n else none

/-- R340: a directory's entries: type, offset and length. -/
def chunkEntries : Nat → List Byte → List Chunk
  | 0, _ => []
  | n + 1, bs =>
    ⟨natOfBytes (bs.take 4), natOfBytes ((bs.drop 4).take 4), natOfBytes ((bs.drop 8).take 8)⟩ :: chunkEntries n (bs.drop 16)

/-- R340: the image at an address: its header (magic, format, flags and count in four words, in that order; DESIGN CHOICE 35), the
directory after it, and the bytes of its sections. What the other chunks declare is `img`'s. None where it cannot be read. -/
def imageAt (s : State) (asid : BitVec 16) (addr length : Nat) (img : Image) : Option Image := do
  let h ← imageRead s asid addr length 0 64
  let word := fun (i : Nat) => natOfBytes ((h.drop (4 * i)).take 4)
  let dir ← imageRead s asid addr length 64 (16 * word 3)
  let chunks := chunkEntries (word 3) dir
  let bytes := fun (t : Nat) => match chunks.find? fun c => c.ctype == t with
    | some c => imageRead s asid addr length c.offset c.length
    | none => some []
  some { img with magic := word 0, format := word 1, privileged := word 2 % 2 == 1, signed := word 2 / 2 % 2 == 1, chunks := chunks
                  text := ← bytes 1, rodata := ← bytes 2, data := ← bytes 3 }

/-! ### What the loader checks (R340) -/

/-- R19: the bytes, start alignment and loader permissions of a section. -/
def imageBytes (img : Image) : Sect → List Byte
  | .text => img.text
  | .rodata => img.rodata
  | .data => img.data

def imageAlign (img : Image) : Sect → Nat
  | .text => img.textAlign
  | .rodata => img.rodataAlign
  | .data => img.dataAlign

/-- R19: the permissions that the loader's root has over a section; R255 adds E to `.data` and `.rodata`. -/
def sectPerms : Sect → BitVec 8
  | .text => permL ||| permX
  | .rodata => permL ||| permLC ||| permE
  | .data => permL ||| permS ||| permLC ||| permSC ||| permE

/-- R27: the region that a request to a section gives, exact or rounded (R96); none where it is refused. -/
def reqRegion (img : Image) (base : Nat) (sec : Sect) (off length : Nat) : Option (Nat × Nat) :=
  let c := mintCap (base + off) length 0 0 0
  let size := (imageBytes img sec).length
  if size < off + length || !c.tag then none
  else if c.region.1 < base || base + size < c.region.2 then none
  else some c.region

/-- R24: a team whose values lie in their ranges. R24 asks this of `shud`; that the loader too refuses an image whose declarations
break the ranges of R24 or R25 is the model's (DESIGN CHOICE 91). -/
def teamOk (t : TeamDesc) : Bool :=
  decide (1 ≤ t.strands) && decide (t.strands ≤ 16) && decide (8 ≤ t.regs) && decide (t.regs ≤ 64) && t.regs % 8 == 0 &&
    decide (1 ≤ t.caps) && decide (t.caps ≤ 16) && decide (t.tiles ≤ 16) && decide (t.accs ≤ 16) && decide (t.act ≤ 196608) &&
    t.act % 64 == 0 && decide (t.wgt ≤ 262144) && t.wgt % 64 == 0 && decide (t.tls ≤ 65536) && t.tls % 64 == 0

/-- R255: a buffer request: its space decides the permissions that it may ask for. -/
def bufPerms (space : Nat) : BitVec 8 :=
  match space with
  | 8 => permL ||| permS ||| permE
  | 9 => permL ||| permE
  | 0xB => permL ||| permS ||| permLC ||| permSC
  | _ => 0

/-- R255: a buffer request fits a team. -/
def bufFits (t : TeamDesc) (addr : DWord) (length : Nat) : Bool :=
  let off := addr.toNat % 2 ^ 60
  let size := match spaceOf addr.toNat with
    | 8 => max t.act 64
    | 9 => t.wgt
    | _ => t.tls
  decide (off + length ≤ size)

/-- R27, R255: a request that the loader does not refuse, given where its section would lie. -/
def capReqOk (img : Image) (base : Sect → Nat) (r : CapReq) : Bool :=
  match r.target with
  | .sect sec off => r.perms &&& ~~~(sectPerms sec) == 0 && (reqRegion img (base sec) sec off r.length).isSome
  | .space addr => bufPerms (spaceOf addr.toNat) != 0 && r.perms &&& ~~~(bufPerms (spaceOf addr.toNat)) == 0

/-- R26, R38: a word of `.text` that bars an audited launch: an atomic, a seam or a net instruction. -/
def barsAudit (w : Word) : Bool :=
  (decodeWord? w).isSome && if w.getLsbD 31 then (w.extractLsb' 24 6).toNat == 0x1C || (w.extractLsb' 24 6).toNat == 0x1F
  else (w.extractLsb' 20 6).toNat == 0x26 || (w.extractLsb' 20 6).toNat == 0x27 || (w.extractLsb' 20 6).toNat == 0x28

/-- The words of a section. -/
def wordsOfBytes : Nat → List Byte → List Word
  | 0, _ => []
  | _, [] => []
  | n + 1, bs => wordOf (bs.take 4) :: wordsOfBytes n (bs.drop 4)

/-- R26: what a capability of a launch's `caps` list asks of its teams. -/
def capRefOk (img : Image) (l : LaunchDecl) (teams : List TeamDesc) : CapRef → Bool
  | .req i => match img.caps[i]? with
    | some r => match r.target with
      | .space addr => teams.all fun t => bufFits t addr r.length
      | .sect _ _ => true
    | none => false
  | .gate i => (img.gates[i]?).isSome && l.gates.contains i

/-- R25: a declared kind. -/
def imageKind (img : Image) (k : Nat) : Option KindDecl := img.kinds.find? fun d => d.kind == k

/-- R26, R338: a launch declaration of an image that a function of `world` loads. -/
def launchOk (img : Image) (world : BitVec 8) (l : LaunchDecl) : Bool :=
  let teams := l.kinds.filterMap fun k => (imageKind img k).bind fun d => img.teams[d.team]?
  decide (1 ≤ l.fx) && decide (1 ≤ l.fy) && decide (1 ≤ l.fz) && decide (l.fx * l.fy * l.fz ≤ 2 ^ 32) &&
    decide (1 ≤ l.kinds.length) && decide (l.kinds.length ≤ 4) && teams.length == l.kinds.length &&
    decide (l.priority ≤ 7) && (l.partition == 0 || l.partition == world.toNat) && decide (l.audit ≤ 16) &&
    decide (l.caps.length ≤ 15) && decide (l.gates.length ≤ 16) && (l.gates.all fun g => (img.gates[g]?).isSome) &&
    (l.caps.all (capRefOk img l teams)) && l.completion % 8 == 0 && decide (l.completion + 8 ≤ img.data.length) &&
    (l.audit == 0 || !((wordsOfBytes img.text.length img.text).any barsAudit))

/-- R25: a kind declaration. -/
def kindOk (img : Image) (d : KindDecl) : Bool :=
  decide (d.kind < 4) && d.entry % 4 == 0 && decide (d.entry < img.text.length) && (img.teams[d.team]?).isSome &&
    decide (1 ≤ d.stages) && decide (d.stages ≤ 16)

/-- R28: a gate declaration: its compartments are `model`, `data` and `shared` (R331). -/
def gateOk (img : Image) (g : GateDecl) : Bool :=
  decide (1 ≤ g.fromC.toNat) && decide (g.fromC.toNat ≤ 3) && decide (1 ≤ g.toC.toNat) && decide (g.toC.toNat ≤ 3) &&
    g.entry % 4 == 0 && decide (g.entry < img.text.length)

/-- R28: the home of a cause entry: ASID and world. -/
def causeHome (c : CauseDecl) (world : BitVec 8) (asid : BitVec 16) : BitVec 24 :=
  match c.cls.toNat with
  | 0 => (0xFFFF : BitVec 16) ++ world
  | 1 => asid ++ world
  | _ => (0 : BitVec 16) ++ (0 : BitVec 8)

/-- The control word of a cause declaration (R161). -/
def causeControl (c : CauseDecl) (world : BitVec 8) (asid : BitVec 16) : DWord :=
  BitVec.ofNat 64 (2 ^ 63 + c.cls.toNat * 2 ^ 56 + c.width.toNat * 2 ^ 48 + c.timeout.toNat * 2 ^ 32 + (causeHome c world asid).toNat)

/-- R28, R340: a cause declaration that the table would accept. -/
def causeOk (img : Image) (world : BitVec 8) (asid : BitVec 16) (c : CauseDecl) : Bool :=
  decide (c.handler < img.text.length) && c.handler % 4 == 0 && (c.cls != 2 || world == 0) &&
    entryNamed world.toNat c.code.toNat && controlOk world.toNat c.code.toNat (causeControl c world asid) &&
    match c.data with
    | some i => (img.caps[i]?).isSome
    | none => true

/-- R21, R340: a relocation whose value the loader can write, given where the sections lie. -/
def relocOk (base : Sect → Nat) (r : Reloc) : Bool :=
  let v : Int := (base r.target : Int) + r.value
  let a : Int := (base r.sect : Int) + r.off
  r.dword || ((v - a) % 4 == 0 && decide (-(2 ^ 31 : Int) ≤ (v - a) / 4) && decide ((v - a) / 4 < (2 ^ 31 : Int)))

/-- R340: the chunks of a directory lie within the image and are of known types; a cause chunk has a kernel signature that
verifies. -/
def chunksOk (img : Image) (length : Nat) : Bool :=
  (img.chunks.all fun c => decide (1 ≤ c.ctype) && decide (c.ctype ≤ 11) && decide (c.offset + c.length ≤ length)) &&
    (!(img.chunks.any fun c => c.ctype == 9) && img.causes.isEmpty || (img.signed && img.sigOk && img.chunks.any fun c => c.ctype == 11))

/-- R340: the loader accepts the image, given where its sections would lie. That it applies R24's and R25's ranges itself, with
status 0x0102, is the model's (DESIGN CHOICE 91). -/
def imageOk (img : Image) (length : Nat) (world : BitVec 8) (asid : BitVec 16) (base : Sect → Nat) : Bool :=
  img.magic == 0x5A445553 && img.format == 1 && chunksOk img length && img.teams.all teamOk &&
    img.kinds.all (kindOk img) && img.caps.all (capReqOk img base) && img.gates.all (gateOk img) &&
    img.causes.all (causeOk img world asid) && img.launches.all (launchOk img world) && img.relocs.all (relocOk base) &&
    img.text.length % 4 == 0

/-! ### Loading (R338) -/

/-- R271: PTE permissions of a section: R, W and X in bits 0 to 2. -/
def sectPte : Sect → BitVec 3
  | .text => 5
  | .rodata => 1
  | .data => 3

/-- The value that the loader writes for a relocation (R21). -/
def relocBytes (base : Sect → Nat) (r : Reloc) : List Byte :=
  let v : Int := (base r.target : Int) + r.value
  let a : Int := (base r.sect : Int) + r.off
  if r.dword then bytesOfNat 8 (BitVec.ofInt 64 v).toNat else bytesOfNat 4 (BitVec.ofInt 32 ((v - a) / 4)).toNat

/-- A capability that the loader mints from a request to a section, in colour 1 (R331). -/
def mintReq (base : Sect → Nat) (r : CapReq) : Minted :=
  match r.target with
  | .sect sec off => .fixed (mintCap (base sec + off) r.length r.perms 1 0)
  | .space addr => .buffer addr r.length r.perms

/-- R255: a minted capability as it is placed when a team starts. -/
def Minted.cap : Minted → Cap
  | .fixed c => c
  | .buffer addr length perms => mintCap addr.toNat length perms 1 0

/-- R332, R380: the gate record of a declaration: its entry is a code capability of colour `to`. -/
def gateRecordOf (img : Image) (base : Sect → Nat) (g : GateDecl) : GateRecord :=
  { entry := (mintCap (base .text) img.text.length (permL ||| permX) g.toC 0).withAddr (base .text + g.entry)
    fromC := g.fromC, toC := g.toC, mask := g.perms, length := g.length }

/-- R341: bytes of the launch records' place in the world's memory: 256 for each launch, then 32 for each gate record, then 16 for
each minted capability. -/
def gateOffset (img : Image) : Nat := 256 * img.launches.length
def sumOf (f : LaunchDecl → Nat) (ls : List LaunchDecl) : Nat := (ls.map f).foldl (· + ·) 0
def capOffset (img : Image) : Nat := gateOffset img + 32 * sumOf (·.gates.length) img.launches

/-- R26, R380: the capability of the i-th gate of a launch's table. -/
def gateCapOf (table i : Nat) (g : GateDecl) : Cap :=
  (mintCap (table + 32 * i) 32 permG g.fromC 0).withSeal 2

/-- Position of a number in a list. -/
def positionOf (l : List Nat) (x : Nat) : Nat := (l.takeWhile fun y => y != x).length

/-- Where a launch's gate table lies: launch `i` of the image's has the records of its `gates` list after those of the
launches before it. -/
def gateTableOf (img : Image) (records i : Nat) : Nat :=
  records + gateOffset img + 32 * sumOf (·.gates.length) (img.launches.take i)

/-- R341: where a launch's table of minted capabilities lies. -/
def capTableOf (img : Image) (records i : Nat) : Nat := records + capOffset img + 16 * sumOf (·.caps.length) (img.launches.take i)

/-- The capabilities of a launch's `caps` list (R26). -/
def launchCaps (img : Image) (base : Sect → Nat) (table : Nat) (l : LaunchDecl) : List Minted :=
  l.caps.filterMap fun r => match r with
    | .req i => (img.caps[i]?).map (mintReq base)
    | .gate i => (img.gates[i]?).map fun g => .fixed (gateCapOf table (positionOf l.gates i) g)

/-- R341: the kind slot of a launch. -/
def kindSlot (img : Image) (base : Sect → Nat) (k : Nat) : Option KindSlot := do
  let d ← imageKind img k
  let t ← img.teams[d.team]?
  some { kind := BitVec.ofNat 2 k, desc := t, stages := d.stages, chain := d.chain
         code := (mintCap (base .text) img.text.length (permL ||| permX) 1 0).withAddr (base .text + d.entry) }

/-- R341: the launch record of a declaration, as the front end holds it. The record carries no layout table, since no
declaration names one: its count is 0. -/
def launchRecord (img : Image) (v : Vcp) (handle i records : Nat) (base : Sect → Nat) (l : LaunchDecl) : Launch :=
  { num := 0, vf := v.vf, image := handle, index := i, world := v.world, asid := v.asid, priority := l.priority
    cohort := l.cohort, audit := l.audit, fx := l.fx, fy := l.fy, fz := l.fz
    kinds := l.kinds.map (BitVec.ofNat 2), slots := l.kinds.filterMap (kindSlot img base)
    caps := launchCaps img base (gateTableOf img records i) l, barriers := Config.clusterHandles handle i
    capTable := capTableOf img records i, gateTable := gateTableOf img records i, gateCount := l.gates.length, layoutTable := 0, layoutCount := 0
    completion := base .data + l.completion, saveBase := 0, began := 0, seed := none, created := []
    events := [], state := .ended, pmap := [], hung := false, failPc := 0
    failTeam := { kind := 0, x := 0, y := 0, z := 0, stage := 0 }, failRank := 0, provenance := 0 }

/-- A 16-byte granule written with a capability and its tag. -/
def firmCap (s : State) (asid : BitVec 16) (va : Nat) (c : Cap) : State :=
  match physOf s asid va with
  | some (pa, slot) => writePhys s none slot pa c.toBytes (some c.tag)
  | none => s

/-- R332: a launch's gate records are installed in its gate table; the digest of each extends meas4 (R333). -/
def installGates (s : State) (asid : BitVec 16) (img : Image) (base : Sect → Nat) (table : Nat) : List Nat → State
  | [] => s
  | i :: rest => match img.gates[i]? with
    | none => installGates s asid img base (table + 32) rest
    | some g =>
      let r := gateRecordOf img base g
      let s := firmWrite s asid 2 (table + 16) (r.bytes.drop 16)
      let s := extendMeas (firmCap s asid table r.entry) 4 (sha256 r.bytes)
      installGates s asid img base (table + 32) rest

/-- Bytes that the manual leaves unspecified. -/
def freeBytes (t n : Nat) : List Byte := (List.range n).map (Config.freeByte t)

/-- R341: a launch record as it stands in the world's memory. How the team descriptor packs its 12 bytes, and an address
and a count their 8, is left open: those bytes are free values (DESIGN CHOICE 26). -/
def recordBytes (t : Nat) (l : Launch) : List Byte :=
  let slots := (l.slots.zipIdx).flatMap fun k =>
    k.1.code.toBytes ++ freeBytes (t + k.2) 12 ++ [BitVec.ofNat 8 k.1.stages, if k.1.chain then 0 else 1] ++
      bytesOfNat 2 (k.1.desc.tls / 64)
  let flags := (if l.cohort then 1 else 0) + (if l.audit == 0 then 0 else 2)
  bytesOfNat 4 1 ++ [l.world, BitVec.ofNat 8 l.priority, BitVec.ofNat 8 flags, BitVec.ofNat 8 l.audit] ++
    bytesOfNat 4 (l.fx - 1) ++ bytesOfNat 4 (l.fy - 1) ++ bytesOfNat 4 (l.fz - 1) ++ [BitVec.ofNat 8 l.kinds.length] ++
    bytesOfNat 3 0 ++ slots ++ bytesOfNat (128 - slots.length) 0 ++ freeBytes (t + 4) 24 ++ bytesOfNat 8 l.completion ++
    bytesOfNat 8 l.saveBase ++ bytesOfNat 64 0

/-- R341: a launch's record as it is written, with the code capabilities of its kind slots and its minted capabilities tagged. -/
def writeLaunchRecord (s : State) (asid : BitVec 16) (at' : Nat) (l : Launch) : State :=
  let s := firmWrite s asid 2 at' (recordBytes s.run.tick l)
  let s := (l.slots.zipIdx).foldl (fun s k => firmCap s asid (at' + 24 + 32 * k.2) k.1.code) s
  (l.caps.zipIdx).foldl (fun s c => firmCap s asid (l.capTable + 16 * c.2) c.1.cap) s

/-- R341, R352: the save areas of a launch are given their place. -/
def placeAreas (s : State) (handle : Nat) : List Launch → List Launch × State
  | [] => ([], s)
  | l :: ls =>
    let (r, s) := saveRegion s l.asid l.world (saveAreas l * saveStride l.slots) handle
    let (ls, s) := placeAreas s handle ls
    ({ l with saveBase := r.base } :: ls, s)

/-- R28, R161: the cause entries of an image, written through csr.causetab in the bank of the world. -/
def installCauses (s : State) (world : BitVec 8) (asid : BitVec 16) (img : Image) (base : Sect → Nat) : List CauseDecl → State
  | [] => s
  | c :: rest =>
    let code := (mintCap (base .text) img.text.length (permL ||| permX) 1 0).withAddr (base .text + c.handler)
    let data := match c.data.bind fun i => img.caps[i]? with
      | some r => (mintReq base r).cap
      | none => nullCap
    let bank := world.toNat
    let put := fun (s : State) (part : Nat) (w : DWord) (x : Cap) => (causeWrite s bank c.code.toNat part w x).getD s
    let s := put (put (put s 1 0 code) 2 0 data) 0 (causeControl c world asid) nullCap
    installCauses s world asid img base rest

/-- Where the sections of an image would lie in a context: one after the other, each on pages of its own. -/
def sectionBases (s : State) (asid : BitVec 16) (img : Image) : Sect → Nat :=
  let place := fun (next : Nat) (sec : Sect) =>
    let a := max (imageAlign img sec) 65536
    (next + a - 1) / a * a
  let after := fun (base : Nat) (sec : Sect) => base + ((imageBytes img sec).length + 65535) / 65536 * 65536
  let next := max 65536 (sget 0 s.front.nextVa asid.toNat * 65536)
  let t := place next .text
  let r := place (after t .text) .rodata
  let d := place (after r .rodata) .data
  fun sec => match sec with
    | .text => t
    | .rodata => r
    | .data => d

/-- One section's region, mapped, and its bytes. -/
def loadSection (s : State) (asid : BitVec 16) (world : BitVec 8) (img : Image) (handle : Nat) (sec : Sect) : Option State := do
  let bs := imageBytes img sec
  let (r, s) ← mappedRegion s asid world bs.length (imageAlign img sec) (sectPte sec) handle
  some (firmWrite s asid (bs.length / 65536 + 1) r.base bs)

/-- R333: what the digest of a privileged image covers: its sections, and its cause table entries, each as its control word and its
two capabilities (DESIGN CHOICE 97). -/
def imageEvent (s : State) (v : Vcp) (img : Image) : List Byte :=
  img.text ++ img.rodata ++ img.data ++ img.causes.flatMap fun c =>
    let e := causeEntry s v.world.toNat c.code.toNat
    bytesOfNat 8 e.control.toNat ++ e.code.toBytes ++ e.data.toBytes

/-- R338, R340: the image is allocated, written and recorded under a handle; none where no frame is left. A privileged
image's digest extends meas5 (R333). -/
def loadImage (s : State) (v : Vcp) (img : Image) (handle : Nat) (base : Sect → Nat) : Option State := do
  let s ← loadSection s v.asid v.world img handle .text
  let s ← loadSection s v.asid v.world img handle .rodata
  let s ← loadSection s v.asid v.world img handle .data
  let s := img.relocs.foldl (fun s r => firmWrite s v.asid 2 (base r.sect + r.off) (relocBytes base r)) s
  let size := capOffset img + 16 * sumOf (·.caps.length) img.launches
  let (r, s) ← mappedRegion s v.asid v.world size 65536 0 handle
  let (launches, s) := placeAreas s handle (img.launches.zipIdx.map fun x => launchRecord img v handle x.2 r.base base x.1)
  let s := launches.foldl (fun s l => writeLaunchRecord s v.asid (r.base + 256 * l.index) l) s
  let s := img.launches.zipIdx.foldl (fun s x =>
    installGates s v.asid img base (gateTableOf img r.base x.2) x.1.gates) s
  let s := installCauses s v.world v.asid img base img.causes
  let s := if img.privileged then extendMeas s 5 (sha256 (imageEvent s v img)) else s
  let new : Loaded := { handle := handle, vf := v.vf, world := v.world, asid := v.asid, launches := launches }
  some { s with front := { s.front with images := s.front.images ++ [new] } }

end Sys2Proof.Machine
end

