-- ==== Sys2Proof/Machine/Launch.lean ====
section
/-! DEFINITION. Clusters and partitions (R258, R283 to R287, R329), virtual command processors and their rings (R336 to R339),
launches, the spawn tree and error records (R341 to R344, R347), `spawn` and events (R376, R377). -/

namespace Sys2Proof.Machine

/-! ### Cores of a world (R284 to R287, R329) -/

/-- R329: the world that owns a cluster. -/
def clusterOwner (s : State) (die cluster : Nat) : Option Nat :=
  match sget 0 s.plant.clusterWorld (64 * die + cluster) with
  | 0 => none
  | n + 1 => some n

/-- R284: the package-logical number of a physical core, unless it is fused off. -/
def logicalOf (s : State) (die phys : Nat) : Option Nat :=
  let fused := fusedOf s die
  if 144 ≤ phys || fused.contains phys then none
  else some (Config.coresPerDie * die + ((List.range phys).filter fun p => !fused.contains p).length)

/-- A core may run teams of a world (R329). -/
def coreServes (s : State) (world core : Nat) : Bool :=
  let p := clusterOf s core
  !coreOut s core && clusterOwner s p.die p.cluster == some world

/-- The package-logical cores. -/
def allCores : List Nat := List.range (8 * Config.coresPerDie)

/-- R258, R286: the cores of a cluster that are enabled and not taken out, by their cluster-local numbers. -/
def liveCores (s : State) (die cluster : Nat) : List Nat :=
  (List.range 4).filter fun k => match logicalOf s die (4 * cluster + k) with
    | some n => !coreOut s n
    | none => false

/-- R286: a cluster's field in the view of a world's launch. -/
def viewField (s : State) (world die cluster : Nat) : Nat :=
  if clusterOwner s die cluster != some world then 0
  else match liveCores s die cluster with
    | [_, _, _, _] => 1
    | [a, b, c] => 4 + (6 - a - b - c)
    | _ => 0

/-- R286: the partition view of a die. -/
def partitionView (s : State) (world die : Nat) : BitVec 128 :=
  BitVec.ofNat 128 (((List.range 36).map fun c => viewField s world die c * 2 ^ (3 * c)).foldl (· + ·) 0)

/-! ### Virtual command processors (R336) -/

/-- R336: a function's virtual command processor before any write. Its world and ASID are DESIGN CHOICE 27: VF n has world
n + 1 and ASID n + 1, as far as these numbers go. -/
def newVcp (vf : Nat) : Vcp :=
  { vf := vf, world := BitVec.ofNat 8 (vf % 255 + 1), asid := BitVec.ofNat 16 (vf % 65534 + 1), notify := 0, head := 0
    discard := 0, flrGen := 0, ringBase := 0, ringSize := 0, errIndex := 0, errRing := [], flrBusy := false }

/-- The virtual command processor of a function. -/
def vcpOf (s : State) (vf : Nat) : Vcp := (s.front.vcps.find? fun v => v.vf == vf).getD (newVcp vf)

/-- The state with `f` applied to a function's virtual command processor. -/
def updVcp (s : State) (vf : Nat) (f : Vcp → Vcp) : State :=
  let v := f (vcpOf s vf)
  { s with front := { s.front with vcps := (s.front.vcps.filter fun x => x.vf != vf) ++ [v] } }

/-- R337, R339: a notify write. While an FLR runs, or no ring is set, it is discarded and counted. A tail beyond the ring
is clamped, and the excess counts as discards. -/
def stepNotify (s : State) (vf : Nat) (tail : DWord) : State :=
  updVcp s vf fun v =>
    if v.flrBusy || v.ringSize == 0 then { v with discard := v.discard + 1 }
    else
      let most := v.head.toNat + 2 ^ v.ringSize.toNat
      if tail.toNat ≤ most then { v with notify := tail }
      else { v with notify := BitVec.ofNat 64 most, discard := v.discard + BitVec.ofNat 64 (tail.toNat - most) }

/-- R336: a host write to a field of the virtual command processor. Ring base and size take one while head = tail; the
low six bits of a base are 0. -/
def stepVcpWrite (s : State) (vf off : Nat) (value : DWord) : State :=
  match off with
  | 0x000 => stepNotify s vf value
  | 0x020 => updVcp s vf fun v => if v.head == v.notify then { v with ringBase := value &&& ~~~0x3F } else v
  | 0x028 => updVcp s vf fun v =>
      let n := fieldOf value 0 32
      if v.head == v.notify && decide (4 ≤ n) && decide (n ≤ 12) then { v with ringSize := BitVec.ofNat 32 n } else v
  | _ => s

/-! ### Ring entries (R337) -/

/-- A ring entry. -/
structure RingEntry where
  op     : Nat
  zero   : Nat
  handle : Nat
  addr   : Nat
  length : Nat
  index  : Nat
  rest   : Nat
  deriving DecidableEq, Repr

/-- Where the entry that comes next stands. -/
def ringAddr (v : Vcp) : Nat := v.ringBase.toNat + 64 * (v.head.toNat % 2 ^ v.ringSize.toNat)

/-- The entry that comes next, read through the function's ASID: none where its page is not mapped. -/
def ringEntry (s : State) (v : Vcp) : Option RingEntry :=
  (firmRead s v.asid (ringAddr v) 64).map fun bs =>
    let num := fun (lo n : Nat) => natOfBytes ((bs.drop lo).take n)
    { op := num 0 2, zero := num 2 2, handle := num 4 4, addr := num 8 8, length := num 16 8, index := num 24 8, rest := num 40 24 }

/-- R337: a field that the table gives as zero for the op is not, or the op is none of the four. -/
def RingEntry.bad (e : RingEntry) : Bool :=
  e.zero != 0 || e.rest != 0 ||
    match e.op with
    | 1 => e.handle != 0 || e.index != 0
    | 2 => e.addr != 0 || e.length != 0 || decide (256 ≤ e.index)
    | 3 => e.addr != 0 || e.length != 0 || e.index != 0
    | 4 => e.addr != 0 || e.length != 0 || e.index != 0
    | _ => true

/-- An entry is waiting at a function's ring. -/
def ringWaiting (v : Vcp) : Bool := v.ringSize != 0 && !v.flrBusy && decide (v.head.toNat < v.notify.toNat)

/-- R337: the entry's status is written and head advances. -/
def completeEntry (s : State) (vf result handle : Nat) : State :=
  let v := vcpOf s vf
  let w := 2 ^ 63 + handle % 2 ^ 32 * 2 ^ 16 + result
  let s := firmWrite s v.asid 1 (ringAddr v + 32) (bytesOfNat 8 w)
  updVcp s vf fun v => { v with head := v.head + 1 }

/-- The entry that comes next, when its op is `op` and its fields are right. -/
def entryOfOp (s : State) (vf op : Nat) : Option RingEntry :=
  let v := vcpOf s vf
  if !ringWaiting v then none
  else match ringEntry s v with
    | some e => if e.op == op && !e.bad then some e else none
    | none => none

/-- R337: an entry that completes with status 0x0101. One whose page cannot be read has no status to write: head passes
it (DESIGN CHOICE 28). -/
def stepRingBad (s : State) (vf : Nat) : State :=
  let v := vcpOf s vf
  if !ringWaiting v then s
  else match ringEntry s v with
    | some e => if e.bad then completeEntry s vf 0x0101 0 else s
    | none => updVcp s vf fun v => { v with head := v.head + 1 }

/-- R338, R340: RING_LOAD of the image that the entry names: it is read where it stands. -/
def stepRingLoad (s : State) (vf : Nat) (img : Image) : State :=
  match entryOfOp s vf 1 with
  | none => s
  | some e =>
    let v := vcpOf s vf
    match imageAt s v.asid e.addr e.length img with
    | none => completeEntry s vf 0x0102 0
    | some img =>
    let base := sectionBases s v.asid img
    if imageOk img e.length v.world v.asid base then
      let handle := s.run.nextHandle
      match loadImage { s with run := { s.run with nextHandle := handle + 1 } } v img handle base with
      | some s => completeEntry s vf 0 handle
      | none => completeEntry s vf 0x0102 0
    else completeEntry s vf 0x0102 0

/-- R338, R343: a launch of the image has not ended. -/
def imageLive (s : State) (handle : Nat) : Bool :=
  s.front.launches.any fun l => l.image == handle && l.state != .ended

/-- R338: RING_UNLOAD. -/
def stepRingUnload (s : State) (vf : Nat) : State :=
  match entryOfOp s vf 3 with
  | none => s
  | some e =>
    if !(s.front.images.any fun i => i.handle == e.handle && i.vf == vf) then completeEntry s vf 0x0104 0
    else if imageLive s e.handle then completeEntry s vf 0x0203 0
    else
      let s := (s.front.regions.filter fun r => r.image == e.handle).foldl freeRegion s
      let s := { s with front := { s.front with
        images := s.front.images.filter fun i => i.handle != e.handle
        launches := s.front.launches.filter fun l => l.image != e.handle } }
      completeEntry s vf 0 0

/-- R338: RING_CANCEL. -/
def stepRingCancel (s : State) (vf : Nat) : State :=
  match entryOfOp s vf 4 with
  | none => s
  | some e =>
    match s.front.launches.find? fun l => l.num == e.handle && l.vf == vf with
    | none => completeEntry s vf 0x0104 0
    | some l =>
      let none' : TeamKey := { kind := 0, x := 0, y := 0, z := 0, stage := 0 }
      let s := if l.state = .live then endLaunch s l.num 0x84 0 none' 0xFFFFFFFF 0 else s
      completeEntry s vf 0 0

/-! ### Teams come into being (R24, R342, R368, R376) -/

/-- A team as it is created, not placed yet. -/
def newTeam (tid launch : Nat) (key : TeamKey) (role : TeamRole) (desc : TeamDesc) (asid : BitVec 16) (world : BitVec 8)
    (code : Cap) (order : Nat) : Team :=
  { tid := tid, launch := launch, key := key, role := role, desc := desc, asid := asid, world := world, code := code
    place := none, lastPlace := none, bound := none, peerSet := none, tilesAt := 0, accsAt := 0, actAt := 0, wgtAt := 0, homes := 0
    state := .created, name := none, placegen := 0, rollbacks := 0, tiles := [], accs := [], act := [], fe := [], wgt := []
    actPoison := [], wgtPoison := [], tilePoison := [], accPoison := [], handles := [], exposed := false, staged := [], undo := [], shadow := none, ckpt := false
    popped := [], rolling := none, tlsBase := 0, signature := 0, unsampled := false, failed := false, result := 0
    failure := none, order := order }

/-- A created team joins the package's list. -/
def addTeam (s : State) (tm : Team) : State :=
  { s with teams := s.teams ++ [tm], run := { s.run with nextTid := s.run.nextTid + 1, nextOrder := s.run.nextOrder + 1 } }

/-- R341: the kind slot of a kind in a launch. -/
def Launch.slot (l : Launch) (kind : BitVec 2) : Option KindSlot := l.slots.find? fun k => k.kind == kind

/-- Teams of a launch's field. -/
def Launch.size (l : Launch) : Nat := l.fx * l.fy * l.fz

/-- R342: the key of the field's i-th team at a stage: x runs fastest, and the kind is the one at position x mod n. -/
def Launch.keyAt (l : Launch) (i stage : Nat) : TeamKey :=
  let x := i % l.fx
  { kind := (l.kinds[x % l.kinds.length]?).getD 0, x := BitVec.ofNat 32 x, y := BitVec.ofNat 32 (i / l.fx % l.fy)
    z := BitVec.ofNat 32 (i / (l.fx * l.fy)), stage := BitVec.ofNat 4 stage }

/-- R377: an event slot is published. -/
def Launch.published (l : Launch) (key : TeamKey) (slot : Bool) : Bool := l.events.contains (key, slot)

/-- R342: the team's dependency holds: its stage is 0, its kind's stages do not depend, or the stage before it has been
published. -/
def stageReady (l : Launch) (key : TeamKey) : Bool :=
  key.stage == 0 || (match l.slot key.kind with
    | some k => !k.chain
    | none => true) || l.published { key with stage := key.stage - 1 } false

/-- R342: teams of stage `st` of the field that the seed has still to place. -/
def stageLeft (l : Launch) (st : Nat) : List TeamKey :=
  ((List.range l.size).map fun i => l.keyAt i st).filter fun k =>
    !l.created.contains k && match l.slot k.kind with
      | some x => decide (st < x.stages)
      | none => false

/-- The teams of later stages that the seed has still to place. -/
def laterLeft (l : Launch) : List TeamKey := (List.range 15).flatMap fun i => stageLeft l (i + 1)

/-- R342: a seed that has placed stage 0 ends once no team of the field is left for it. -/
def Launch.settleSeed (l : Launch) : Launch :=
  match l.seed with
  | some i => if l.size ≤ i && (laterLeft l).isEmpty then { l with seed := none } else l
  | none => l

/-- R342, R376: a team of a launch is created and counts in the spawn tree. -/
def createTeam (s : State) (l : Launch) (key : TeamKey) : State :=
  match l.slot key.kind with
  | none => s
  | some k =>
    let tm := newTeam s.run.nextTid l.num key .field k.desc l.asid l.world k.code s.run.nextOrder
    updLaunch (addTeam s tm) l.num fun l => { l with created := l.created ++ [key] }.settleSeed

/-- R342: SEED_PLACE: the seed places its next team: those of stage 0 in their order, then those of later stages as they
become ready. A team that a spawn has made already is passed over. It ends when the field is placed. -/
def stepSeedPlace (s : State) (num : Nat) : State :=
  match launchOf s num with
  | none => s
  | some l =>
    match l.seed with
    | none => s
    | some i =>
      if i < l.size then
        let key := l.keyAt i 0
        let s := if l.created.contains key then s else createTeam s l key
        updLaunch s num fun l => { l with seed := some (i + 1) }.settleSeed
      else
        match (laterLeft l).find? (stageReady l) with
        | none => s
        | some key => createTeam s l key

/-- The seed has a team that it may place now. -/
def seedReady (l : Launch) : Bool :=
  match l.seed with
  | none => false
  | some i => decide (i < l.size) || (laterLeft l).any (stageReady l)

/-! ### The end of a launch (R343, R344, R347) -/

/-- R343: what the spawn-tree counter of a launch counts: the seed, its teams, what they issued that is still to be performed (its reductions
among it), its Pillow entries of causes 0x40 and 0x48 and reductions held at a target, and activities that unpick in it. -/
def spawnCount (s : State) (l : Launch) : Nat :=
  (if l.seed.isSome then 1 else 0) + (s.teams.filter fun tm => tm.launch == l.num && tm.role != .handler).length +
    (s.mem.events.filter fun e => e.launch == l.num).length + (s.eng.cmds.filter fun c => c.launch == l.num).length +
    (s.traps.pillow.filter fun e => e.ofLaunch s l.num).length +
    (s.traps.heldOrphans.filter fun o => o.launch == l.num && o.source == s.fabric.pkgNo).length +
    (s.seams.entries.filter fun a => a.runner == l.num && a.state == .unpicking).length

/-- R347: byte 5 of an error record: stage and kind. -/
def stageByte (k : TeamKey) : Byte := k.stage ++ (0 : BitVec 2) ++ k.kind

/-- R347: the error record of a launch. -/
def errorRecord (l : Launch) (code : Nat) : List Byte :=
  bytesOfNat 4 l.num ++ [BitVec.ofNat 8 code, stageByte l.failTeam] ++
    bytesOfNat 2 (if code == 0x80 then l.provenance.toNat else 0) ++ bytesOfNat 8 l.failPc.toNat ++
    bytesOfNat 4 l.failTeam.x.toNat ++ bytesOfNat 4 l.failTeam.y.toNat ++ bytesOfNat 4 l.failTeam.z.toNat ++
    bytesOfNat 4 l.failRank.toNat

/-- R347: a record is written into a function's error ring. -/
def writeRecord (s : State) (vf : Nat) (bs : List Byte) : State :=
  updVcp s vf fun v => { v with errRing := sput [] v.errRing (v.errIndex.toNat % 64) bs, errIndex := v.errIndex + 1 }

/-- R343, R344: the completion counter of a launch rises by 1, with bit 63 also set for one that ends in error. -/
def bumpCounter (s : State) (l : Launch) (bad : Bool) : State :=
  match firmRead s l.asid l.completion 8 with
  | none => s
  | some bs =>
    let n := BitVec.ofNat 64 (natOfBytes bs) + 1
    let n := if bad then n ||| 0x8000000000000000 else n
    firmWrite s l.asid 1 l.completion (bytesOfNat 8 n.toNat)

/-- R317: every pending reduction entry of the ports is applied. -/
def drainAllReds (s : State) : State := (s.mem.redEntries.map (·.line)).foldl drainReds s

/-- R373: the activities that a launch still holds in OPEN are closed. -/
def closeOwned (s : State) (num : Nat) : State :=
  { s with seams := { s.seams with entries := s.seams.entries.filter fun a => !(a.owner == num && a.state == .open) } }

/-- R372: when the launch in which an activity's compensation teams run ends, its cause 0x38 entry is withdrawn. -/
def withdrawSeams (s : State) (num : Nat) : State :=
  let mine := (s.seams.entries.filter fun a => a.runner == num).map fun a => (a.index, a.gen.toNat)
  withdraw s fun e => match e.subject with
    | .seam i g _ _ => mine.contains (i, g)
    | _ => false

/-- R343, R344, R339: a launch whose counter is 0 ends: it completes, or its error completion is made, or, when an FLR has
ended it, neither. -/
def stepLaunchDone (s : State) (num : Nat) : State :=
  match launchOf s num with
  | none => s
  | some l =>
    if l.state = .ended || spawnCount s l != 0 then s
    else
      let s := drainAllReds s
      let s := match l.state with
        | .live => bumpCounter (closeOwned s num) l false
        | .ending code => bumpCounter (writeRecord s l.vf (errorRecord l code)) l true
        | _ => s
      updLaunch (withdrawSeams s num) num fun l => { l with state := .ended, events := [], created := [], seed := none }

/-! ### Function-level reset (R339) -/

/-- R339: a launch ended by an FLR: its teams other than compensation teams stop, and its OPEN activities unpick. -/
def flushLaunch (s : State) (l : Launch) : State :=
  if l.state = .ended then s
  else
    let teams := (s.teams.filter fun tm => tm.launch == l.num && !tm.role.compensates).map (·.tid)
    let s := teams.foldl endTeam s
    let s := withdrawLaunch s l.num
    unpickOwned (updLaunch s l.num fun l => { l with state := .flushing, seed := none }) l.num

/-- R339: FLR. -/
def stepFlr (s : State) (vf : Nat) : State :=
  let s := (s.front.launches.filter fun l => l.vf == vf).foldl flushLaunch s
  updVcp s vf fun v => { v with flrBusy := true, ringBase := 0, ringSize := 0, head := 0, notify := 0 }

/-- R339: FLR_COMPLETE: no launch of the function is live. -/
def stepFlrComplete (s : State) (vf : Nat) : State :=
  if (vcpOf s vf).flrBusy && !(s.front.launches.any fun l => l.vf == vf && l.state != .ended) then
    updVcp s vf fun v => { v with flrBusy := false, flrGen := v.flrGen + 1 }
  else s

/-! ### Events of teams (R377) -/

/-- R377: the paths that wait for an event slot of a launch go on, each with an acquire at dev scope. -/
def wakeEvent (s : State) (num : Nat) (key : TeamKey) (slot : Bool) : State :=
  let mine := fun (st : Strand) => s.teams.any fun tm => tm.tid == st.tid && tm.launch == num
  let hit := fun (p : Path) => match p.state with
    | .waiting (.event k b) _ => k = key && b == slot
    | _ => false
  let woken := (s.strands.filter mine).flatMap fun st => (st.paths.filter hit).map fun p => (st.sid, p.mask)
  let s := woken.foldl (fun s x => acquireThreads s x.1 x.2 true) s
  let go := fun (p : Path) => { p.advanced with state := .ready, marks := 0 }
  { s with strands := mapIf mine (fun st => { st with paths := mapIf hit go st.paths }) s.strands }

/-- R377: an event slot is published; a second publication changes nothing. -/
def publish (s : State) (num : Nat) (key : TeamKey) (slot : Bool) : State :=
  match launchOf s num with
  | none => s
  | some l =>
    if l.published key slot then s
    else wakeEvent (updLaunch s num fun l => { l with events := l.events ++ [(key, slot)] }) num key slot

/-- R376, R377: the key that s[a] and s[b] name. -/
def keyOf (a b : DWord) : TeamKey :=
  { kind := b.extractLsb' 40 2, x := a.extractLsb' 0 32, y := a.extractLsb' 32 32, z := b.extractLsb' 0 32, stage := b.extractLsb' 32 4 }

/-- R376: the status of a spawn. Of several that hold, the launch's end comes first and a kind or stage it does not have
second (DESIGN CHOICE 29). -/
def spawnStatus (l : Launch) (key : TeamKey) : Nat :=
  if l.state ≠ .live then 3
  else match l.slot key.kind with
    | none => 2
    | some k =>
      if k.stages ≤ key.stage.toNat || !l.kinds.contains key.kind then 2 else if l.created.contains key then 1 else 0

/-- R376: spawn. It waits until what its path's threads issued before it is performed at dev scope. -/
def execSpawn (d a b : BitVec 6) (s : State) : Out :=
  waitingInstr s fun c s =>
    if !pathQuiet s c then s
    else match launchOf s c.tm.launch with
      | none => seamResult s c d 3
      | some l =>
        let key := keyOf (c.st.getS a.toNat) (c.st.getS b.toNat)
        let st := spawnStatus l key
        seamResult (if st == 0 then createTeam s l key else s) c d (BitVec.ofNat 64 st)

/-- R375: an event instruction. In a handler strand it is privileged. -/
def eventInstr (s : State) (k : Ctx → State → State) : Out :=
  inCtx s fun c => if c.handler then fileAll s c 0x02 else k c s

/-- The event slot that operands name is published. -/
def slotPublished (s : State) (c : Ctx) (a b : DWord) : Bool :=
  match launchOf s c.tm.launch with
  | some l => l.published (keyOf a b) (b.getLsbD 44)
  | none => false

/-- R377: evt.wait. -/
def execEvtWait (a b : BitVec 6) (s : State) : Out :=
  eventInstr s fun c s => afterMarker s c false fun s =>
    let x := c.st.getS a.toNat
    let y := c.st.getS b.toNat
    if slotPublished s c x y then finish (acquireThreads s c.st.sid c.p.mask true) c
    else parkIn s c (.event (keyOf x y) (y.getLsbD 44))

/-- R377, R387: evt.pub. A compensation team publishes nothing. -/
def execEvtPub (s : State) : Out :=
  eventInstr s fun c s =>
    let s := exposeTeam s c.tm.tid
    if c.tm.role.compensates then finish s c
    else if pathQuiet s c then finish (publish s c.tm.launch c.tm.key true) c
    else s

/-- R377: evt.test. -/
def execEvtTest (d a b : BitVec 6) (s : State) : Out :=
  eventInstr s fun c s =>
    let yes := slotPublished s c (c.st.getS a.toNat) (c.st.getS b.toNat)
    let s := if yes then acquireThreads s c.st.sid c.p.mask true else s
    finish (onStrand s c fun st => st.setS d.toNat (if yes then 1 else 0)) c

end Sys2Proof.Machine
end

