-- ==== Sys2Proof/Machine/Swap.lean ====
section
/-! DEFINITION. What Preder does with mapped pages: the staleness that a sweep looks for (R103), the save areas of stopped teams (R205,
R352), and its reclaim, which swaps out or moves pages while their teams are stopped (R183, R351, R354), and brings them back (R182). -/

namespace Sys2Proof.Machine

/-! ### Stale capabilities (R103) -/

/-- A table of a level, or one below it, has a leaf in the range with another version. -/
def otherVersion (s : State) (r : PageRange) (v : BitVec 8) : Nat → Nat → Nat → Nat → Bool
  | 0, _, _, _ => false
  | n + 1, level, table, base =>
    (List.range (if level == 4 then 32 else 512)).any fun i =>
      let page := base + i * levelUnits level
      let pa := table + 16 * i
      let e := readEntry s pa
      r.meets r.asid page (levelUnits level) && pteBits e 0 1 != 0 && !pteMalformed level e &&
        (if pteBits e 1 1 == 1 then (leafOf level page pa e).version != v
         else otherVersion s r v n (level + 1) (ptePa e) page)

/-- R103, R105: the pages of an address space that a region of bytes reaches: through spaces 0 and 0xD by the address itself, and
through space 0xB in the thread-local slices of each team of the address space. -/
def regionPages (s : State) (asid : BitVec 16) (lo hi : Nat) : List PageRange :=
  let part := fun (space size : Nat) =>
    let a := max lo (space * 2 ^ 60) - space * 2 ^ 60
    let b := min hi (space * 2 ^ 60 + size) - space * 2 ^ 60
    if a < b then some (a, b) else none
  let pages := fun (a b : Nat) => (⟨false, asid, a / 65536, (b + 65535) / 65536⟩ : PageRange)
  ([0, 0xD].filterMap fun sp => (part sp (2 ^ 57)).map fun x => pages x.1 x.2) ++
    (s.teams.filter fun tm => tm.asid == asid && tm.desc.tls != 0).flatMap fun tm =>
      match part 0xB tm.desc.tls with
      | some (a, b) => (List.range (32 * tm.desc.strands)).map fun i =>
          pages (tm.tlsBase + i * tm.desc.tls + a) (tm.tlsBase + i * tm.desc.tls + b)
      | none => []

/-- R103: a capability is stale in an address space. -/
def staleCap (s : State) (asid : BitVec 16) (c : Cap) : Bool :=
  let (lo, hi) := c.region
  let root := readEntry s (16 * asid.toNat)
  c.tag && !c.has permY && root.getLsbD 127 &&
    (regionPages s asid lo hi).any fun r => otherVersion s r c.version 5 0 (pteBits root 0 52) 0

/-! ### Save areas (R205, R352) -/

/-- R352: the address of a team's save area. -/
def areaOf (l : Launch) (tm : Team) : Nat := l.saveBase + saveIndex l tm * saveStride l.slots

/-- R205, R352: a team's image is written to its save area, whose pages are mapped first. None where no frame is left. A launch
with no area (one that no image declares) keeps none. -/
def writeArea (s : State) (tm : Team) : Option State := do
  match launchOf s tm.launch with
  | none => some s
  | some l => match regionOf s l.asid (areaOf l tm / 65536) with
    | none => some s
    | some r =>
      let bs := areaBytes s tm
      let n := (bs.length + 65535) / 65536
      let pages := ((List.range n).map (· + areaOf l tm / 65536)).filter fun p => (pageLeaf s l.asid p).isNone
      some (firmWrite (← mapPages s r pages) l.asid (n + 1) (areaOf l tm) bs)

/-- R183: the pages of a team's save area are freed once it has resumed or ended. -/
def freeArea (s : State) (tm : Team) : State :=
  match launchOf s tm.launch with
  | none => s
  | some l => match regionOf s l.asid (areaOf l tm / 65536) with
    | none => s
    | some _ => freePages s l.asid (areaOf l tm / 65536) ((areaSize tm.desc 16 + 65535) / 65536)

/-! ### Swapped-out pages (R182, R354) -/

/-- The entry of the swap map of a page. -/
def swapOf (s : State) (asid : BitVec 16) (page : Nat) : Option SwapEntry :=
  s.front.swaps.find? fun x => x.asid == asid && x.page == page

/-- R271, R354: the leaf of a page that is swapped out: not present, with the slot in bits 95 to 80, the block in bits 63 to 12 and the
drive in bits 11 to 8, which R271 leaves free; its other fields stay. -/
def swappedPte (e : BitVec 128) (slot drive block : Nat) : BitVec 128 :=
  e.extractLsb' 96 32 ++ BitVec.ofNat 16 slot ++ (0 : BitVec 16) ++ BitVec.ofNat 52 block ++ BitVec.ofNat 4 drive ++
    e.extractLsb' 4 4 ++ (0 : BitVec 4)

/-- R354: the slot under which a page is swapped: the world's for tier 0, its leaf's otherwise. -/
def swapSlot (s : State) (world : BitVec 8) (l : Leaf) : Nat := if l.tier == 0 then worldSlot s world else l.key

/-- R183: the launch's teams are all stopped, and with them every other team of its address space. -/
def launchStopped (s : State) (l : Launch) : Bool :=
  let mine := s.teams.filter fun tm => tm.asid == l.asid && tm.role != .handler
  l.state == .live && mine.any (fun tm => tm.launch == l.num) && mine.all fun tm => tm.state == .saved

/-- R183, R354: a page that reclaim may take: a 64 KiB leaf of a region of the launch's address space that teams may reach, which
firmware does not use itself, with nothing under way (DESIGN CHOICE 80). -/
def mayReclaim (s : State) (l : Launch) (page : Nat) : Option (Region × Leaf × BitVec 128) := do
  let r ← regionOf s l.asid page
  let (leaf, e) ← pageLeaf s l.asid page
  let counter := s.front.launches.any fun x => x.asid == l.asid && x.completion / 65536 == page
  if launchStopped s l && r.perms != 0 && leaf.units == 1 && !leaf.cow && !counter && rangeQuiet s ⟨false, l.asid, page, page + 1⟩ then
    some (r, leaf, e)
  else none

/-- The tags of a frame's 4,096 granules. -/
def frameTags (s : State) (pa : Nat) : List Nat := (List.range 4096).filter fun i => tagAt s.mem (pa + 16 * i)

/-- R354: SWAP: the five steps: the page is written to a drive, its leaf made invalid with the place recorded, its translation dropped,
its frame freed, and its GCM tag kept. Preder's blocks are those from 2^47 on, in turn (DESIGN CHOICE 80). A poisoned page stays. -/
def swapOut (s : State) (l : Launch) (page : Nat) : State :=
  match mayReclaim s l page, s.eng.drives with
  | some (_, leaf, e), drive :: _ =>
    let slot := swapSlot s l.world leaf
    let key := keySlot s slot
    let (read, bytes, poison) := readPhys s leaf.key leaf.pa 65536
    if key.state != 1 || key.use != 0 || poison.isSome then s
    else
      let s := read
      let block := 2 ^ 47 + 16 * s.front.nextSwap
      let tags := frameTags s leaf.pa
      let p : DrivePage :=
        { drive := drive, block := block, data := sputs [] 0 bytes, tags := tags, slot := slot, gen := key.gen, counter := key.writes
          gcm := gcmTag key.key (storageNonce drive block key.writes) (bytes ++ tagBytes tags) }
      let s := dropRange (writeEntry s leaf.at' (swappedPte e slot drive block)) ⟨false, l.asid, page, page + 1⟩
      { s with eng := { s.eng with drivePages := s.eng.drivePages ++ [p] }
               trust := { s.trust with keys := sput noKey s.trust.keys slot { key with writes := key.writes + 1 } }
               front := { s.front with freeFrames := s.front.freeFrames ++ [leaf.pa], nextSwap := s.front.nextSwap + 1
                                       swaps := s.front.swaps ++ [⟨l.asid, page, drive, block, e, p.gcm⟩] } }
  | _, _ => s

/-- The bytes, tags and poison of one frame copied to another. In the encrypted tiers each line read is verified (R322). -/
def copyFrame (s : State) (from' to' readSlot slot : Nat) : State :=
  let s := (readPhys s readSlot from' 65536).1
  let s := zeroFrame s to' slot
  let m := s.mem
  let inside := fun (a : Nat) => decide (from' ≤ a) && decide (a < from' + 65536)
  let cells := (m.cells.filter fun c => inside c.1).foldl (fun l c => cellPut l (c.1 - from' + to') c.2) m.cells
  let tags := (m.tags.filter fun g => inside (16 * g)).foldl (fun l g => nins (g - from' / 16 + to' / 16) l) m.tags
  let poison := (m.poison.filter fun x => inside (64 * x.1)).foldl (fun l x => sput none l (x.1 - from' / 64 + to' / 64) x.2) m.poison
  { s with mem := { m with cells := cells, tags := tags, poison := poison } }

/-- R183, R351: reclaim moves a page to another frame of its tier, and frees the frame that it had. -/
def compact (s : State) (l : Launch) (page : Nat) : State :=
  match mayReclaim s l page with
  | none => s
  | some (r, leaf, e) => match allocFrame s leaf.tier r.world.toNat with
    | none => s
    | some (f, s) =>
      let s := copyFrame s leaf.pa f leaf.key leaf.key
      let new := e.extractLsb' 64 64 ++ BitVec.ofNat 52 f ++ e.extractLsb' 0 12
      let s := dropRange (writeEntry s leaf.at' new) ⟨false, l.asid, page, page + 1⟩
      { s with front := { s.front with freeFrames := s.front.freeFrames ++ [leaf.pa] } }

/-- R103, R182, R354: a swapped-out page is read from its drive, verified against Preder's GCM tag, swept, and mapped again with what
its leaf held. None where it does not verify, or no frame is left. -/
def swapIn (s : State) (r : Region) (x : SwapEntry) : Option State := do
  let p ← s.eng.drivePages.find? fun p => p.drive == x.drive && p.block == x.block
  let key := keySlot s p.slot
  if !(p.gen == key.gen && key.state == 1 && p.gcm == x.gcm) then none
  else
    let slot := pteBits x.leaf 112 16
    let (f, s) ← allocFrame s r.tier.toNat r.world.toNat
    let s := zeroFrame s f slot
    let s := writePhys s none slot f (sbytes p.data 0 65536) none
    let s := p.tags.foldl (fun s g =>
      let c := capOfBytes (sbytes p.data (16 * g) 16) true
      if staleCap s x.asid c then s else { s with mem := setTag s.mem (f / 16 + g) true }) s
    let (at', s) ← pagePlace s x.asid x.page
    let version := (readEntry s at').extractLsb' 104 8
    let e := x.leaf.extractLsb' 112 16 ++ version ++ x.leaf.extractLsb' 64 40 ++ BitVec.ofNat 52 f ++ x.leaf.extractLsb' 0 12
    let s := writeEntry s at' e
    some { s with
      eng := { s.eng with drivePages := s.eng.drivePages.filter fun y => !(y.drive == x.drive && y.block == x.block) }
      front := { s.front with swaps := s.front.swaps.filter fun y => !(y.asid == x.asid && y.page == x.page) } }

/-- Pages of a launch that reclaim may take now: one, whichever it may be. -/
def reclaimPage (s : State) (l : Launch) : Nat :=
  let rs := s.front.regions.filter fun r => r.asid == l.asid && r.perms != 0
  match rs[Config.pick s.run.tick 0x90B % max 1 rs.length]? with
  | some r => r.base / 65536 + Config.pick s.run.tick 0x90C % max 1 (r.length / 65536)
  | none => 0

end Sys2Proof.Machine
end

