-- ==== Sys2Proof/Machine/Teams.lean ====
section
/-! DEFINITION. Teams: placement and start (R26, R187, R200, R255, R261, R345, R346), pre-emption, save and resume (R205,
R263, R348 to R352), completion (R317, R343), links (R259, R260), compensation teams (R368 to R374) and the auditor (R280
to R282). -/

namespace Sys2Proof.Machine

/-! ### Room on a core (R187, R345) -/

/-- The teams that hold resources of a core. -/
def coreTeams (s : State) (core : Nat) : List Team := s.teams.filter fun tm => tm.place == some core && tm.state != .ended

/-- A range lies within a limit and meets none of the used ones. -/
def rangeFree (used : List (Nat × Nat)) (at' size limit : Nat) : Bool :=
  decide (at' + size ≤ limit) && used.all fun u => size == 0 || u.2 == 0 || decide (at' + size ≤ u.1) || decide (u.1 + u.2 ≤ at')

/-- A place for a range: the first of 0 and the ends of the used ranges that is free. -/
def findHole (used : List (Nat × Nat)) (size limit : Nat) : Option Nat :=
  (0 :: used.map fun u => u.1 + u.2).find? fun a => rangeFree used a size limit

/-- R187: a team's activation allocation in 64-byte units. -/
def actUnits (tm : Team) : Nat := actBytes tm / 64

/-- The ranges that the teams of a core use: tiles, accumulator tiles, activation and weight units. -/
def usedTiles (s : State) (core : Nat) : List (Nat × Nat) := (coreTeams s core).map fun tm => (tm.tilesAt, tm.desc.tiles)
def usedAccs (s : State) (core : Nat) : List (Nat × Nat) := (coreTeams s core).map fun tm => (tm.accsAt, tm.desc.accs)
def usedAct (s : State) (core : Nat) : List (Nat × Nat) := (coreTeams s core).map fun tm => (tm.actAt, actUnits tm)
def usedWgt (s : State) (core : Nat) : List (Nat × Nat) := (coreTeams s core).map fun tm => (tm.wgtAt, tm.desc.wgt / 64)

/-- The slots that a mask names. -/
def slotsOf (m : BitVec 16) : List Nat := (List.range 16).filter fun i => m.getLsbD i

/-- Strand slots that a team needs: its home strands when it starts, all its strands when it resumes. -/
def slotNeed (s : State) (tm : Team) : Nat :=
  if tm.state = .created then tm.desc.strands else (s.strands.filter fun x => x.tid == tm.tid).length

/-- R345: the core that a record names, where it is enabled. -/
def recordCore (s : State) (r : BindRecord) : Option Nat :=
  if r.core < 4 then logicalOf s r.die (4 * r.cluster + r.core) else none

/-- R345: what a record names is free on an enabled core of the team's world. -/
def bindFits (s : State) (tm : Team) (r : BindRecord) : Option Nat :=
  match recordCore s r with
  | none => none
  | some core =>
    let slots := slotsOf r.slots
    if coreServes s tm.world.toNat core && slots.length == slotNeed s tm && (slots.all fun i => !(coreSlots s core).contains i) &&
        rangeFree (usedTiles s core) r.tiles tm.desc.tiles 64 && rangeFree (usedAccs s core) r.accs tm.desc.accs 64 &&
        rangeFree (usedAct s core) r.act (actUnits tm) 3072 && rangeFree (usedWgt s core) r.wgt (tm.desc.wgt / 64) 4096
    then some core else none

/-- The record by which Krahal places or resumes a team on a core that has room for it. -/
def roomRecord (s : State) (tm : Team) (op core : Nat) : Option BindRecord := do
  let slots := ((List.range 16).filter fun i => !(coreSlots s core).contains i).take (slotNeed s tm)
  let tiles ← findHole (usedTiles s core) tm.desc.tiles 64
  let accs ← findHole (usedAccs s core) tm.desc.accs 64
  let act ← findHole (usedAct s core) (actUnits tm) 3072
  let wgt ← findHole (usedWgt s core) (tm.desc.wgt / 64) 4096
  let r : BindRecord :=
    { op := op, die := dieOf core, cluster := (clusterOf s core).cluster, core := physCore s core % 4
      slots := slots.foldl (fun m i => m ||| (1#16 <<< i)) 0, launch := tm.launch, x := tm.key.x, y := tm.key.y, z := tm.key.z
      stage := tm.key.stage, kind := tm.key.kind, tiles := tiles, accs := accs, act := act, wgt := wgt }
  if (bindFits s tm r).isSome then some r else none

/-- The record of an op that names a placed team. -/
def teamRecord (s : State) (tm : Team) (op : Nat) : BindRecord :=
  let core := tm.place.getD 0
  { op := op, die := dieOf core, cluster := (clusterOf s core).cluster, core := physCore s core % 4, slots := 0, launch := tm.launch
    x := tm.key.x, y := tm.key.y, z := tm.key.z, stage := tm.key.stage, kind := tm.key.kind, tiles := tm.tilesAt, accs := tm.accsAt
    act := tm.actAt, wgt := tm.wgtAt }

/-- The team in a state that a record names. -/
def bindTeam (s : State) (r : BindRecord) (st : TeamState) : Option Team :=
  s.teams.find? fun tm => tm.state == st && tm.launch == r.launch && tm.role != .handler &&
    tm.key == { kind := r.kind, x := r.x, y := r.y, z := r.z, stage := r.stage }

/-! ### Start (R26, R50, R52, R166, R187, R200, R255, R368) -/

/-- The frame that a compensation team runs. -/
def compFrame (s : State) (tm : Team) : Option (SeamEntry × SeamFrame) :=
  match tm.role with
  | .compensation i g q _ => do
    let a ← s.seams.entries.find? fun a => a.index == i && a.gen.toNat == g
    let f ← a.frames.find? fun f => f.seq == q
    some (a, f)
  | _ => none

/-- R26, R368: the capabilities that a team starts with, from number 1 on. -/
def startCaps (s : State) (tm : Team) : List Cap :=
  match compFrame s tm with
  | some (_, f) => [f.arg]
  | none => match launchOf s tm.launch with
    | some l => l.caps.map Minted.cap
    | none => []

/-- Capabilities put at registers 1, 2, and so on, below a limit. -/
def placeCaps (limit : Nat) : Nat → List Cap → Sparse Cap → Sparse Cap
  | _, [], m => m
  | i, c :: cs, m => placeCaps limit (i + 1) cs (if i < limit then sput nullCap m i c else m)

/-- R368: s1 of a compensation strand: bit 63 for a pending frame, and the step number. -/
def frameWord (f : SeamFrame) : DWord := BitVec.ofNat 64 ((if f.pend then 2 ^ 63 else 0) + f.step)

/-- R52: a strand as it starts, with one path of `mask` at the address of its code capability. -/
def startStrand (sid tid num core slot : Nat) (kind : StrandKind) (mask : BitVec 32) (code : Cap) (k : Sparse Cap) : Strand :=
  { sid := sid, tid := tid, kind := kind, num := num, core := core, cslot := slot, s := [], k := k
    paths := [{ pid := 0, mask := mask, pc := BitVec.ofNat 64 code.addr, parent := none, rep := 0, repWord := 0, state := .ready
                code := code, solo := false, marks := 0, fromBrp := none, fence := none, marked := false, probe := [] }]
    cur := 0, nextPid := 1, frames := [], rb := [], nextRb := 0, implicit := 0, absence := 0, srseed := 0, qtile := [], mstat := 0
    seam := 0, arrival := none, gates := [], partials := [], records := [], commit := none, parked := [], rootJoin := none
    stop := .running, passed := 0, readySince := none, stepping := none, handlerCause := 0, handlerClass := 0 }

/-- R50: a thread as it starts. Its start is an acquire (R317). -/
def startThread (tick tid rank sid slot : Nat) (c : Sparse Cap) (subject : Option Nat) : Thread :=
  { tid := tid, rank := rank, v := [], p := 0, c := c, fpcsr := 0, gen := reseed rank 0, rep := 0, repWord := 0, status := .present
    sid := sid, slot := slot, straggling := false, homeFrame := none, subject := subject, leftCode := nullCap
    retriedAt := [], acq := tick, acqEv := 0, seen := [] }

/-- R261, R263: a team keeps its name in a cluster: it is placed there, or saved and bound to it because its set is resuming
there. -/
def namedIn (s : State) (p : Place) (tm : Team) : Bool :=
  match tm.state with
  | .ended => false
  | .saved => tm.bound == some (p.die, p.cluster)
  | _ => (tm.place.map (clusterOf s)) == some p

/-- R261: the lowest name that is free among the launch's teams in a cluster. -/
def freeName (s : State) (launch : Nat) (p : Place) : Option Nat :=
  let used := (s.teams.filter fun tm => tm.launch == launch && namedIn s p tm).filterMap (·.name)
  (List.range 16).find? fun n => !used.contains n

/-! ### Cluster barrier words (R258, R266) -/

/-- The words that a cluster holds: those that a team placed there, other than those of `but`, has installed. -/
def heldWords (s : State) (p : Place) (but : List Nat) : List ClusterWord :=
  s.plant.clusterWords.filter fun w => s.teams.any fun tm =>
    !but.contains tm.tid && (tm.place.map (clusterOf s)) == some p && tm.handles.any fun h => h.2 == w.id

/-- R266: Preder installs one handle of a launch's record for a team: the launch's word in the cluster, or a new one with
arrived 0, phase 0 and the record's expected count. With all 256 words held it installs none. -/
def installHandle (p : Place) (num : Nat) (x : State × List (Nat × Nat)) (b : Nat × Nat) : State × List (Nat × Nat) :=
  let (s, hs) := x
  if b.1 < 64 || 4096 ≤ b.1 || (hs.any fun h => h.1 == b.1) then x
  else match (heldWords s p []).find? fun w => w.launch == num && w.handle == b.1 with
    | some w => (s, hs ++ [(b.1, w.id)])
    | none =>
      if Config.clusterWords ≤ (heldWords s p []).length then x
      else
        let id := (s.plant.clusterWords.map (·.id + 1)).foldl max 0
        let w : ClusterWord :=
          { id := id, handle := b.1, die := p.die, cluster := p.cluster, launch := num, word := BitVec.ofNat 64 (b.2 % 65536) }
        ({ s with plant := { s.plant with clusterWords := s.plant.clusterWords ++ [w] } }, hs ++ [(b.1, id)])

/-- R266: the handles of a team that takes a name in a cluster. -/
def installHandles (s : State) (p : Place) (num : Nat) : State × List (Nat × Nat) :=
  match launchOf s num with
  | some l => l.barriers.foldl (installHandle p num) (s, [])
  | none => (s, [])

/-- R263: the words that teams have installed may be installed in a cluster beside those that it holds: there is room, and it
holds no other word of the same launch and handle. -/
def wordsFit (s : State) (tms : List Team) (p : Place) : Bool :=
  let ids := tms.flatMap fun tm => tm.handles.map (·.2)
  let mine := s.plant.clusterWords.filter fun w => ids.contains w.id
  let held := heldWords s p (tms.map (·.tid))
  decide (mine.length + (held.filter fun w => !ids.contains w.id).length ≤ Config.clusterWords) &&
    mine.all fun w => !(held.any fun x => x.id != w.id && x.launch == w.launch && x.handle == w.handle)

/-- R266: the words of a set move with it. -/
def moveWords (s : State) (tms : List Team) (p : Place) : State :=
  let ids := tms.flatMap fun tm => tm.handles.map (·.2)
  { s with plant := { s.plant with
      clusterWords := mapIf (fun w => ids.contains w.id) (fun w => { w with die := p.die, cluster := p.cluster }) s.plant.clusterWords } }

/-- R266: the words that no team has installed any more are free. -/
def freeWords (s : State) : State :=
  { s with plant := { s.plant with
      clusterWords := s.plant.clusterWords.filter fun w => s.teams.any fun tm => tm.handles.any fun h => h.2 == w.id } }

/-- R105, R182: a team's thread-local slices, mapped to zeroed pages. -/
def giveSlices (s : State) (tm : Team) : State × Nat :=
  let size := 32 * tm.desc.strands * tm.desc.tls
  if size == 0 then (s, 0)
  else
    match mappedRegion s tm.asid tm.world size 65536 3 0 with
    | some (r, s) => (s, r.base)
    | none =>
      let (r, s) := newRegion s tm.asid tm.world size 65536 3 0
      (s, r.base)

/-- R187, R197, R200: a team starts on a core with what its record names. Its start takes a checkpoint. -/
def startTeam (s : State) (tm : Team) (core : Nat) (r : BindRecord) : State :=
  let (s, tls) := giveSlices s tm
  let caps := startCaps s tm
  let comp := compFrame s tm
  let slots := slotsOf r.slots
  let name := freeName s tm.launch (clusterOf s core)
  let (s, handles) := if name.isSome then installHandles s (clusterOf s core) tm.launch else (s, [])
  let strand := fun (h : Nat) =>
    let st := startStrand (s.run.nextSid + h) tm.tid h core ((slots[h]?).getD 0) .home 0xFFFFFFFF tm.code (placeCaps 16 1 caps [])
    let st := { st with absence := tm.desc.absence }
    match comp with
    | some (a, f) => { st with s := sput 0 [] 1 (frameWord f), seam := a.handle }
    | none => st
  let thread := fun (i : Nat) =>
    startThread s.run.tick tm.tid i (s.run.nextSid + i / 32) (i % 32) (placeCaps tm.desc.caps 1 caps []) none
  let s := { s with strands := s.strands ++ (List.range tm.desc.strands).map strand
                    threads := s.threads ++ (List.range (32 * tm.desc.strands)).map thread
                    run := { s.run with nextSid := s.run.nextSid + tm.desc.strands, nextOrder := s.run.nextOrder + 1 } }
  let s := updTeam s tm.tid fun t =>
    { t with state := .running, place := some core, lastPlace := some core, name := name, handles := handles
             order := s.run.nextOrder, homes := t.desc.strands
             tilesAt := r.tiles, accsAt := r.accs, actAt := r.act, wgtAt := r.wgt, tlsBase := tls
             act := sputs [] 0 (bytesOfNat 8 t.desc.strands) }
  takeCheckpoint s tm.tid

/-- R342, R376: a created team may be placed: its dependency holds. -/
def teamReady (s : State) (tm : Team) : Bool :=
  tm.role.compensates || match launchOf s tm.launch with
    | some l => stageReady l tm.key
    | none => false

/-- R335: while a debug unlock runs no team is placed. R345: a place record is carried out, or refused. -/
def carryPlace (s : State) (r : BindRecord) : Option State := do
  let tm ← bindTeam s r .created
  if s.trust.unlocking || !teamReady s tm then none
  else
    let core ← bindFits s tm r
    some (startTeam s tm core r)

/-! ### Stops (R263, R346, R348) -/

/-- R254: every path of a strand is parked in a wait. -/
def allWaiting (st : Strand) : Bool :=
  !st.paths.isEmpty && st.paths.all fun p => match p.state with
    | .waiting _ _ => true
    | _ => false

/-- R348, R374: a stop request reaches a strand. -/
def askStop (now : Nat) (st : Strand) : Strand :=
  if st.stop != .running then st
  else if allWaiting st && st.commit.isNone && st.stepping.isNone then { st with stop := .stopped }
  else { st with stop := .requested now }

/-- R263, R346: the teams that are stopped with a team: its peer set, or all of a cohort launch's. -/
def stopSet (s : State) (tm : Team) : List Nat :=
  let cohort := ((launchOf s tm.launch).map (·.cohort)).getD false && !tm.role.compensates
  let here := tm.place.map (clusterOf s)
  (s.teams.filter fun x => x.launch == tm.launch && x.state == .running && x.role != .handler &&
    (x.tid == tm.tid || (cohort && !x.role.compensates) ||
      (tm.name.isSome && x.name.isSome && (x.place.map (clusterOf s)) == here))).map (·.tid)

/-- R263: the number of a team's set while a member of it is still saved. -/
def openSet (s : State) (tm : Team) : Option Nat :=
  if tm.peerSet.isSome && s.teams.any fun x => x.peerSet == tm.peerSet && x.state == .saved then tm.peerSet else none

/-- R346, R348: PREEMPT_REQUEST. Handler strands are never stopped. A set that has not resumed whole stays the same set, with
its saved members now of the cluster to which they were bound. -/
def stepPreempt (s : State) (tid : Nat) : State :=
  match teamOf s tid with
  | none => s
  | some tm =>
    if tm.state != .running || tm.role = .handler then s
    else
      let set := stopSet s tm
      let now := s.run.clock.toNat
      let k := (firstSome (openSet s) (s.teams.filter fun x => set.contains x.tid)).getD s.run.nextOrder
      let near := fun (x : Team) => x.state == .saved && x.peerSet == some k && x.bound.isSome
      let join := fun (x : Team) =>
        match s.teams.find? fun y => set.contains y.tid && (y.place.map (clusterOf s)) == x.bound.map fun b => ⟨b.1, b.2⟩ with
        | some y => { x with lastPlace := y.place, bound := none }
        | none => x
      let s := { s with
        teams := mapIf near join (mapIf (fun x => set.contains x.tid)
          (fun x => { x with state := .stopping, peerSet := some k, bound := none }) s.teams)
        strands := mapIf (fun st => set.contains st.tid) (askStop now) s.strands }
      { s with run := { s.run with nextOrder := s.run.nextOrder + 1 } }

/-- R348: 30,000 cycles have passed since a strand was asked to stop: it issues no further instruction. -/
def stopLate (s : State) (st : Strand) : Bool :=
  match st.stop with
  | .requested since => decide (since + Config.stopLimit ≤ s.run.clock.toNat)
  | _ => false

/-- R348, R374: a strand that has been asked to stop may stop where it stands: its paths all wait, or 30,000 cycles have
passed. -/
def stopDue (s : State) (st : Strand) : Bool :=
  match st.stop with
  | .requested _ => st.commit.isNone && st.stepping.isNone && (allWaiting st || stopLate s st)
  | _ => false

/-- R43, R348: PREEMPT_TIMEOUT: the strand takes an implicit marker where RB holds results, and stops. -/
def stepPreemptTimeout (s : State) (sid : Nat) : State :=
  match strandOf s sid with
  | none => s
  | some st =>
    if !stopDue s st then s
    else if st.rb.isEmpty then updStrand s sid fun x => { x with stop := .stopped }
    else updStrand s sid fun x => { x with commit := some (.implicit false) }

/-! ### Save and resume (R205, R349, R350, R352) -/

/-- R172: an absence clock with what remains of it at `now`. -/
def AbsClock.hold (now : Nat) (c : AbsClock) : AbsClock :=
  if c.len == 0 then { c with start := now } else ⟨now, max 1 (c.start + c.len - now)⟩

/-- The absence clocks of a strand with `f` applied. -/
def Strand.clocks (f : AbsClock → AbsClock) (st : Strand) : Strand :=
  { st with frames := st.frames.map fun x => (x.1, { x.2 with clock := x.2.clock.map f })
            rootJoin := st.rootJoin.map fun j => { j with clock := j.clock.map f } }

/-- R205, R265, R348: the team is stopped and may be saved: its strands and those of its set have stopped, its stream commands
and the copies of its set are performed and its checkpoint can be taken. -/
def saveReady (s : State) (tm : Team) : Bool :=
  let set := (s.teams.filter fun x => x.tid == tm.tid || (tm.peerSet.isSome && x.peerSet == tm.peerSet)).map (·.tid)
  tm.state == .stopping && tm.rolling.isNone && ((s.strands.filter fun x => set.contains x.tid).all fun x => x.stop == .stopped) &&
    !(s.eng.cmds.any fun c => ((c.queue == 0 && set.contains c.tid) || (c.queue == 2 && c.tid == tm.tid)) && cmdPending s c) &&
    checkpointReady s tm.tid

/-- R205, R352: TEAM_SAVE: the checkpoint, then the save. What reaches the image while the team is saved (R349) is applied to the
team's record, from which it resumes; the bytes in the area are those of the save (DESIGN CHOICE 30). While no frame is left for the
area the team waits. -/
def stepTeamSave (s : State) (tid : Nat) : State :=
  match teamOf s tid with
  | none => s
  | some tm =>
    if !saveReady s tm then s
    else
      let now := s.run.clock.toNat
      let held := { s with strands := mapIf (fun st => st.tid == tid) (Strand.clocks (AbsClock.hold now)) s.strands }
      let saved := updTeam (takeCheckpoint held tid) tid fun t => { t with state := .saved }
      match (teamOf saved tid).bind (writeArea saved) with
      | some s => s
      | none => s

/-- R345: a release record frees what a saved team holds of its core. -/
def carryRelease (s : State) (r : BindRecord) : Option State :=
  (s.teams.find? fun tm => tm.place.isSome && isSaved r tm).map fun tm =>
    updTeam s tm.tid fun t => { t with place := none, lastPlace := t.place }
where
  /-- The saved team that a record names. -/
  isSaved (r : BindRecord) (tm : Team) : Bool :=
    tm.state == .saved && tm.launch == r.launch && tm.key == { kind := r.kind, x := r.x, y := r.y, z := r.z, stage := r.stage }

/-- R263: the named teams that were stopped with a team in its cluster, still saved. -/
def savedSet (s : State) (tm : Team) : List Team :=
  if tm.name.isNone then [tm]
  else s.teams.filter fun x => x.state == .saved && x.peerSet == tm.peerSet && x.launch == tm.launch && x.name.isSome &&
    (x.lastPlace.map (clusterOf s)) == tm.lastPlace.map (clusterOf s)

/-- R263: every name of the team's set is free in a cluster. -/
def namesFree (s : State) (tm : Team) (p : Place) : Bool :=
  (savedSet s tm).all fun x => !(s.teams.any fun y => y.launch == x.launch && y.peerSet != x.peerSet &&
    y.name.isSome && y.name == x.name && namedIn s p y)

/-- R350: the strands of a resumed team take their slots of the new core. -/
def reseat (core : Nat) (now : Nat) : List Nat → List Strand → List Strand
  | i :: is, st :: sts =>
    { (Strand.clocks (fun c => { c with start := now }) st) with core := core, cslot := i, stop := .running } :: reseat core now is sts
  | _, sts => sts

/-- R203, R350: the strands of the checkpoint stand where the team's strands stand now. -/
def moveShadow (sts : List Strand) (sh : Shadow) : Shadow :=
  { sh with strands := sh.strands.map fun x => match sts.find? fun y => y.sid == x.sid with
      | some y => { x with core := y.core, cslot := y.cslot, stop := y.stop }
      | none => x }

/-- R263: a team may resume in a cluster: its set is bound to no other one, and its names and barrier words fit there. -/
def mayResumeIn (s : State) (tm : Team) (p : Place) : Bool :=
  (tm.bound.isNone || tm.bound == some (p.die, p.cluster)) &&
    (tm.name.isNone || (namesFree s tm p && wordsFit s (savedSet s tm) p))

/-- R263, R266, R335, R350: a resume record is carried out, or refused. The team's set is bound to the cluster that its first
member resumes in, and its barrier words move there. -/
def carryResume (s : State) (r : BindRecord) : Option State := do
  let tm ← s.teams.find? fun tm => tm.place.isNone && carryRelease.isSaved r tm
  let core ← bindFits s tm r
  let p := clusterOf s core
  if s.trust.unlocking || !mayResumeIn s tm p then none
  else
    let set := savedSet s tm
    let s := if tm.name.isSome then
        let s := moveWords s set p
        let bind := fun (x : Team) => { x with bound := some (p.die, p.cluster) }
        { s with teams := mapIf (fun x => set.any fun y => y.tid == x.tid) bind s.teams }
      else s
    let mine := reseat core s.run.clock.toNat (slotsOf r.slots) (s.strands.filter fun x => x.tid == tm.tid)
    let s := { s with strands := (s.strands.filter fun x => x.tid != tm.tid) ++ mine
                      run := { s.run with nextOrder := s.run.nextOrder + 1 } }
    some (updTeam (freeArea s tm) tm.tid fun t =>
      { t with state := .running, place := some core, lastPlace := some core, bound := none, placegen := t.placegen + 1
               tilesAt := r.tiles, accsAt := r.accs, actAt := r.act, wgtAt := r.wgt, order := s.run.nextOrder
               shadow := t.shadow.map (moveShadow mine) })

/-- R263, R346: no team that was stopped with this one is still saved. -/
def setWhole (s : State) (tm : Team) : Bool := tm.state != .running || (openSet s tm).isNone

/-! ### Links (R259, R260) -/

/-- A direction of a leaf controller's link. -/
def linkDir (s : State) (die cluster : Nat) (toHead : Bool) : LinkDir :=
  (s.plant.linkDirs.find? fun d => d.die == die && d.cluster == cluster && d.toHead == toHead).getD
    { die := die, cluster := cluster, toHead := toHead, permits := 16, held := [], flight := 0 }

/-- The state with a link direction replaced. -/
def putLink (s : State) (d : LinkDir) : State :=
  let rest := s.plant.linkDirs.filter fun x => !(x.die == d.die && x.cluster == d.cluster && x.toHead == d.toHead)
  { s with plant := { s.plant with linkDirs := rest ++ [d] } }

/-- A message takes a permit, or waits in order for one; the flag says whether it was sent. -/
def sendMessage (s : State) (die cluster : Nat) (toHead : Bool) (m : LinkMsg) : State × Bool :=
  let d := linkDir s die cluster toHead
  if d.permits == 0 then (putLink s { d with held := d.held ++ [m] }, false)
  else (putLink s { d with permits := d.permits - 1, flight := d.flight + 1 }, true)

/-- Krahal learns of something. -/
def addReport (s : State) (x : Report) : State := { s with front := { s.front with reports := s.front.reports ++ [x] } }

/-- R268, R345: what the head controller does with a message: a refusal and an error are reported to Krahal. -/
def hearMessage (s : State) : LinkMsg → State
  | .ack r false => addReport s (.refused r)
  | .fault die index => addReport s (.error die index)
  | _ => s

/-- R259: the leaf controller tells the head controller. -/
def tellHead (s : State) (die cluster : Nat) (m : LinkMsg) : State :=
  match sendMessage s die cluster true m with
  | (s, true) => hearMessage s m
  | (s, false) => s

/-- R345: the state after a bind record, where it is carried out. An op that is none of the four is refused. -/
def carried (s : State) (r : BindRecord) : Option State :=
  match r.op with
  | 1 => carryPlace s r
  | 2 => (bindTeam s r .running).map fun tm => stepPreempt s tm.tid
  | 3 => carryResume s r
  | 4 => carryRelease s r
  | _ => none

/-- R260, R345: a bind record as the leaf controller takes it, and its acknowledgement. A refused one changes nothing else. -/
def carryRecord (s : State) (r : BindRecord) : State :=
  tellHead ((carried s r).getD s) r.die r.cluster (.ack r (carried s r).isSome)

/-- R259: a bind record is written into a slot table over the link. -/
def sendBind (s : State) (r : BindRecord) : State :=
  match sendMessage s r.die r.cluster false (.record r) with
  | (s, true) => carryRecord s r
  | (s, false) => s

/-- R259: LINK_PERMIT_RETURN: the receiver has consumed a message, and the first that waits is sent. -/
def stepPermitReturn (s : State) (die cluster : Nat) (toHead : Bool) : State :=
  let d := linkDir s die cluster toHead
  if d.flight == 0 then s
  else match d.held with
    | [] => putLink s { d with flight := d.flight - 1, permits := d.permits + 1 }
    | m :: rest =>
      let s := putLink s { d with held := rest }
      match m with
      | .record r => carryRecord s r
      | m => hearMessage s m

/-! ### Krahal's policy (R346) -/

/-- The priority of a team: its launch's. -/
def teamPriority (s : State) (tm : Team) : Nat := ((launchOf s tm.launch).map (·.priority)).getD 0

/-- A team waits for Krahal to place or to resume it. -/
def awaitsCore (s : State) (tm : Team) : Bool :=
  tm.role != .handler && ((tm.state == .created && teamReady s tm) || (tm.state == .saved && tm.place.isNone))

/-- R346: another waiting team of the world comes first: of higher priority, or of a launch that started earlier. -/
def comesFirst (s : State) (tm : Team) : Bool :=
  s.teams.any fun x => awaitsCore s x && x.world == tm.world && x.tid != tm.tid &&
    (decide (teamPriority s tm < teamPriority s x) || (teamPriority s tm == teamPriority s x && decide (x.launch < tm.launch)))

/-- The records by which a waiting team may be placed or resumed now. -/
def placements (s : State) (tm : Team) : List BindRecord :=
  let op := if tm.state == .created then 1 else 3
  (allCores.filter (coreServes s tm.world.toNat)).filterMap fun core =>
    let p := clusterOf s core
    if op == 3 && !mayResumeIn s tm p then none else roomRecord s tm op core

/-- R263, R346: records by which every one of some teams is placed or resumed, one after the other, where there are such. -/
def planAll : List Nat → State → Option (List BindRecord)
  | [], _ => some []
  | tid :: rest, s =>
    match teamOf s tid with
    | none => none
    | some tm => firstSome (fun r => ((carried s r).bind (planAll rest)).map (r :: ·)) (placements s tm)

/-- R263, R346: the teams that are resumed with a saved one: those that were stopped with it and are still saved. -/
def resumeSet (s : State) (tm : Team) : List Nat :=
  (s.teams.filter fun x => x.tid != tm.tid && tm.peerSet.isSome && x.peerSet == tm.peerSet && x.state == .saved).map (·.tid)

/-- What Krahal may do for a waiting team: a record for it, and those of the teams that are resumed with it. -/
def choices (s : State) (tm : Team) : List (List BindRecord) :=
  (placements s tm).filterMap fun r =>
    if tm.state == .created then some [r] else ((carried s r).bind (planAll (resumeSet s tm))).map (r :: ·)

/-- R346: the team that is pre-empted for a waiting one: of strictly lower priority, the lowest first, then the one placed
last. -/
def victim (s : State) (tm : Team) : Option Team :=
  let below := s.teams.filter fun x => x.world == tm.world && x.state == .running && x.role != .handler &&
    decide (teamPriority s x < teamPriority s tm)
  below.foldl (fun (b : Option Team) x => match b with
    | none => some x
    | some y =>
      if teamPriority s x < teamPriority s y || (teamPriority s x == teamPriority s y && y.order < x.order) then some x else some y) none

/-- Krahal acts for a waiting team: records for it and its set, or a stop for one that it may displace while none is stopping. -/
def stepKrahal (s : State) (tid : Nat) : State :=
  match teamOf s tid with
  | none => s
  | some tm =>
    if !awaitsCore s tm || comesFirst s tm || s.trust.unlocking then s
    else
      let rs := choices s tm
      match rs[Config.pick s.run.tick 0x900 % max 1 rs.length]? with
      | some plan => plan.foldl sendBind s
      | none =>
        if s.teams.any fun x => x.world == tm.world && (x.state == .stopping || (x.state == .saved && x.place.isSome)) then s
        else match victim s tm with
          | some x => sendBind s (teamRecord s x 2)
          | none => s

/-- Krahal would change something for a waiting team. -/
def krahalReady (s : State) (tm : Team) : Bool :=
  awaitsCore s tm && !comesFirst s tm && !s.trust.unlocking &&
    (!(choices s tm).isEmpty ||
      (!(s.teams.any fun x => x.world == tm.world && (x.state == .stopping || (x.state == .saved && x.place.isSome))) &&
        (victim s tm).isSome))

/-- Krahal releases a saved team's core. -/
def stepRelease (s : State) (tid : Nat) : State :=
  match teamOf s tid with
  | some tm => if tm.state == .saved && tm.place.isSome then sendBind s (teamRecord s tm 4) else s
  | none => s

/-! ### Start of a launch (R65, R338, R342) -/

/-- R187, R338: a world has a core that a team could be placed on if the core were empty. -/
def emptyCoreFor (s : State) (world : Nat) : Bool := allCores.any (coreServes s world)

/-- The teams of a cohort are created. -/
def createField (num : Nat) (keys : List TeamKey) (s : State) : State :=
  keys.foldl (fun s key => match launchOf s num with
    | some l => createTeam s l key
    | none => s) s

/-- R65, R346: the teams of a cohort are created, and bind records place them; none where they do not all find room. -/
def placeCohort (num : Nat) (keys : List TeamKey) (s : State) : Option State :=
  let s := createField num keys s
  (planAll ((s.teams.filter fun tm => tm.launch == num).map (·.tid)) s).map fun plan => plan.foldl sendBind s

/-- R338: RING_START. During a debug unlock the entry waits (R335). -/
def stepRingStart (s : State) (vf : Nat) : State :=
  match (if s.trust.unlocking then none else entryOfOp s vf 2) with
  | none => s
  | some e =>
    match s.front.images.find? fun i => i.handle == e.handle && i.vf == vf with
    | none => completeEntry s vf 0x0104 0
    | some img =>
      match img.launches[e.index]? with
      | none => completeEntry s vf 0x0104 0
      | some decl =>
        if !emptyCoreFor s decl.world.toNat then completeEntry s vf 0x0201 0
        else
          let num := s.run.nextHandle
          let l : Launch :=
            { decl with num := num, began := s.run.nextEv, seed := some (if decl.cohort then decl.size else 0), state := .live
                        pmap := (List.range 8).foldl (fun m d => sput 0 m d (partitionView s decl.world.toNat d)) [] }
          let s1 := { s with front := { s.front with launches := s.front.launches ++ [l] }
                             run := { s.run with nextHandle := num + 1, nextEv := s.run.nextEv + 1 } }
          if decl.cohort then
            match placeCohort num ((List.range decl.size).map fun i => decl.keyAt i 0) s1 with
            | none => completeEntry s vf 0x0202 0
            | some s2 =>
              let left := match launchOf s2 num with
                | some l => laterLeft l
                | none => []
              completeEntry (updLaunch s2 num fun l => { l with seed := if left.isEmpty then none else l.seed }) vf 0 num
          else completeEntry s1 vf 0 num

/-! ### Completion (R280, R317, R343, R371) -/

/-- R317: what a team's completion waits for holds: its strands have ended, what its threads issued and pushed is performed,
and no Pillow entry or held filing names one of its threads. -/
def teamOver (s : State) (tm : Team) : Bool :=
  tm.role != .handler && tm.state != .created && tm.state != .saved && !(s.strands.any fun x => x.tid == tm.tid) &&
    !(s.mem.events.any fun e => e.tid == tm.tid) && !(s.eng.cmds.any fun c => c.tid == tm.tid) &&
    !(s.traps.pillow.any fun e => e.subject.ofTeam tm.tid) && tm.rolling.isNone

/-- R280: a completed team that the auditor may sample, and whether it does. -/
def sampled (s : State) (tm : Team) : Bool :=
  match launchOf s tm.launch with
  | some l => l.audit != 0 && !tm.unsampled && tm.rollbacks == 0 && tm.role = .field &&
      decide (Config.pick s.run.tick 0x901 % 256 < l.audit)
  | none => false

/-- The team leaves the package: its thread-local slices, its threads and its record go, and the last team of a set takes the
set's barrier words with it (R266). -/
def dropTeam (s : State) (tm : Team) : State :=
  let s := match s.front.regions.find? fun r => tm.desc.tls != 0 && r.asid == tm.asid && r.base == tm.tlsBase && r.image == 0 with
    | some r => freeRegion s r
    | none => s
  let s := freeArea s tm
  freeWords { s with teams := s.teams.filter fun x => x.tid != tm.tid, threads := s.threads.filter fun t => t.tid != tm.tid }

/-- R371: the entry of an activity whose compensation has failed. -/
def snagEntry (s : State) (a : SeamEntry) (f : SeamFrame) (w : Word) : Entry :=
  { eid := s.traps.nextEid, die := f.die, cause := 0x38, inner := 0, depth := 0, pc := 0, word := 0, addr := BitVec.ofNat 64 f.seq
    detail := 0, rep := 0, subject := .seam a.index a.gen.toNat f.step w, launch := a.owner, x := 0, y := 0, z := 0, rank := 0
    asid := a.asid, world := a.world, colour := f.colour, faultAsid := 0, stamp := s.run.clock.toNat, state := .filed }

/-- R371: the activity enters SNAGGED and its entry is filed; with no handler installed the owner launch ends (R162, R372). -/
def snag (s : State) (a : SeamEntry) (f : SeamFrame) (w : Word) : State :=
  let back := fun (x : SeamFrame) => { x with state := if x.pend then 1 else 2 }
  let s := updFrames s a.index fun a =>
    { a with state := .snagged, snag := f.step, frames := mapIf (fun x => x.seq == f.seq) back a.frames }
  match servingBank s a.world.toNat 0x38 with
  | some _ =>
    { s with traps := { s.traps with pillow := s.traps.pillow ++ [snagEntry s a f w], nextEid := s.traps.nextEid + 1 } }
  | none => endLaunch s a.owner 0x38 0 { kind := 0, x := 0, y := 0, z := 0, stage := 0 } 0xFFFFFFFF 0

/-- R368, R371: a compensation team has completed: its frame is freed, or the activity snags. -/
def compensated (s : State) (tm : Team) : State :=
  match compFrame s tm with
  | none => s
  | some (a, f) =>
    match tm.failure with
    | some w => snag s a f w
    | none =>
      if tm.result != 0 then snag s a f (tm.result.setWidth 32)
      else updSeam s a.index fun a => { a with frames := a.frames.filter fun x => x.seq != f.seq }

/-- R371: a failed compensation needs a Pillow entry. -/
def snagRoom (s : State) (tm : Team) : Bool :=
  match compFrame s tm with
  | some (_, f) => (tm.failure.isNone && tm.result == 0) || pillowRoom s f.die 0x38
  | none => true

/-- R317, R343: TEAM_COMPLETION: the release drains the team's staged lines, and its completion event is published. A team
that ended in error publishes none. -/
def stepTeamCompletion (s : State) (tid : Nat) : State :=
  match teamOf s tid with
  | none => s
  | some tm =>
    if !teamOver s tm || !snagRoom s tm then s
    else
      let s := if tm.failed then s else drainAllReds (drainTeam s tid)
      let tm := (teamOf s tid).getD tm
      let s := if !tm.failed && sampled s tm then
          let item : AuditItem :=
            { index := s.front.auditNo, launch := tm.launch, key := tm.key, core := tm.place.getD 0, signature := tm.signature
              stamp := s.run.clock.toNat }
          { s with front := { s.front with audits := s.front.audits ++ [item], auditNo := s.front.auditNo + 1 } }
        else s
      let s := dropTeam s tm
      match tm.role with
      | .field => if tm.failed then s else publish s tm.launch tm.key false
      | .compensation _ _ _ _ => compensated s tm
      | .handler => s

/-! ### Compensation (R368 to R370) -/

/-- R370: the first link of an activity that it has still to wait for. -/
def liveLink (s : State) (a : SeamEntry) : Option SeamEntry :=
  firstSome (fun (x : Nat × BitVec 16) => s.seams.entries.find? fun b => b.index == x.1 && b.gen == x.2) a.links

/-- R364, R368, R369: the activity may spawn its next compensation team: no step of it is in progress. -/
def spawnReady (s : State) (a : SeamEntry) : Bool :=
  a.state == .unpicking && !stepInProgress s a && (liveLink s a).isNone && launchLives s a.runner &&
    match a.frames.getLast? with
    | some f => f.state != 3
    | none => false

/-- R368: a compensation team's resources. -/
def compDesc : TeamDesc :=
  { strands := 1, regs := 64, caps := 16, tiles := 0, accs := 0, compact := false, act := 0, wgt := 0, absence := 4096, tls := 0 }

/-- R368, R369: COMPENSATION_SPAWN: the team of the activity's newest frame. -/
def stepCompSpawn (s : State) (index : Nat) : State :=
  match seamAt s index with
  | none => s
  | some a =>
    match a.frames.getLast? with
    | none => s
    | some f =>
      if !spawnReady s a then s
      else
        let run := fun (x : SeamFrame) => { x with state := 3, pend := x.state == 1 }
        let s := updFrames s index fun a => { a with frames := mapIf (fun x => x.seq == f.seq) run a.frames }
        let key : TeamKey := { kind := 0, x := 0, y := 0, z := 0, stage := 0 }
        addTeam s (newTeam s.run.nextTid a.runner key (.compensation index a.gen.toNat f.seq f.step) compDesc a.asid a.world
          (f.comp.withSeal 0) s.run.nextOrder)

/-- R370: an activity in UNPICKING can go on by itself: a linked activity in OPEN is dropped, or nothing is left to run. -/
def seamMoves (s : State) (a : SeamEntry) : Bool :=
  a.state == .unpicking && match liveLink s a with
    | some b => b.state == .open && !stepInProgress s b
    | none => a.frames.isEmpty

/-- R369, R370: the seam unit drops a linked activity, or the activity reaches DONE. -/
def stepSeam (s : State) (index : Nat) : State :=
  match seamAt s index with
  | none => s
  | some a =>
    if !seamMoves s a then s
    else match liveLink s a with
      | some b => seamUnpick s b.index b.owner
      | none => seamDone s index

/-! ### The auditor (R281, R282) -/

/-- R281: a core on which a sampled team may be replayed: on another die of its world's partition, or, where that lies on one
die, in another cluster, with an idle slot. -/
def replayCore (s : State) (item : AuditItem) (core : Nat) : Bool :=
  match launchOf s item.launch with
  | none => false
  | some l =>
    let world := l.world.toNat
    let oneDie := allCores.all fun c => !coreServes s world c || dieOf c == dieOf item.core
    coreServes s world core && (freeSlot s core).isSome &&
      (if oneDie then clusterOf s core != clusterOf s item.core else dieOf core != dieOf item.core)

/-- R281, R282: AUDIT_REPLAY: the replay of a sampled team has given a signature. One that differs raises a machine check
that names both cores and the launch. -/
def stepAudit (s : State) (index : Nat) (signature : DWord) (core : Nat) : State :=
  match s.front.audits.find? fun a => a.index == index with
  | none => s
  | some item =>
    if !replayCore s item core then s
    else
      let s := { s with front := { s.front with audits := s.front.audits.filter fun a => a.index != index } }
      if signature == item.signature then s
      else { s with traps := { s.traps with machineChecks := s.traps.machineChecks ++ [[item.core, core, item.launch]] } }

/-- R281: AUDIT_REPLAY_DROP: a replay that has not started within 1 s. -/
def stepAuditDrop (s : State) (index : Nat) : State :=
  match s.front.audits.find? fun a => a.index == index with
  | none => s
  | some item =>
    if s.run.clock.toNat < item.stamp + 1000 * millisecond then s
    else
      { s with front := { s.front with audits := s.front.audits.filter fun a => a.index != index
                                       auditDropped := s.front.auditDropped + 1 } }

end Sys2Proof.Machine
end

