-- ==== Sys2Proof/Machine/Handler.lean ====
section
/-! DEFINITION. Handler strands (R160, R164 to R168, R175 to R181), what becomes of absent threads (R172, R174), fresh strands'
returns (R62), full/empty waits (R143), the resident service of Preder (R182) and the hang detector (R359). -/

namespace Sys2Proof.Machine

/-! ### Groups (R164) -/

/-- The key by which a class gathers entries: subject ASID, subject world, or all. -/
def groupKey (e : CauseEntry) (x : Entry) : Nat :=
  match e.cls.toNat with
  | 0 => x.asid.toNat
  | 1 => x.world.toNat
  | _ => 0

/-- The bank that serves an entry. -/
def Entry.bank (s : State) (x : Entry) : Option Nat := servingBank s x.world.toNat x.cause.toNat

/-- R164: the entries that wait for one cause-table entry under one key, in the order of filing. -/
def waiting (s : State) (bank cause key : Nat) : List Entry :=
  s.traps.pillow.filter fun x =>
    x.state = .filed && x.cause.toNat == cause && x.bank s == some bank && groupKey (causeEntry s bank cause) x == key

/-- R164: a group may form: it has width entries, or its oldest has waited for the timeout. -/
def groupReady (s : State) (bank cause key : Nat) : Bool :=
  let e := causeEntry s bank cause
  !e.resident && match waiting s bank cause key with
    | [] => false
    | x :: xs => decide (e.width.toNat ≤ xs.length + 1) || decide (x.stamp + e.timeout.toNat ≤ s.run.clock.toNat)

/-- R164: a group of up to width entries forms, oldest first, and waits for a core. -/
def stepGather (s : State) (bank cause key : Nat) : State :=
  if !groupReady s bank cause key then s
  else
    let eids := ((waiting s bank cause key).take (causeEntry s bank cause).width.toNat).map (·.eid)
    let gid := s.traps.nextGid
    { s with traps := { s.traps with
      pillow := mapIf (fun x => eids.contains x.eid) (fun x => { x with state := .grouped gid }) s.traps.pillow
      groups := s.traps.groups ++ [{ gid := gid, bank := bank, cause := cause, key := key, entries := eids }]
      nextGid := gid + 1 } }

/-! ### Placement and start (R160, R165, R166) -/

/-- The entries of a group that still stand: an entry withdrawn before the group is placed drops out, and the later ones move down to
lower lanes (DESIGN CHOICE 91). -/
def groupEntries (s : State) (g : Group) : List Entry := g.entries.filterMap (entryOf s)

/-- The core on which an entry's subject stands. -/
def subjectCore (s : State) (e : Entry) : Option Nat :=
  match e.subject with
  | .thread tid rank => do
    let tm ← teamOf s tid
    let t ← threadOf s tid rank
    let st ← strandOf s t.sid
    if tm.place.isSome then some st.core else none
  | _ => none

/-- R165: a core can hold a strand of the group: it has a free slot, and lies in the subjects' partition for the process and
tenant classes. -/
def canHold (s : State) (g : Group) (core : Nat) : Bool :=
  let world := ((groupEntries s g).head?.map (·.world.toNat)).getD 0
  !coreOut s core && (freeSlot s core).isSome &&
    ((causeEntry s g.bank g.cause).cls == 2 || clusterOwner s (dieOf core) (clusterOf s core).cluster == some world)

/-- R165: the cluster that holds the most subjects; of equals the lowest die, and in it the lowest cluster. -/
def subjectCluster (s : State) (g : Group) : Place :=
  let places := ((groupEntries s g).filterMap (subjectCore s)).map (clusterOf s)
  let count := fun (p : Place) => (places.filter fun q => q = p).length
  let before := fun (p q : Place) => decide (count q < count p) || (count p == count q &&
    (decide (p.die < q.die) || (p.die == q.die && decide (p.cluster < q.cluster))))
  places.foldl (fun b p => if before p b then p else b) (places.headD ⟨0, 0⟩)

/-- R165: the cores that may be chosen for a group: in its cluster, else on its die, else anywhere. -/
def groupCores (s : State) (g : Group) : List Nat :=
  let p := subjectCluster s g
  let all := allCores.filter (canHold s g)
  let near := all.filter fun c => clusterOf s c = p
  if !near.isEmpty then near
  else
    let die := all.filter fun c => dieOf c == p.die
    if !die.isEmpty then die else all

/-- R160: the stores that the group's subjects issued before they were filed are performed or staged. -/
def subjectsQuiet (s : State) (g : Group) : Bool :=
  (groupEntries s g).all fun e => match e.subject with
    | .thread tid rank => !(s.mem.events.any fun x => x.tid == tid && x.kind.writes && x.owners.contains rank)
    | _ => true

/-- R165: a group may be placed now: no group that began to wait before it may. -/
def placeReady (s : State) (g : Group) : Bool :=
  subjectsQuiet s g && !((s.traps.groups.takeWhile fun x => x.gid != g.gid).any fun x => !(groupCores s x).isEmpty)

/-- R160: the subjects' teams are exposed, so that their staged lines drain. -/
def drainSubjects (s : State) (g : Group) : State :=
  (groupEntries s g).foldl (fun s e => match e.subject with
    | .thread tid _ => exposeTeam s tid
    | _ => s) s

/-- R166: the resources of a handler strand's team. -/
def handlerDesc : TeamDesc :=
  { strands := 1, regs := 64, caps := 16, tiles := 0, accs := 0, compact := false, act := 0, wgt := 0, absence := 0, tls := 0 }

/-- R161, R166: the handler strand of a group starts on a core, under the cause-table entry as it stands at the placement (DESIGN
CHOICE 91). -/
def startHandler (s : State) (g : Group) (core slot : Nat) : State :=
  let e := causeEntry s g.bank g.cause
  let entries := groupEntries s g
  let own := (entries.head?.map (·.asid)).getD 0
  let homeAsid : BitVec 16 := e.home.extractLsb' 8 16
  let asid := if homeAsid == 0xFFFF then own else homeAsid
  let code := e.code.withSeal 0
  let data := sput nullCap [] 1 e.data
  let tid := s.run.nextTid
  let sid := s.run.nextSid
  let key : TeamKey := { kind := 0, x := 0, y := 0, z := 0, stage := 0 }
  let tm := { newTeam tid 0 key .handler handlerDesc asid (e.home.extractLsb' 0 8) code s.run.nextOrder with
    state := .running, place := some core, lastPlace := some core, unsampled := true, exposed := true }
  let st := { startStrand sid tid 0 core slot .handler (maskOf (List.range entries.length)) code data with
    handlerCause := BitVec.ofNat 7 g.cause, handlerClass := e.cls }
  let threads := entries.zipIdx.map fun x => startThread s.run.tick tid x.2 sid x.2 data (some x.1.eid)
  let rankOf := fun (eid : Nat) => ((entries.zipIdx.find? fun x => x.1.eid == eid).map (·.2)).getD 0
  let eids := entries.map (·.eid)
  let s := addTeam s tm
  { s with strands := s.strands ++ [st], threads := s.threads ++ threads
           run := { s.run with nextSid := sid + 1 }
           traps := { s.traps with
             groups := s.traps.groups.filter fun x => x.gid != g.gid
             pillow := mapIf (fun x => eids.contains x.eid) (fun x => { x with state := .served tid (rankOf x.eid) }) s.traps.pillow } }

/-- R165, R166: HANDLER_STRAND_PLACE. A group whose entries have all been withdrawn is dropped. -/
def stepHandlerPlace (s : State) (gid core : Nat) : State :=
  match s.traps.groups.find? fun g => g.gid == gid with
  | none => s
  | some g =>
    if (groupEntries s g).isEmpty then { s with traps := { s.traps with groups := s.traps.groups.filter fun x => x.gid != gid } }
    else match freeSlot s core with
      | some slot => if placeReady s g && (groupCores s g).contains core then startHandler (drainSubjects s g) g core slot else s
      | none => s

/-! ### Subject instructions (R167, R175 to R178) -/

/-- What a handler lane's subject is now. -/
inductive SubjectView where
  /-- R160: the entry has been withdrawn. -/
  | gone
  | thread (e : Entry) (tm : Team) (t : Thread)
  | other (e : Entry)
  deriving DecidableEq, Repr

/-- The subject of a handler lane. -/
def subjectView (s : State) (lane : Thread) : SubjectView :=
  match lane.subject.bind (entryOf s) with
  | none => .gone
  | some e => match e.subject with
    | .thread tid rank => match teamOf s tid, threadOf s tid rank with
      | some tm, some t => .thread e tm t
      | _, _ => .gone
    | _ => .other e

/-- R176: fields of a selector word. -/
def selClass (w : Word) : Nat := (w.extractLsb' 12 4).toNat
def selWord  (w : Word) : Nat := (w.extractLsb' 8 2).toNat
def selIndex (w : Word) : Nat := (w.extractLsb' 0 6).toNat

/-- R176: a selector that names a register of the subject. -/
def selOk (tm : Team) (w : Word) : Bool :=
  match selClass w with
  | 0 => decide (selIndex w < tm.desc.regs)
  | 1 => true
  | 2 => true
  | 3 => decide (selIndex w % 16 < tm.desc.caps)
  | 4 => decide (selIndex w % 16 < tm.desc.caps)
  | _ => false

/-- R176: what sbj.rd reads of a thread. -/
def selRead (t : Thread) (w : Word) : Word :=
  match selClass w with
  | 0 => t.getV (selIndex w)
  | 1 => (t.p ||| 1).setWidth 32
  | 2 => t.fpcsr
  | 3 => (t.getC (selIndex w % 16)).bits.extractLsb' (32 * selWord w) 32
  | _ => if (t.getC (selIndex w % 16)).tag then 1 else 0

/-- R296, R359, R372: what sbj.rd reads of a subject that is no thread; none where the selector gives a nested filing. -/
def otherRead (e : Entry) (w : Word) : Option Word :=
  if selClass w != 0 then none
  else match e.subject, selIndex w with
    | .orphan o, 0 => some o.operand
    | .hang _ waiters, 63 => some (BitVec.ofNat 32 waiters.length)
    | .hang _ waiters, i => (waiters[i]?).map (·.word)
    | .seam index gen _ _, 0 => some (BitVec.ofNat 32 (gen * 2 ^ 16 + index))
    | .seam _ _ _ _, 1 => some (e.world.setWidth 32)
    | .seam _ _ step _, 2 => some (BitVec.ofNat 32 step)
    | .seam _ _ _ result, 3 => some result
    | _, _ => none

/-- R168: a bad selector. -/
def badSelector : LaneRes := .bad (failure 0x01)

/-- R39, R175: a word of major 0x38 in a handler strand, once it has passed R38. -/
def subjectInstr (s : State) (legal : Ctx → Bool) (k : Ctx → State) : Out :=
  inCtx s fun c => if !legal c then fileAll s c 0x01 else if !c.handler then fileAll s c 0x02 else k c

/-- R176: sbj.rd. -/
def execSbjRd (g : Guard) (d a : BitVec 6) (s : State) : Out :=
  subjectInstr s (fun c => c.vOk [d.toNat, a.toNat]) fun c => afterRbRoom s c fun s =>
    runLanes s c g (fun s t =>
      let w := t.getV a.toNat
      let put := fun (x : Word) => LaneRes.ok [.v d.toNat x]
      match subjectView s t with
      | .gone => put 0
      | .thread _ tm u => if selOk tm w then put (selRead u w) else badSelector
      | .other e => match otherRead e w with
        | some x => put x
        | none => badSelector) fun s rs => longLanes s c rs

/-- R176: what sbj.wr writes in a thread. -/
def selWrite (t : Thread) (w x : Word) : Thread :=
  let n := selIndex w % 16
  let c := t.getC n
  match selClass w with
  | 0 => t.setV (selIndex w) x
  | 1 => { t with p := (t.p &&& 1) ||| (x.setWidth 8 &&& 0xFE) }
  | 2 => { t with fpcsr := fpWrite x }
  | 3 => t.setC n ⟨setField c.bits (32 * selWord w) 32 x.toNat, false⟩
  | _ => if x.getLsbD 0 then t else t.setC n { c with tag := false }

/-- R168, R176: whether sbj.wr of a lane fails. -/
def selFails (s : State) (t : Thread) (w : Word) : Bool :=
  match subjectView s t with
  | .gone => false
  | .thread _ tm _ => !selOk tm w
  | .other _ => true

/-- R176: the writes of sbj.wr in the subjects of the lanes that pass. -/
def writeSubjects (s : State) (d a : Nat) : List (Thread × LaneRes) → State
  | [] => s
  | (t, r) :: rest =>
    let s := match subjectView s t with
      | .thread _ _ u => if r.fail.isNone then updThread s u.tid u.rank fun u => selWrite u (t.getV a) (t.getV d) else s
      | _ => s
    writeSubjects s d a rest

/-- R176: sbj.wr. -/
def execSbjWr (g : Guard) (d a : BitVec 6) (s : State) : Out :=
  subjectInstr s (fun c => c.vOk [d.toNat, a.toNat]) fun c =>
    runLanes s c g (fun s t => if selFails s t (t.getV a.toNat) then badSelector else .ok []) fun s rs =>
      writeSubjects s d.toNat a.toNat rs

/-- R176: sbj.cap: the bits untagged, and the tag in p7. -/
def execSbjCap (g : Guard) (d : BitVec 4) (a : BitVec 6) (s : State) : Out :=
  subjectInstr s (fun c => c.vOk [a.toNat] && c.cOk [d.toNat]) fun c => afterRbRoom s c fun s =>
    runLanes s c g (fun s t =>
      let w := t.getV a.toNat
      let put := fun (x : Cap) => LaneRes.ok [.c d.toNat { x with tag := false }, .p 7 x.tag]
      match subjectView s t with
      | .gone => put nullCap
      | .thread _ tm u => if selClass w ≤ 4 && selIndex w % 16 < tm.desc.caps then put (u.getC (selIndex w % 16)) else badSelector
      | .other _ => badSelector) fun s rs => longLanes s c rs

/-! ### sbj.ld and sbj.st (R177) -/

/-- R177: bytes of an access word's size; none for a size that does not exist. -/
def sbjSize (w : Word) : Option Nat :=
  match (w.extractLsb' 4 3).toNat with
  | 0 => some 1
  | 1 => some 1
  | 2 => some 2
  | 3 => some 2
  | 4 => some 4
  | _ => none

/-- R177: the register that a loaded value goes to. -/
def sbjFmt (w : Word) (d : Nat) : LoadFmt :=
  match (w.extractLsb' 4 3).toNat with
  | 0 => .ext d 1 false
  | 1 => .ext d 1 true
  | 2 => .ext d 2 false
  | 3 => .ext d 2 true
  | _ => .words d 1

/-- R177: the access of one lane, checked under its subject's authority: its failure, or the subject's entry and team and
the places. None for a lane whose subject is gone. -/
def sbjCheck (s : State) (c : Ctx) (t : Thread) (a : Nat) (store : Bool) :
    State × Option (Except Failure (Team × Cap × Nat × List (Loc × Nat))) :=
  let w := t.getV a
  let n := (w.extractLsb' 0 4).toNat
  match subjectView s t with
  | .gone => (s, none)
  | .other _ => (s, some (.error (failure 0x01)))
  | .thread _ tm u =>
    match sbjSize w with
    | none => (s, some (.error (failure 0x01)))
    | some size =>
      if tm.desc.caps ≤ n then (s, some (.error (failure 0x01)))
      else
        let cap := u.getC n
        let addr : Int := (cap.addr : Int) + (t.getV (a + 1)).toInt
        let acc : Access :=
          { kind := if store then .store else .load, cap := cap, addr := addr, size := size, perm := if store then permS else permL
            natural := true, whole := false, fe := false, engine := false }
        let who : Who :=
          { issuers := coreIssuers s c.st.core, die := dieOf c.st.core, core := some c.st.core, asid := tm.asid, world := tm.world
            tid := some tm.tid, rank := u.rank, solo := false }
        match checkAccess s who acc with
        | (s, .error cause) => (s, some (.error (accessFailure cause addr tm.asid n)))
        | (s, .ok locs) => (s, some (.ok (tm, cap, addr.toNat, locs)))

/-- The checks of several lanes. -/
def sbjChecks (c : Ctx) (a : Nat) (store : Bool) :
    State → List Thread → State × List (Thread × Option (Except Failure (Team × Cap × Nat × List (Loc × Nat))))
  | s, [] => (s, [])
  | s, t :: ts =>
    let (s, r) := sbjCheck s c t a store
    let (s, rest) := sbjChecks c a store s ts
    (s, (t, r) :: rest)

/-- The relaxed access of a lane at dev scope, in its subject's address space and world. -/
def sbjEvent (c : Ctx) (t : Thread) (kind : EvKind) (tm : Team) (cap : Cap) (va : Nat) (locs : List (Loc × Nat)) (data : List Byte)
    (dest : Option (Nat × Nat × LoadFmt)) (id : Nat) : MemEv :=
  { c.event [t.rank] kind va locs .rlx 5 data none false cap dest id with asid := tm.asid, world := tm.world }

/-- R177: the accesses of the lanes that pass. -/
def sbjIssue (c : Ctx) (d a : Nat) (store : Bool)
    (xs : List (Thread × Option (Except Failure (Team × Cap × Nat × List (Loc × Nat))))) (s : State) : State :=
  let rb := nextRbOf s c
  let s := if store then s
    else
      let lane := fun (x : Thread × Option (Except Failure (Team × Cap × Nat × List (Loc × Nat)))) => match x.2 with
        | none => some (RBLane.done x.1 [.v d 0])
        | some (.ok (tm, _, va, _)) => some ⟨x.1.rank, true, [], none, BitVec.ofNat 64 va, some tm.asid⟩
        | some (.error _) => none
      pushRb s c (xs.filterMap lane) [] false none
  xs.foldl (fun s x => match x.2 with
    | some (.ok (tm, cap, va, locs)) =>
      let s := exposeAccess s c.tm.tid va store locs
      if store then
        let n := (sbjSize (x.1.getV a)).getD 4
        issueEvent s (sbjEvent c x.1 .store tm cap va locs (bytesOfNat n (x.1.getV d).toNat) none)
      else issueEvent s (sbjEvent c x.1 .load tm cap va locs [] (some (rb, x.1.rank, sbjFmt (x.1.getV a) d)))
    | _ => s) s

/-- R44, R177: a lane whose access has been answered elsewhere. -/
def sbjAnswered (c : Ctx) (a : Nat) (x : Thread × Option (Except Failure (Team × Cap × Nat × List (Loc × Nat)))) :
    Thread × Option (Except Failure (Team × Cap × Nat × List (Loc × Nat))) :=
  match (c.answer? x.1.rank).bind (·.cause), x.2 with
  | some cause, some (.ok (tm, _, va, _)) =>
    (x.1, some (.error (accessFailure cause (va : Int) tm.asid ((x.1.getV a).extractLsb' 0 4).toNat)))
  | _, r => (x.1, r)

/-- R44, R177: a lane whose access has still to be answered elsewhere: in its subject's buffer, which ends with its team, or
in another package. -/
def sbjAsks (c : Ctx) (x : Thread × Option (Except Failure (Team × Cap × Nat × List (Loc × Nat)))) : Bool :=
  match x.2 with
  | some (.ok (_, _, _, locs)) => (c.answer? x.1.rank).isNone && asksElsewhere c.tm.tid .load locs
  | _ => false

/-- R177: sbj.ld and sbj.st. -/
def sbjMem (g : Guard) (d a : BitVec 6) (store : Bool) (s : State) : Out :=
  subjectInstr s (fun c => c.vOk [d.toNat, a.toNat, a.toNat + 1]) fun c =>
    if barred s c then s
    else
      let body := fun (s : State) =>
        let (s, xs) := sbjChecks c a.toNat store s (c.active s g)
        let xs := xs.map (sbjAnswered c a.toNat)
        let bad := xs.filterMap fun x => match x.2 with
          | some (.error f) => some (x.1, f)
          | _ => none
        let asking := xs.filter (sbjAsks c)
        let go := fun (s : State) => finish (fileThreads (withAnswers s c (sbjIssue c d.toNat a.toNat store xs)) c.at bad) c
        if !asking.isEmpty then askFirst s c (sbjIssue c d.toNat a.toNat store asking)
        else if bad.isEmpty then go s else afterMarker s c false go
      if store then body s else afterRbRoom s c body

/-- R177: sbj.ld. -/
def execSbjLd (g : Guard) (d a : BitVec 6) (s : State) : Out := sbjMem g d a false s
/-- R177: sbj.st. -/
def execSbjSt (g : Guard) (d a : BitVec 6) (s : State) : Out := sbjMem g d a true s

/-! ### hcause, hret, hpass (R178 to R180) -/

/-- R178: a value of an entry. -/
def causeWord (e : Entry) (n : Nat) : Word :=
  match n with
  | 0 => (0 : BitVec 14) ++ e.depth ++ (0 : BitVec 1) ++ e.inner ++ (0 : BitVec 1) ++ e.cause
  | 1 => e.pc.setWidth 32
  | 2 => (e.pc >>> 32).setWidth 32
  | 3 => e.addr.setWidth 32
  | 4 => (e.addr >>> 32).setWidth 32
  | 5 => e.word
  | 6 => e.detail
  | 7 => e.rep
  | 8 => (0 : BitVec 4) ++ e.colour ++ e.world ++ e.asid
  | 9 => BitVec.ofNat 32 (e.rank.toNat + 65536 * (e.rank.toNat / 32))
  | _ => e.faultAsid.setWidth 32

/-- R160, R178: what a lane reads whose subject is gone: bit 18 of value 0 is 1, and every other field is left open: a free
value (DESIGN CHOICE 31). -/
def goneWord (s : State) (n rank : Nat) : Word :=
  let free : Word := BitVec.ofNat 32 (Config.pick s.run.tick (0xA000 + 64 * n + rank))
  match n with
  | 0 => (free &&& 0x00037F7F) ||| 0x00040000
  | _ => free

/-- R178: hcause. -/
def execHcause (g : Guard) (d i : BitVec 6) (s : State) : Out :=
  subjectInstr s (fun c => c.vOk [d.toNat]) fun c =>
    runLanes s c g (fun s t =>
      let w := match t.subject.bind (entryOf s) with
        | some e => causeWord e i.toNat
        | none => goneWord s i.toNat t.rank
      .ok [.v d.toNat w]) writeLanes

/-- R179, R296, R359, R372: what `hret` does for a lane's subject. -/
def returnSubject (s : State) (t : Thread) (next : Bool) : State :=
  match t.subject.bind (entryOf s) with
  | none => s
  | some e =>
    match e.subject with
    | .thread _ _ => returnEntry s e next
    | .orphan o =>
      let s := withdraw s fun x => x.eid == e.eid
      if next then loseOrphan s o 0x40 else land s (orphanPacket s o)
    | .hang num _ =>
      let s := updLaunch (withdraw s fun x => x.eid == e.eid) num fun l => { l with hung := false }
      if next then endLaunch s num 0x84 0 { kind := 0, x := 0, y := 0, z := 0, stage := 0 } 0xFFFFFFFF 0 else s
    | .seam index gen _ _ =>
      let s := withdraw s fun x => x.eid == e.eid
      match s.seams.entries.find? fun a => a.index == index && a.gen.toNat == gen with
      | some a => if a.state == .snagged && launchLives s a.runner then resumeSeam s a next a.runner else s
      | none => s

/-- R171, R179, R180: a lane leaves its strand; solo mode ends with it. -/
def leaveLane (s : State) (c : Ctx) (t : Thread) : State :=
  exitThread (updPath s c.st.sid c.p.pid fun p => { p with solo := false }) t.tid t.rank

/-- R179: hret. -/
def execHret (g : Guard) (i : BitVec 6) (s : State) : Out :=
  subjectInstr s (fun _ => true) fun c => afterMarker s c false fun s =>
    let lanes := c.active s g
    finish (lanes.foldl (fun s t => leaveLane (returnSubject s t (i == 1)) c t) s) c

/-- R159, R180: a handler strand files an entry again. Where the new cause may take no entry of the share, the strand parks, and
the entry keeps its old place until it may (DESIGN CHOICE 91). -/
def moveEntry (s : State) (sid : Nat) (new : Entry) : State :=
  let rest := withdraw s fun x => x.eid == new.eid
  let open' := match strandOf s sid with
    | some st => st.parked.isEmpty
    | none => true
  if open' && pillowRoom rest new.die new.cause then { rest with traps := { rest.traps with pillow := rest.traps.pillow ++ [new] } }
  else updStrand s sid fun x => { x with parked := x.parked ++ [new] }

/-- R180: the entry filed again under a cause; where no handler is installed for it R162 applies, and a reduction is lost under that
cause (R296). -/
def refile (s : State) (sid : Nat) (e : Entry) (cause : BitVec 7) : State :=
  let new : Entry :=
    { e with cause := cause, inner := if cause == 0x3F then e.inner else 0, detail := e.cause.setWidth 32
             stamp := s.run.clock.toNat, state := .filed }
  match servingBank s e.world.toNat cause.toNat with
  | some _ => moveEntry s sid new
  | none =>
    let key : TeamKey := { kind := 0, x := e.x, y := e.y, z := e.z, stage := 0 }
    let s := withdraw s fun x => x.eid == e.eid
    match e.subject with
    | .thread tid rank => match teamOf s tid with
      | some tm => match threadOf s tid rank, tm.role with
        | some t, .handler => endService s t e.launch cause.toNat e.pc (BitVec.ofNat 32 rank) 0 0x8000007F
        | _, _ => endOwner s tm e.launch cause.toNat e.pc (BitVec.ofNat 32 rank) 0 (0x80000000 + cause.setWidth 32)
      | none => s
    | .orphan o => loseOrphan s o cause.toNat
    | _ => endLaunch s e.launch cause.toNat e.pc key 0xFFFFFFFF 0

/-- R180: what `hpass` does for a lane that passes. -/
def passLane (s : State) (c : Ctx) (a : Nat) (t : Thread) : State :=
  let s := match t.subject.bind (entryOf s) with
    | some e => refile s c.st.sid e ((t.getV a).setWidth 7)
    | none => s
  leaveLane s c t

/-- R180: hpass. A cause of 0 gives a nested filing. -/
def execHpass (g : Guard) (a : BitVec 6) (s : State) : Out :=
  subjectInstr s (fun c => c.vOk [a.toNat]) fun c => afterMarker s c false fun s =>
    let lanes := c.active s g
    let zero := fun (t : Thread) => (t.getV a.toNat).setWidth 7 == (0 : BitVec 7) && (t.subject.bind (entryOf s)).isSome
    let s := (lanes.filter fun t => !zero t).foldl (fun s t => passLane s c a.toNat t) s
    finish (fileThreads s c.at ((lanes.filter zero).map fun t => (t, failure 0x01))) c

/-! ### Absent threads (R172, R174) and fresh strands (R62) -/

/-- R172: an absence clock has run its length. -/
def AbsClock.ranOut (now : Nat) (c : AbsClock) : Bool := c.len != 0 && decide (c.start + c.len ≤ now)

/-- The strand's team runs, so its clocks do. -/
def clocksRun (s : State) (st : Strand) : Bool :=
  match teamOf s st.tid with
  | some tm => tm.state == .running || tm.state == .stopping
  | none => false

/-- R172, R184: ABSENCE_EXPIRY of a frame of a strand, or of its root join: the members filed by then are waited for no
longer. -/
def stepAbsence (s : State) (sid : Nat) (frame : Option Nat) : State :=
  match strandOf s sid with
  | none => s
  | some st =>
    let now := s.run.clock.toNat
    if !clocksRun s st then s
    else match frame with
      | some fid => match (st.frame? fid).bind (·.clock) with
        | some c => if c.ranOut now then
            settle (updStrand s sid fun x => x.updFrame fid (lapseFrame (filedSlots s st))) sid else s
        | none => s
      | none => match st.rootJoin.bind (·.clock) with
        | some c => if c.ranOut now then
            settle (updThreads s (fun t => ofStrand st t && t.status.away) fun t => { t with straggling := true }) sid else s
        | none => s

/-- R174: STRAGGLER_START: a returned thread that waited for a slot has one. -/
def stepStraggler (s : State) (tid rank : Nat) : State :=
  match threadOf s tid rank with
  | none => s
  | some t =>
    match t.status, (strandOf s t.sid).or (homeStrand? s tid rank), teamOf s tid with
    | .waitingSlot pc _, some st, some tm =>
      if (freeSlot s st.core).isSome && tm.place.isSome then startStraggler s st t pc t.rep t.repWord else s
    | _, _, _ => s

/-- R180: a filing that a strand holds is a subject that it files again, not a thread of its own. -/
def Strand.passes (st : Strand) (e : Entry) : Bool :=
  match e.subject with
  | .thread tid _ => tid != st.tid
  | _ => true

/-- R159: PILLOW_UNPARK: the first filing that a strand holds finds an entry. A subject filed again leaves its old entry with that;
one whose old entry has been withdrawn is dropped (R160). -/
def stepUnpark (s : State) (sid : Nat) : State :=
  match strandOf s sid with
  | none => s
  | some st =>
    match st.parked with
    | [] => s
    | e :: rest =>
      let held := fun (s : State) => updStrand s sid fun x => { x with parked := rest }
      if st.passes e then
        let old := withdraw s fun x => x.eid == e.eid
        if (entryOf s e.eid).isNone then releaseStrand (held s) sid
        else if pillowRoom old e.die e.cause then
          releaseStrand (held { old with traps := { old.traps with pillow := old.traps.pillow ++ [e] } }) sid
        else s
      else if pillowRoom s e.die e.cause then held { s with traps := { s.traps with pillow := s.traps.pillow ++ [e] } }
      else s

/-- R159: a strand's first held filing may move. -/
def unparkReady (s : State) (st : Strand) : Bool :=
  match st.parked with
  | [] => false
  | e :: _ =>
    if st.passes e then (entryOf s e.eid).isNone || pillowRoom (withdraw s fun x => x.eid == e.eid) e.die e.cause
    else pillowRoom s e.die e.cause

/-- R62: FRESH_STRAND_RETURN: at its matching join, once its commands are done, a fresh strand's threads go home. -/
def stepFreshReturn (s : State) (sid : Nat) : State :=
  match strandOf s sid with
  | none => s
  | some st =>
    match st.kind, st.paths.find? fun p => match p.state with
        | .waiting .freshReturn _ => true
        | _ => false with
    | .fresh homes, some p =>
      if s.eng.cmds.any fun c => c.sid == sid then s
      else
        let ts := presentOf s sid p
        let s := { s with strands := mapIf (fun x => homes.contains x.sid) (fun x => { x with mstat := x.mstat ||| st.mstat }) s.strands }
        let s := updStrand s sid fun x =>
          { x with records := [], partials := [], paths := x.paths.filter fun q => q.pid != p.pid }
        let s := ts.foldl (goHome p.pc p.code) s
        let s := homes.foldl settle s
        releaseStrand s sid
    | _, _ => s

/-! ### Full/empty words (R143) -/

/-- The path of a strand in which a rank waits for its full/empty word, and the lane. -/
def feWait (st : Strand) (rank : Nat) : Option (Path × Bool × List FeLane × FeLane × BitVec 3) :=
  firstSome (fun (p : Path) => match p.state with
    | .waiting (.feTake ls sc _) _ => (ls.find? fun l => l.rank == rank).map fun l => (p, true, ls, l, sc)
    | .waiting (.feFill ls sc _) _ => (ls.find? fun l => l.rank == rank).map fun l => (p, false, ls, l, sc)
    | _ => none) st.paths

/-- The full/empty bit of a lane's word. -/
def feFull (s : State) (l : FeLane) : Bool :=
  match teamOf s l.team with
  | some tm => sget false tm.fe (l.off / 4)
  | none => false

/-- R264: the word's owner has ended. -/
def feGone (s : State) (l : FeLane) : Bool := locGone s (.act l.team l.off)

/-- R143, R308, R319: what a fill at a scope releases has been performed: the lane's accesses and commands, remote ones at sys
scope alone. -/
def feReleased (s : State) (st : Strand) (scope : BitVec 3) (rank : Nat) : Bool :=
  !(s.mem.events.any fun e => (e.tid == st.tid && e.owners.contains rank && (scope == 6 || !e.isRemote)) ||
      (scope == 6 && acquiredRemote s st.tid [rank] e)) &&
    !(s.eng.cmds.any fun c => c.tid == st.tid && cmdPending s c && c.ranks.contains rank)

/-- R305, R307: no earlier access of the lane's thread to a byte of the word is pending. -/
def feInOrder (s : State) (st : Strand) (l : FeLane) : Bool :=
  !(s.mem.events.any fun x => x.tid == st.tid && x.owners.contains l.rank &&
    x.locs.any fun y => locsMeet y.1 y.2 (.act l.team l.off) 4)

/-- A lane of a full/empty wait is done; with the last one the path goes on at the next instruction. -/
def feDone (s : State) (sid : Nat) (p : Path) (rest : List FeLane) : State :=
  let left := fun (q : Path) => match q.state with
    | .waiting (.feTake _ sc w) t => { q with state := .waiting (.feTake rest sc w) t }
    | .waiting (.feFill _ sc w) t => { q with state := .waiting (.feFill rest sc w) t }
    | _ => q
  updPath s sid p.pid fun q =>
    if rest.isEmpty then { q.advanced with state := .ready, marks := 0 } else left q

/-- R143: the word's full/empty bit changes; its line is logged first. -/
def setFe (s : State) (l : FeLane) (b : Bool) : State :=
  updTeam (logUndo s l.team false l.off 4) l.team fun t => { t with fe := sput false t.fe (l.off / 4) b }

/-- R143, R264: a lane waits on a word whose owner has ended: it is filed with cause 0x05. -/
def feLost (s : State) (st : Strand) (p : Path) (rest : List FeLane) (l : FeLane) (word : Word) : State :=
  let c : At := { sid := st.sid, pc := p.pc, word := word, rep := p.rep, code := p.code }
  let s := feDone s st.sid p rest
  match threadOf s st.tid l.rank with
  | some t => fileThreads s c [(t, failure 0x05)]
  | none => s

/-- The rep word or the instruction word that a full/empty wait records. -/
def feWord (p : Path) : Word :=
  match p.state with
  | .waiting (.feTake _ _ w) _ => w
  | .waiting (.feFill _ _ w) _ => w
  | _ => 0

/-- R105: the address by which a lane named a word of a buffer: its own team's, or a peer's under its name. -/
def feAddr (s : State) (st : Strand) (l : FeLane) : DWord :=
  if l.team == st.tid then BitVec.ofNat 64 (0x8 * 2 ^ 60 + l.off)
  else BitVec.ofNat 64 (0xA * 2 ^ 60 + ((teamOf s l.team).bind (·.name)).getD 0 * 2 ^ 56 + l.off)

/-- R45, R170, R279: the word that a lane has taken is poisoned: its register is not written, and the poison is consumed as
at a commit (DEDUCED 88). -/
def fePoison (s : State) (st : Strand) (p : Path) (l : FeLane) (word : Word) (prov : BitVec 12) : State :=
  if st.serves then
    let c : At := { sid := st.sid, pc := p.pc, word := word, rep := p.rep, code := p.code }
    let asid := ((teamOf s st.tid).map (·.asid)).getD 0
    match threadOf s st.tid l.rank with
    | some t => fileThreads s c [(t, { cause := 0x18, addr := feAddr s st l, detail := prov.setWidth 32, asid := asid })]
    | none => s
  else consumePoison s st.tid p.pc l.rank prov

/-- R143, R305: FE_WAIT_TAKE: a lane takes its full word, after its own earlier accesses to it, and leaves it empty, as an
acquire at its scope. -/
def stepFeTake (s : State) (sid rank : Nat) : State :=
  match strandOf s sid with
  | none => s
  | some st =>
    match feWait st rank with
    | some (p, true, ls, l, sc) =>
      let rest := ls.filter fun x => x.rank != rank
      if feGone s l then feLost s st p rest l (feWord p)
      else if !feFull s l || !feInOrder s st l then s
      else
        let (x, prov) := match teamOf s l.team with
          | some tm => (wordOf (bufBytes tm false l.off 4), bufPoison tm false l.off 4)
          | none => (0, none)
        let s' := updThread (setFe s l false) st.tid rank fun t =>
          (if prov.isSome then t else t.setV l.d x).acquired s (decide (3 ≤ sc.toNat))
        let done := feDone s' sid p rest
        match prov with
        | none => done
        | some prov => fePoison done st p l (feWord p) prov
    | _ => s

/-- R143: FE_WAIT_FILL: a lane writes its empty word and leaves it full, as a release at its scope. -/
def stepFeFill (s : State) (sid rank : Nat) : State :=
  match strandOf s sid with
  | none => s
  | some st =>
    match feWait st rank with
    | some (p, false, ls, l, sc) =>
      let rest := ls.filter fun x => x.rank != rank
      if feGone s l then feLost s st p rest l (feWord p)
      else if feFull s l || !feReleased s st sc rank then s
      else feDone (setFe (writeBuf s l.team false l.off (bytesOfWord l.value)) l true) sid p rest
    | _ => s

/-! ### Preder's resident service (R182) -/

/-- R182: the page that an entry's fault names. -/
def faultPage (e : Entry) : Nat := e.addr.toNat % 2 ^ 57 / 65536

/-- R182, cause 0x10 in a region: the page is mapped, or brought back from its drive, if no other entry's service has done so. None
outside every region, without a frame, or where a swapped-out page does not verify. -/
def serveTouch (s : State) (e : Entry) : Option State :=
  match regionOf s e.faultAsid (faultPage e) with
  | some r =>
    if (pageLeaf s e.faultAsid (faultPage e)).isSome then some s
    else match swapOf s e.faultAsid (faultPage e) with
      | some x => swapIn s r x
      | none => mapPage s r (faultPage e)
  | none => none

/-- R182, cause 0x11: the page gets a frame of its own, writable, and its old translation is dropped. A page that another entry's
service has made writable is left as it is. -/
def serveCopy (s : State) (e : Entry) : Option State := do
  let (l, pte) ← pageLeaf s e.faultAsid (faultPage e)
  if !l.cow then return s
  let (f, s) ← allocFrame s l.tier e.world.toNat
  let base := l.pa + (faultPage e - l.page) * 65536
  let s := copyFrame s base f l.key l.key
  let new := leafPte f (BitVec.ofNat 2 l.tier) l.colour l.version (BitVec.ofNat 16 l.key) (pte.extractLsb' 4 3 ||| 2)
  some (dropRange (writeEntry s l.at' new) ⟨false, e.faultAsid, faultPage e, faultPage e + 1⟩)

/-- R182: the launch of an entry ends with a code, at the entry's pc. -/
def serveEnd (s : State) (e : Entry) (code : Nat) (prov : BitVec 12) : State :=
  let key := match e.subject with
    | .thread tid _ => ((teamOf s tid).map (·.key)).getD { kind := 0, x := e.x, y := e.y, z := e.z, stage := 0 }
    | _ => { kind := 0, x := e.x, y := e.y, z := e.z, stage := 0 }
  let s := withdraw s fun x => x.eid == e.eid
  match e.subject with
  | .thread tid rank => match teamOf s tid with
    | some tm =>
      let w : Word := if code == 0x80 then 0x8000007F else 0x80000000 + BitVec.ofNat 32 code
      match threadOf s tid rank, tm.role with
      | some t, .handler => endService s t e.launch code e.pc (BitVec.ofNat 32 rank) prov 0x8000007F
      | _, _ => endOwner s tm e.launch code e.pc (BitVec.ofNat 32 rank) prov w
    | none => endLaunch s e.launch code e.pc key (BitVec.ofNat 32 rank) prov
  | _ => endLaunch s e.launch code e.pc key 0xFFFFFFFF prov

/-- R182: a fault of cause 0x10 or 0x11 served, and the entry's subject sent back to the same pc. -/
def serveFault (s : State) (e : Entry) (cause : Nat) : State :=
  match (if cause == 0x10 then serveTouch s e else serveCopy s e) with
  | some s => match e.subject with
    | .orphan o => land (withdraw s fun x => x.eid == e.eid) (orphanPacket s o)
    | _ => returnEntry s e false
  | none => match e.subject with
    | .orphan o => loseOrphan (withdraw s fun x => x.eid == e.eid) o 0x85
    | _ => serveEnd s e cause 0

/-- R278: the error record that a provenance names. -/
def errorOf (s : State) (prov : BitVec 12) : Option ErrRecord :=
  s.plant.errors.find? fun r => r.source == prov.extractLsb' 8 4 && r.index == (prov.extractLsb' 0 8).toNat

/-- R182, cause 0x18: poison in a handler lane, after the test of its unit. -/
def servePoison (s : State) (e : Entry) : State :=
  let prov : BitVec 12 := e.detail.setWidth 12
  match e.subject with
  | .thread tid rank =>
    let again := match threadOf s tid rank with
      | some t => t.retriedAt.contains e.pc
      | none => true
    let transient := match errorOf s prov with
      | some r => r.transient
      | none => false
    if transient && !again then
      returnEntry (updThread s tid rank fun t => { t with retriedAt := e.pc :: t.retriedAt }) e false
    else serveEnd s e 0x80 prov
  | _ => s

/-- R182: a resident entry may be served now: a copied page's accesses are performed, and a poison's error record has been
tested. -/
def serveReady (s : State) (e : Entry) : Bool :=
  let cause := if e.cause == 0x3F then e.inner.toNat else e.cause.toNat
  let resident := match e.bank s with
    | some b => (causeEntry s b e.cause.toNat).resident
    | none => false
  resident && e.state = .filed && match cause with
    | 0x11 => rangeQuiet s ⟨false, e.faultAsid, faultPage e, faultPage e + 1⟩
    | 0x18 => match errorOf s (e.detail.setWidth 12) with
      | some r => r.tested
      | none => true
    | _ => true

/-- R160: an entry's subject's team is exposed before its service. -/
def exposeSubject (s : State) (e : Entry) : State :=
  match e.subject with
  | .thread tid _ => exposeTeam s tid
  | _ => s

/-- R182: one entry of a resident cause is served, whole, in one step (DESIGN CHOICE 6). -/
def stepResident (s : State) (eid : Nat) : State :=
  match entryOf s eid with
  | none => s
  | some e =>
    if !serveReady s e then s
    else
      let s := exposeSubject s e
      match e.cause.toNat with
      | 0x10 => serveFault s e 0x10
      | 0x11 => serveFault s e 0x11
      | 0x18 => servePoison s e
      | 0x3F =>
        if e.inner == 0x10 || e.inner == 0x11 then serveFault s e e.inner.toNat else serveEnd s e e.inner.toNat 0
      | 0x40 => match e.subject with
        | .orphan o =>
          if o.cause == 0x10 || o.cause == 0x11 then serveFault s e o.cause.toNat
          else loseOrphan (withdraw s fun x => x.eid == eid) o 0x85
        | _ => s
      | 0x48 => match e.subject with
        | .hang num _ =>
          let s := updLaunch (withdraw s fun x => x.eid == eid) num fun l => { l with hung := false }
          endLaunch s num 0x84 0 { kind := 0, x := 0, y := 0, z := 0, stage := 0 } 0xFFFFFFFF 0
        | _ => s
      | c => serveEnd s e c 0

/-! ### The hang detector (R359) -/

/-- R359: kind and handle or queue of a wait that counts, as bits [31:16] of its record. -/
def hangKind : Wait → Option Nat
  | .barrier _ h _ _ => some h.toNat
  | .feTake _ _ _ => some 0x1000
  | .feFill _ _ _ => some 0x1000
  | .push q => some (0x2000 + q)
  | .pop q => some (0x3000 + q)
  | .netDone => some 0x3005
  | .cpYield q _ => some (0x4000 + q)
  | _ => none

/-- R359: the waits of a strand that count: the kind, the path and the cycle it began. A path at a join, whatever it waits for
there, counts while sr.absence is 0. -/
def hangWaits (st : Strand) : List (Nat × Nat × Nat) :=
  st.paths.filterMap fun p => match p.state with
    | .waiting .freshReturn since => if st.absence == 0 then some (0x5000, p.pid, since) else none
    | .waiting .straggler since => if st.absence == 0 then some (0x5000, p.pid, since) else none
    | .waiting w since => (hangKind w).map fun k => (k, p.pid, since)
    | .atJoin since => if st.absence == 0 then some (0x5000, p.pid, since) else none
    | .ready => none

/-- R359: a team's index in its launch. -/
def teamIndex (s : State) (tm : Team) : Nat := ((launchOf s tm.launch).map fun l => fieldIndex l tm.key).getD 0

/-- R359: the waiter records of a launch's paths that have waited longer than the threshold. -/
def overdue (s : State) (num : Nat) : List Waiter :=
  s.strands.flatMap fun st => match teamOf s st.tid with
    | some tm =>
      if tm.launch != num || tm.role = .handler || (tm.state != .running && tm.state != .stopping) then []
      else ((hangWaits st).filter fun x => decide (x.2.2 + s.front.hangThreshold < s.run.clock.toNat)).map fun x =>
        ⟨BitVec.ofNat 32 (x.1 * 65536 + teamIndex s tm % 4096 * 16 + st.num % 16), st.sid, x.2.1, x.2.2⟩
    | none => []

/-- The hang entry of a launch. -/
def hangEntry (s : State) (num : Nat) : Option Entry :=
  s.traps.pillow.find? fun e => match e.subject with
    | .hang n _ => n == num
    | _ => false

/-- R359: the detector has something to report: a first waiter, or another one. -/
def hangDue (s : State) (l : Launch) : Bool :=
  l.state = .live && match hangEntry s l.num with
    | some e => match e.subject with
      | .hang _ ws => (overdue s l.num).any fun w => !ws.contains w
      | _ => false
    | none => !l.hung && !(overdue s l.num).isEmpty && pillowRoom s 0 0x48

/-- R359: HANG_REPORT: one entry for the launch, in die 0's share; further waiters add to it. -/
def stepHang (s : State) (num : Nat) : State :=
  match launchOf s num with
  | none => s
  | some l =>
    if !hangDue s l then s
    else
      let ws := overdue s num
      match hangEntry s num with
      | some e =>
        let add := fun (x : Entry) => match x.subject with
          | .hang n old => { x with subject := .hang n (old ++ ws.filter fun w => !old.contains w) }
          | _ => x
        updEntry s e.eid add
      | none =>
        let e : Entry :=
          { eid := s.traps.nextEid, die := 0, cause := 0x48, inner := 0, depth := 0, pc := 0, word := 0, addr := 0, detail := 0
            rep := 0, subject := .hang num ws, launch := num, x := 0, y := 0, z := 0, rank := 0, asid := l.asid, world := l.world
            colour := 0, faultAsid := 0, stamp := s.run.clock.toNat, state := .filed }
        if (servingBank s 0 0x48).isNone then
          endLaunch s num 0x48 0 { kind := 0, x := 0, y := 0, z := 0, stage := 0 } 0xFFFFFFFF 0
        else
          updLaunch { s with traps := { s.traps with pillow := s.traps.pillow ++ [e], nextEid := s.traps.nextEid + 1 } } num
            fun l => { l with hung := true }

/-- R359: Krahal may set the threshold while a path waits in a wait that counts; without one it has no effect. -/
def hangMaySet (s : State) : Bool := s.strands.any fun st => !(hangWaits st).isEmpty

/-- R359: Krahal sets the threshold, from 0.1 s to 60 s, in cycles of R106: any such value (DESIGN CHOICE 32). -/
def stepHangSet (s : State) : State :=
  { s with front := { s.front with hangThreshold := 250000000 + Config.pick s.run.tick 0x909 % 149750000001 } }

end Sys2Proof.Machine
end

