-- ==== Sys2Proof/Machine/Firmware.lean ====
section
/-! DEFINITION. Errors and self-tests (R278, R282, R355, R356), power (R357, R358), the sweep (R103, R367), the re-cut of a
partition (R330), package reset (R320, R324, R333, R335), the debug unlock (R335) and watch ranges (R163). -/

namespace Sys2Proof.Machine

/-! ### Errors (R278, R279) -/

/-- The aligned 32-bit word of a buffer marked poisoned (R279). A team that has left the core has no buffer there. -/
def poisonBuffer (s : State) (tid : Nat) (weight : Bool) (off : Nat) (prov : BitVec 12) : State :=
  match teamOf s tid with
  | some tm => if tm.place.isSome && tm.state != .ended then settleWords s tid weight false [(off, some prov)] else s
  | none => s

/-- The place of an error: its address, the core that it lies in, and the unit that its record names. -/
def siteAddr : ErrorSite → Nat
  | .line pa => pa
  | .act _ off => off
  | .wgt _ off => off
  | .tile _ n word => 2048 * n + 4 * word
  | .acc _ n slot => 2048 * n + 8 * slot
  | .l1 _ line => 64 * line
  | .staged _ line => 64 * line
  | .corrected pa => pa
  | .counter page => 4096 * page
  | .unit (.memory base _) => base
  | .unit _ => 0
def siteCore (s : State) : ErrorSite → Option Nat
  | .line _ => none
  | .act tid _ => (teamOf s tid).bind (·.place)
  | .wgt tid _ => (teamOf s tid).bind (·.place)
  | .tile tid _ _ => (teamOf s tid).bind (·.place)
  | .acc tid _ _ => (teamOf s tid).bind (·.place)
  | .l1 core _ => some core
  | .staged tid _ => (teamOf s tid).bind (·.place)
  | .corrected _ => none
  | .counter _ => none
  | .unit (.core n) => some n
  | .unit _ => none
def siteUnit (s : State) (source : BitVec 4) (site : ErrorSite) : TestUnit :=
  match site with
  | .unit u => u
  | _ => match siteCore s site with
    | some n => .core n
    | none => errorUnit s source (siteAddr site)

/-- R268: the leaf controller of the unit's cluster reports the error. -/
def reportError (s : State) (die index : Nat) : TestUnit → State
  | .core n => tellHead s (clusterOf s n).die (clusterOf s n).cluster (.fault die index)
  | .clusterShared d c => tellHead s d c (.fault die index)
  | _ => s

/-- R278: a word of a tile or an element of an accumulator tile marked poisoned. -/
def markTile (m : Sparse (Option (BitVec 12))) (i : Nat) (prov : BitVec 12) : Sparse (Option (BitVec 12)) :=
  sput none m i (minPoison (sget none m i) (some prov))

/-- R278, R322, R323: UNCORRECTABLE_ERROR: the record, and the line or word poisoned. Sources 8 to 15 are not produced. A counter
line's failure poisons every line that it covers, and a symbol corrected poisons none. -/
def stepError (s : State) (die : Nat) (source : BitVec 4) (site : ErrorSite) : State :=
  if 8 ≤ source.toNat || 8 ≤ die then s
  else
    let u := siteUnit s source site
    let (s, prov) := recordError s die source (siteAddr site) u
    let s := reportError s die (prov.toNat % 256) u
    match site with
    | .line pa => { s with mem := addPoison s.mem (lineOf pa) prov }
    | .act tid off => poisonBuffer s tid false off prov
    | .wgt tid off => poisonBuffer s tid true off prov
    | .tile tid n word => updTeam s tid fun tm => { tm with tilePoison := markTile tm.tilePoison (512 * n + word % 512) prov }
    | .acc tid n slot => updTeam s tid fun tm => { tm with accPoison := markTile tm.accPoison (256 * n + slot % 256) prov }
    | .l1 core line =>
      let bad := fun (x : L1Copy) => { x with poison := minPoison x.poison (some prov) }
      { s with mem := { s.mem with l1 := mapIf (fun x => x.core == core && x.line == line) bad s.mem.l1 } }
    | .staged tid line =>
      let bad := fun (l : StagedLine) => { l with poison := minPoison l.poison (some prov) }
      updTeam s tid fun tm => { tm with staged := mapIf (fun l => l.line == line) bad tm.staged }
    | .corrected _ => s
    | .counter page =>
      let mark := fun (m : MemState) (i : Nat) => addPoison m (64 * page + i) prov
      if (tierAt (4096 * page)).getD 0 == 0 then s else { s with mem := (List.range 64).foldl mark s.mem }
    | .unit _ => s

/-! ### Cores taken out (R268, R287, R355) -/

/-- A core's record. -/
def coreRec (s : State) (core : Nat) : CoreRec :=
  (s.plant.cores.find? fun x => x.logical == core).getD
    { logical := core, power := .on, idleSince := 0, out := false, lastSlot := 15 }

/-- The state with `f` applied to a core's record. -/
def updCore (s : State) (core : Nat) (f : CoreRec → CoreRec) : State :=
  let x := f (coreRec s core)
  { s with plant := { s.plant with cores := (s.plant.cores.filter fun y => y.logical != core) ++ [x] } }

/-- A handler strand that is lost with its core: its subjects' entries wait to be served again, and entries for its own
lanes are withdrawn. -/
def loseHandler (s : State) (tid : Nat) : State :=
  let back := fun (e : Entry) => match e.state with
    | .served t _ => t == tid
    | _ => false
  let s := { s with traps := { s.traps with pillow := mapIf back (fun e => { e with state := .filed }) s.traps.pillow } }
  let s := withdraw s fun e => e.subject.ofTeam tid
  { s with threads := s.threads.filter fun t => t.tid != tid
           strands := s.strands.filter fun x => x.tid != tid
           teams := s.teams.filter fun x => x.tid != tid
           mem := { s.mem with events := s.mem.events.filter fun e => e.tid != tid || e.kind != .load } }

/-- R268, R344, R371: a team loses its core: its launch ends with code 0x82, or the compensation team alone. -/
def loseTeam (s : State) (tid : Nat) : State :=
  match teamOf s tid with
  | none => s
  | some tm =>
    if tm.state == .ended then s
    else match tm.role with
      | .handler => loseHandler s tid
      | .compensation _ _ _ _ => endCompensation s tid 0x8000007F
      | .field => endLaunch s tm.launch 0x82 0 tm.key 0xFFFFFFFF 0

/-- What a core that goes out takes with it: its teams' launches, its L1 and its translations. -/
def loseCore (s : State) (core : Nat) : State :=
  let s := ((s.teams.filter fun tm => tm.place == some core).map (·.tid)).foldl loseTeam s
  { s with mem := { s.mem with l1 := s.mem.l1.filter fun x => x.core != core
                               tlb := s.mem.tlb.filter fun x => x.issuer != .core core } }

/-- R268, R287: a cluster goes out whole; its uncompleted copy commands are reported lost, and its stream commands go. -/
def clusterOut (s : State) (die cluster : Nat) : State :=
  let mine := allCores.filter fun c => clusterOf s c = ⟨die, cluster⟩
  let s := { s with plant := { s.plant with clustersOut := s.plant.clustersOut ++ [(die, cluster)] } }
  let s := mine.foldl loseCore s
  let lost := (s.eng.cmds.filter fun c => mine.contains c.core && c.queue == 0).map fun c =>
    Report.lostCopy c.launch c.sid (BitVec.ofNat 32 (fieldOf (c.sWord 3) 32 32))
  { s with eng := { s.eng with cmds := s.eng.cmds.filter fun c => !(mine.contains c.core && (c.queue == 0 || c.queue == 2)) }
           front := { s.front with reports := s.front.reports ++ lost }
           plant := { s.plant with clusterWords := s.plant.clusterWords.filter fun w => !(w.die == die && w.cluster == cluster) } }

/-- R268, R287: a core goes out; with a second one of its cluster, the cluster does. -/
def takeCoreOut (s : State) (core : Nat) : State :=
  let p := clusterOf s core
  let s := loseCore (updCore s core fun x => { x with out := true }) core
  let s := { s with eng := { s.eng with cmds := s.eng.cmds.filter fun c => !(c.core == core && c.queue == 2) } }
  if (liveCores s p.die p.cluster).length < 3 then clusterOut s p.die p.cluster else s

/-! ### Targeted self-test (R282, R355, R356) -/

/-- R355: a lasting fault raises a replace request. -/
def requestReplace (s : State) (u : TestUnit) : State :=
  { s with plant := { s.plant with health := s.plant.health ||| 1, replace := some u } }

/-- R355: a link is retired. -/
def retireLink (s : State) (n : Nat) : State :=
  let l := (s.fabric.links.find? fun x => x.number == n).getD { number := n, replays := 0, window := 0, retired := false }
  { s with fabric := { s.fabric with links := (s.fabric.links.filter fun x => x.number != n) ++ [{ l with retired := true }] } }

/-- R355: the result of a lasting fault. Frames of a retired region carry the record's provenance from then on. -/
def lastingFault (s : State) (u : TestUnit) (prov : BitVec 12) : State :=
  let s := requestReplace s u
  match u with
  | .core n => if coreOut s n then s else takeCoreOut s n
  | .clusterShared d c => if s.plant.clustersOut.contains (d, c) then s else clusterOut s d c
  | .memory base size =>
    { s with mem := { s.mem with retired := s.mem.retired ++ [(base / 64, (base % 64 + size + 63) / 64, prov)] } }
  | .link n => retireLink s n
  | .fatal => haltDevice s true

/-- The record that a test answers, untested so far. -/
def untested (s : State) (die rec : Nat) : Option ErrRecord :=
  s.plant.errors.find? fun e => e.die == die && e.index == rec && !e.tested

/-- R282: a machine check of the auditor names the core. -/
def auditNames (s : State) (u : TestUnit) : Bool :=
  match u with
  | .core n => s.traps.machineChecks.any fun m => m.length == 3 && (m.take 2).contains n
  | _ => false

/-- R355: the teams that a test of the unit stops first, and whether one of them has not yet stopped. -/
def unitTeams (s : State) (u : TestUnit) : List Team :=
  match u with
  | .core n => s.teams.filter fun tm => tm.place == some n && tm.role != .handler && (tm.state == .running || tm.state == .stopping)
  | _ => []

/-- R355: Krahal stops a team that runs. -/
def stopByRecord (s : State) (tid : Nat) : State :=
  match teamOf s tid with
  | some tm => if tm.state == .running then sendBind s (teamRecord s tm 2) else s
  | none => s

/-- R282, R355: TARGETED_SELF_TEST of the unit that a record or the auditor names. While a team runs on a core under test, the
test has it stopped. -/
def stepSelfTest (s : State) (die rec : Nat) (u : TestUnit) (pass : Bool) : State :=
  match (untested s die rec).filter fun e => e.unit = u, auditNames s u with
  | none, false => s
  | r, _ =>
    match unitTeams s u with
    | _ :: _ => ((unitTeams s u).map (·.tid)).foldl stopByRecord s
    | [] =>
      let mark := fun (e : ErrRecord) => { e with tested := true, transient := pass }
      let s := { s with plant := { s.plant with
        errors := mapIf (fun e => e.die == die && e.index == rec && !e.tested && e.unit = u) mark s.plant.errors } }
      let prov : BitVec 12 := match r with
        | some e => e.source ++ BitVec.ofNat 8 e.index
        | none => 0
      if pass then s else lastingFault s u prov

/-! ### Power (R357, R358) -/

/-- R358: a strand is parked: it waits at a commit or for the Pillow, it has stopped, or none of its paths is ready. -/
def strandParked (s : State) (st : Strand) : Bool :=
  st.commit.isSome || !st.parked.isEmpty || st.stop == .stopped || !(st.paths.any (pathReady s st.sid))

/-- R358: a strand of the core is ready. -/
def coreBusy (s : State) (core : Nat) : Bool :=
  s.strands.any fun st => st.core == core && !strandParked s st &&
    s.teams.any fun tm => tm.tid == st.tid && tm.place == some core

/-- R358: CLOCK_GATE: after 10,000 idle cycles. -/
def stepClockGate (s : State) (core : Nat) : State :=
  let x := coreRec s core
  if x.power == .on && !coreBusy s core && decide (x.idleSince + 10000 ≤ s.run.clock.toNat) then
    updCore s core fun x => { x with power := .clockGated }
  else s

/-- R358: POWER_GATE: after 500,000 idle cycles. The core's registers, buffers and shadow banks are kept. -/
def stepPowerGate (s : State) (core : Nat) : State :=
  let x := coreRec s core
  if x.power != .powerGated && !coreBusy s core && decide (x.idleSince + 500000 ≤ s.run.clock.toNat) then
    updCore s core fun x => { x with power := .powerGated }
  else s

/-- R358: CORE_WAKE: a ready strand wakes its core, and nothing else changes. -/
def stepCoreWake (s : State) (core : Nat) : State :=
  if (coreRec s core).power != .on && coreBusy s core then
    updCore s core fun x => { x with power := .on, idleSince := s.run.clock.toNat }
  else s

/-! ### The sweep (R103, R104, R367) -/

/-- R367: the frames of an address space's activities are swept with it. -/
def sweepFrames (s : State) (asid : BitVec 16) : State :=
  let clean := fun (c : Cap) => if staleCap s asid c then c.tagged false else c
  let frame := fun (f : SeamFrame) => { f with comp := clean f.comp, arg := clean f.arg }
  let entries := mapIf (fun a => a.asid == asid) (fun a => { a with frames := a.frames.map frame }) s.seams.entries
  let mine := (entries.filter fun a => a.asid == asid).flatMap (·.frames)
  { s with seams := { s.seams with entries := entries }, mem := mine.foldl keepFrame s.mem }

/-- R103, R367: SWEEP: the granule at an address of an address space loses the tag of a stale capability. The read and the
conditional clear are one step. -/
def stepSweep (s : State) (asid : BitVec 16) (granule : Nat) : State :=
  let s := sweepFrames s asid
  match pageLeaf s asid (granule / 4096) with
  | none => s
  | some (l, _) =>
    let pa := l.pa + (16 * granule - l.page * 65536)
    let s := drainReds s (lineOf pa)
    let c := capOfBytes (cellGets s.mem.cells pa 16) (tagAt s.mem pa)
    if staleCap s asid c then { s with mem := setTag s.mem (pa / 16) false } else s

/-! ### The re-cut of a partition (R329, R330, R333) -/

/-- R330: a world is idle. -/
def worldIdle (s : State) (world : Nat) : Bool :=
  !(s.teams.any fun tm => tm.world.toNat == world && tm.state != .created) && !(s.eng.cmds.any fun c => c.world.toNat == world) &&
    !(s.traps.pillow.any fun e => e.world.toNat == world)

/-- R330: the on-chip memory of a cluster zeroed. Buffers, tiles and staging lines go with their teams. -/
def scrubCluster (s : State) (die cluster : Nat) : State :=
  { s with mem := { s.mem with l1 := s.mem.l1.filter fun x => clusterOf s x.core != ⟨die, cluster⟩ }
           plant := { s.plant with clusterWords := s.plant.clusterWords.filter fun w => !(w.die == die && w.cluster == cluster) } }

/-- R329, R330: the L2 ways of the world that gives up its last cluster on a die, where it has no frames there either, are zeroed and
free. -/
def dropWays (s : State) (die cluster : Nat) : State :=
  match clusterOwner s die cluster with
  | none => s
  | some w =>
    let stays := (List.range 36).any fun c => c != cluster && clusterOwner s die c == some w
    let frames := s.front.frameWorld.any fun x => x.2 == w + 1 && x.1 / 0x10000 == die
    if stays || frames then s else { s with plant := { s.plant with ways := sput 0 s.plant.ways (256 * die + w) 0 } }

/-- R329, R330, R333: PARTITION_RECUT: a cluster passes to a world. Krahal refuses it unless the worlds concerned are idle and the
die's L2 has a way for the new owner. -/
def stepRecut (s : State) (die cluster world : Nat) : State :=
  let old := clusterOwner s die cluster
  let idle := match old with
    | some w => worldIdle s w
    | none => true
  if 8 ≤ die || 36 ≤ cluster || 256 ≤ world || !idle || !worldIdle s world then s
  else match giveWay (dropWays (scrubCluster s die cluster) die cluster) die world with
  | none => s
  | some s =>
    let s := { s with plant := { s.plant with clusterWorld := sput 0 s.plant.clusterWorld (64 * die + cluster) (world + 1) } }
    extendMeas s 4 (sha256 (bytesOfNat 1 die ++ bytesOfNat 1 cluster ++ bytesOfNat 1 world))

/-! ### Package reset (R320, R324, R333, R335, R336, R356) -/

/-- R324, R333, R335: PACKAGE_RESET. Fuses, drives, the device's identity, the root of trust's monotonic counters and a
dump already written stay; everything else is as after reset. -/
def stepReset (s : State) : State :=
  let r := State.reset
  let n := s.trust.resets + 1
  { r with
    run := { r.run with tick := s.run.tick, agenda := s.run.agenda }
    eng := { r.eng with drives := s.eng.drives, drivePages := s.eng.drivePages }
    trust := { r.trust with keys := [(0, { resetSlot0 with key := Config.freshKey n })], lifecycle := s.trust.fuseLifecycle
                            fuseLifecycle := s.trust.fuseLifecycle, devid := s.trust.devid
                            unlockCounter := s.trust.unlockCounter, sigIndex := s.trust.sigIndex, resets := n }
    plant := { r.plant with harvest := s.plant.harvest, dumped := s.plant.dumped, dump := s.plant.dump } }

/-! ### Debug unlock (R335) and watch ranges (R163) -/

/-- R335: the token names this device, its lifecycle state and the unlock counter, and its signature verifies. -/
def tokenOk (s : State) (t : DebugToken) : Bool :=
  t.sigOk && t.devid == s.trust.devid && t.lifecycle == s.trust.lifecycle.toNat && t.counter == s.trust.unlockCounter

/-- R335 steps 1 to 3: DEBUG_UNLOCK: the token verifies, and every launch ends in error. -/
def stepUnlock (s : State) (t : DebugToken) : State :=
  if s.trust.unlocking || !tokenOk s t then s
  else
    let s := { s with trust := { s.trust with unlockCounter := s.trust.unlockCounter + 1, unlocking := true, unlockDigest := t.digest } }
    let key : TeamKey := { kind := 0, x := 0, y := 0, z := 0, stage := 0 }
    (s.front.launches.map (·.num)).foldl (fun s n => endLaunch s n 0x84 0 key 0xFFFFFFFF 0) s

/-- R335: every launch has ended with its completion, and nothing runs or is outstanding any more. -/
def unlockReady (s : State) : Bool :=
  s.trust.unlocking && (s.front.launches.all fun l => l.state = .ended) && !(s.teams.any fun tm => tm.state == .running || tm.state == .stopping) && s.eng.cmds.isEmpty && s.mem.events.isEmpty

/-- R335 step 3: a loaded key is zeroized. Its generation stays, so that lines written before do not verify again. -/
def zeroize (k : KeySlot) : KeySlot := if k.state == 1 then { k with state := 2, key := 0 } else k

/-- R335 steps 3 to 5: keys zeroized, partitions scrubbed, meas3 extended, and the port opens. -/
def stepPortOpen (s : State) : State :=
  if !unlockReady s then s
  else
    let s := { s with mem := { s.mem with l1 := [] }, plant := { s.plant with clusterWords := [] }
                      trust := { s.trust with keys := s.trust.keys.map fun x => (x.1, zeroize x.2) } }
    let s := extendMeas s 3 (sha256 (bytesOfNat 32 s.trust.unlockDigest.toNat))
    { s with trust := { s.trust with lifecycle := 2, portOpen := true, unlocking := false } }

/-- R163, R335: WATCH_RANGE_ARM: through the open debug port while csr.lifecycle reads 2. -/
def stepWatchArm (s : State) (lo hi : DWord) : State :=
  if s.trust.portOpen && s.trust.lifecycle == 2 then { s with traps := { s.traps with watch := s.traps.watch ++ [(lo, hi)] } } else s

end Sys2Proof.Machine
end

