-- ==== Sys2Proof/Machine/EventRows.lean ====
section
/-! DEFINITION. The meanings of the 74 events: the steps of the table that have no instruction word. An event whose condition
does not hold changes nothing. -/

namespace Sys2Proof.Machine

/-- R41: COMMIT: the strand is parked at a switch marker and RB has returned. -/
def stepCommit (s : State) (sid : Nat) : State :=
  match strandOf s sid with
  | some st => if st.commit = some .explicit && rbReturned st then commitStrand s sid else s
  | none => s

/-- R43: IMPLICIT_MARKER: the strand is parked at an implicit marker and RB has returned. -/
def stepImplicit (s : State) (sid : Nat) : State :=
  match strandOf s sid with
  | some st => if st.commit.isSome && st.commit != some .explicit && rbReturned st then commitStrand s sid else s
  | none => s

/-- R259, R345: Krahal writes a bind record of an op. -/
def bindOf (op : Nat) (r : BindRecord) (s : State) : State := if r.op == op then sendBind s r else s

/-- R41: A long instruction's result returns into the strand's return buffer. -/
def execLongResultReturn (sid entry : Nat) (s : State) : Out := .next (stepReturn s sid entry)

/-- R41: At a switch marker, once RB has returned, write all long results in issue order. -/
def execCommit (sid : Nat) (s : State) : Out := .next (stepCommit s sid)

/-- R43: A commit taken before an instruction issues, counting sr.implicit when forced by RB capacity. -/
def execImplicitMarker (sid : Nat) (s : State) : Out := .next (stepImplicit s sid)

/-- R159: A parked strand resumes when a Pillow entry frees. -/
def execPillowUnpark (sid : Nat) (s : State) : Out := .next (stepUnpark s sid)

/-- R164: The gather timeout of a group's oldest entry expires and a strand forms. -/
def execGatherTimeout (bank cause group : Nat) (s : State) : Out := .next (stepGather s bank cause group)

/-- R165: A waiting handler group is placed on a core when a slot frees. -/
def execHandlerStrandPlace (gid core : Nat) (s : State) : Out := .next (stepHandlerPlace s gid core)

/-- R172: The absence clock expires and filed members become straggling. -/
def execAbsenceExpiry (sid : Nat) (frame : Option Nat) (s : State) : Out := .next (stepAbsence s sid frame)

/-- R174: A straggler waiting for a slot starts when one frees. -/
def execStragglerStart (tid rank : Nat) (s : State) : Out := .next (stepStraggler s tid rank)

/-- R62: At its matching join a fresh strand waits for commands, then returns its threads home. -/
def execFreshStrandReturn (sid : Nat) (s : State) : Out := .next (stepFreshReturn s sid)

/-- R203: After waiting for its commands, the team returns to its checkpoint. -/
def execRollback (tid : Nat) (s : State) : Out := .next (stepRollback s tid)

/-- R305: An unstaged store is applied at its point of coherence. -/
def execApply (ev : Nat) (s : State) : Out := .next (stepApply s ev)

/-- R305: The core's L1 takes a copy of a line. -/
def execFill (core line : Nat) (s : State) : Out := .next (stepFill s core line)

/-- R305: An L1 copy of a line is dropped. -/
def execEvict (core line : Nat) (s : State) : Out := .next (stepEvict s core line)

/-- R305: A load takes bytes from its team's staged line. -/
def execReadStaged (ev : Nat) (s : State) : Out := .next (stepReadStaged s ev)

/-- R305: A load takes bytes from the core's L1 copy. -/
def execReadL1 (ev : Nat) (s : State) : Out := .next (stepReadL1 s ev)

/-- R305: A load takes bytes now at the point of coherence. -/
def execReadPoc (ev : Nat) (s : State) : Out := .next (stepReadPoc s ev)

/-- R305: An atomic, cas or reduction reads and writes its word at the point of coherence. -/
def execModify (ev : Nat) (s : State) : Out := .next (stepModify s ev)

/-- R143: A waiting ldo.fe lane takes its word once it is full. -/
def execFeWaitTake (sid rank : Nat) (s : State) : Out := .next (stepFeTake s sid rank)

/-- R143: A waiting sto.fill lane fills its word once it is empty. -/
def execFeWaitFill (sid rank : Nat) (s : State) : Out := .next (stepFeFill s sid rank)

/-- R191: The copy engine performs a four-word copy command. -/
def execCopy (cid : Nat) (s : State) : Out := .next (stepCopy s cid)

/-- R226: The stream unit performs a stream command. -/
def execStream (cid : Nat) (s : State) : Out := .next (stepStream s cid)

/-- R195: An engine writes a command's completion record and barrier signals. -/
def execComplete (cid : Nat) (s : State) : Out := .next (stepComplete s cid)

/-- R305: The layout cache takes a copy of a layout record. -/
def execLayoutFill (rec : Nat) (s : State) : Out := .next (stepLayoutFill s rec)

/-- R353: The storage port reads and verifies pages from a drive. -/
def execStorageRead (cid : Nat) (mediaError : Bool) (s : State) : Out := .next (stepStorage s cid true mediaError)

/-- R353: The storage port encrypts and writes pages to a drive. -/
def execStorageWrite (cid : Nat) (mediaError : Bool) (s : State) : Out := .next (stepStorage s cid false mediaError)

/-- R319: A fabric packet leaves its port. -/
def execSend (serial : Nat) (s : State) : Out := .next (stepSend s serial)

/-- R319: A fabric packet is applied at its target. -/
def execDeliver (p : Packet) (s : State) : Out := .next (stepDeliver s p)

/-- R295: A held orphaned reduction is filed when a Pillow entry frees. -/
def execOrphanDeferredFile (index : Nat) (s : State) : Out := .next (stepDeferredFile s index)

/-- R398: A collective allreduce over the roster's members. -/
def execAllreduce (cid : Nat) (others : List (Nat × List Byte)) (s : State) : Out := .next (stepAllreduce s cid others)

/-- R398: A collective broadcast of the root's bytes. -/
def execBroadcast (cid : Nat) (root : List Byte) (s : State) : Out := .next (stepBroadcast s cid root)

/-- R398: A collective barrier across members. -/
def execNetBarrier (cid : Nat) (s : State) : Out := .next (stepNetBarrier s cid)

/-- R342: The seed places a team once its chained predecessor has published. -/
def execSeedPlace (launch : Nat) (s : State) : Out := .next (stepSeedPlace s launch)

/-- R317: A team's completion event is published as a dev-scope release. -/
def execTeamCompletion (tid : Nat) (s : State) : Out := .next (stepTeamCompletion s tid)

/-- R281: A sampled team is replayed and its store signature compared. -/
def execAuditReplay (index : Nat) (signature : DWord) (coreNo : Nat) (s : State) : Out := .next (stepAudit s index signature coreNo)

/-- R281: A replay not started within 1 s is dropped and counted. -/
def execAuditReplayDrop (index : Nat) (s : State) : Out := .next (stepAuditDrop s index)

/-- R359: A wait longer than the hang threshold files a cause 0x48 entry. -/
def execHangReport (launch : Nat) (s : State) : Out := .next (stepHang s launch)

/-- R348: A stop request reaches each strand of a team. -/
def execPreemptRequest (tid : Nat) (s : State) : Out := .next (stepPreempt s tid)

/-- R348: After 30,000 cycles a strand stops before its next issue. -/
def execPreemptTimeout (sid : Nat) (s : State) : Out := .next (stepPreemptTimeout s sid)

/-- R205: A stopped team is checkpointed and saved after its commands complete. -/
def execTeamSave (tid : Nat) (s : State) : Out := .next (stepTeamSave s tid)

/-- R345: The leaf controller places a team as a bind record says. -/
def execBindPlace (r : BindRecord) (s : State) : Out := .next (bindOf 1 r s)

/-- R345: The leaf controller stops a team. -/
def execBindStop (r : BindRecord) (s : State) : Out := .next (bindOf 2 r s)

/-- R350: A saved team is restored onto named slots. -/
def execBindResume (r : BindRecord) (s : State) : Out := .next (bindOf 3 r s)

/-- R345: The leaf controller releases slots. -/
def execBindRelease (r : BindRecord) (s : State) : Out := .next (bindOf 4 r s)

/-- R259: A send permit returns and a held message is sent. -/
def execLinkPermitReturn (die cluster : Nat) (toHead : Bool) (s : State) : Out := .next (stepPermitReturn s die cluster toHead)

/-- R337: A notify write makes firmware take ring entries up to the new tail. -/
def execNotify (vf : Nat) (tail : DWord) (s : State) : Out := .next (stepNotify s vf tail)

/-- R338: Load and check an image, returning an image handle. -/
def execRingLoad (vf : Nat) (img : Image) (s : State) : Out := .next (stepRingLoad s vf img)

/-- R338: Begin a launch of a launch record. -/
def execRingStart (vf : Nat) (s : State) : Out := .next (stepRingStart s vf)

/-- R338: Free an image with no live launch. -/
def execRingUnload (vf : Nat) (s : State) : Out := .next (stepRingUnload s vf)

/-- R338: End a running launch with code 0x84. -/
def execRingCancel (vf : Nat) (s : State) : Out := .next (stepRingCancel s vf)

/-- R336: A host write to ring base or ring size, or an ignored write. -/
def execVcpRegisterWrite (vf off : Nat) (value : DWord) (s : State) : Out := .next (stepVcpWrite s vf off value)

/-- R339: A function-level reset cancels the VF's launches and resets the ring. -/
def execFlr (vf : Nat) (s : State) : Out := .next (stepFlr s vf)

/-- R339: The FLR completes when no launch of the VF is live. -/
def execFlrComplete (vf : Nat) (s : State) : Out := .next (stepFlrComplete s vf)

/-- R278: An uncorrectable error poisons data and writes an error record. -/
def execUncorrectableError (die : Nat) (source : BitVec 4) (site : ErrorSite) (s : State) : Out := .next (stepError s die source site)

/-- R355: Firmware tests the unit named by an error record. -/
def execTargetedSelfTest (die rec : Nat) (u : TestUnit) (pass : Bool) (s : State) : Out := .next (stepSelfTest s die rec u pass)

/-- R357: A supply droop stretches the compute clock. -/
def execClockStretch (_ : Nat) (s : State) : Out := .next s

/-- R358: A core idle for 10,000 cycles is clock-gated. -/
def execClockGate (core : Nat) (s : State) : Out := .next (stepClockGate s core)

/-- R358: A core idle for 500,000 cycles is power-gated in retention. -/
def execPowerGate (core : Nat) (s : State) : Out := .next (stepPowerGate s core)

/-- R358: An event that readies a strand wakes a gated core. -/
def execCoreWake (core : Nat) (s : State) : Out := .next (stepCoreWake s core)

/-- R103: The background sweep conditionally clears a stale capability's tag. -/
def execSweep (asid : BitVec 16) (granule : Nat) (s : State) : Out := .next (stepSweep s asid granule)

/-- R324: Package reset empties key slots, fills slot 0 and zeroes measurements. -/
def execPackageReset (s : State) : Out := .next (stepReset s)

/-- R335: A presented token opens the debug port after verification and scrub. -/
def execDebugUnlock (token : DebugToken) (s : State) : Out := .next (stepUnlock s token)

/-- R330: Krahal re-cuts an idle partition after zeroing its state. -/
def execPartitionRecut (die cluster world : Nat) (s : State) : Out := .next (stepRecut s die cluster world)

/-- R368: The next frame's compensation team is spawned in the owner launch. -/
def execCompensationSpawn (index : Nat) (s : State) : Out := .next (stepCompSpawn s index)

/-- R389: A flit failing its CRC is sent again from the replay buffer. -/
def execFlitReplay (link : Nat) (s : State) : Out := .next (stepFlitReplay s link)

/-- R393: Outstanding accesses to an unreachable target end with poison or status 11. -/
def execTargetUnreachable (pkg : BitVec 9) (s : State) : Out := .next (stepUnreachable s pkg)

/-- R400: A member accepts or rejects a received lease. -/
def execLeaseReceive (lease : Lease) (s : State) : Out := .next (stepLeaseReceive s lease)

/-- R400: Lifetime T passes without renewal and the lease is lost. -/
def execLeaseLost (s : State) : Out := .next (stepLeaseLost s)

/-- R400: The leader renews its lease every T/2. -/
def execLeaseRenew (s : State) : Out := .next (stepLeaseRenew s)

/-- R401: A package without a live lease claims leadership. -/
def execLeaderClaim (reached : List (BitVec 128)) (s : State) : Out := .next (stepLeaderClaim s reached)

/-- R402: A member receives, verifies and measures boot images. -/
def execImageReceive (krahal preder : BitVec 256) (sigOk : Bool) (s : State) : Out := .next (stepImageReceive s krahal preder sigOk)

/-- R396: A roster slot write starts a new epoch. -/
def execRosterWrite (slot : Nat) (r : RosterRec) (s : State) : Out := .next (stepRosterWrite s slot r)

/-- R396: A member's fresh quote is verified for admission. -/
def execAdmission (slot member : Nat) (digest : BitVec 256) (quoteOk : Bool) (s : State) : Out := .next (stepAdmission s slot member digest quoteOk)

/-- R399: A lost member fails pending collectives and reforms the group. -/
def execMemberLost (slot member : Nat) (s : State) : Out := .next (stepMemberLost s slot member)

/-- R163: A watch range is armed through the debug port while csr.lifecycle reads 2, so that later overlapping lane accesses file cause 0x31. -/
def execWatchRangeArm (lo hi : DWord) (s : State) : Out := .next (stepWatchArm s lo hi)

end Sys2Proof.Machine
end

