-- ==== Sys2Proof/Machine/LaneAlu.lean ====
section
/-! DEFINITION. Integer lane arithmetic, predicates and moves (R106 to R116). The table of R112 lists borderline values of them. -/

namespace Sys2Proof.Machine

/-- R106: the 32-bit image of an integer clamped to the signed range. -/
def clampS32 (x : Int) : Word := BitVec.ofInt 32 (clampInt (-2147483648) 2147483647 x)

/-- R107: the shift amount of a register. -/
def shAmt (w : Word) : Nat := w.toNat % 32

/-- R107: rotation to the left. -/
def rotl (w : Word) (n : Nat) : Word := w.rotateLeft n

/-- R107 0x01.0. -/
def execAdd (g : Guard) (d a b : BitVec 6) (s : State) : Out := laneBin g d a b (fun x y => x + y) s
/-- R107 0x01.1. -/
def execSub (g : Guard) (d a b : BitVec 6) (s : State) : Out := laneBin g d a b (fun x y => x - y) s
/-- R107 0x01.2. -/
def execAddSatS32 (g : Guard) (d a b : BitVec 6) (s : State) : Out :=
  laneBin g d a b (fun x y => clampS32 (x.toInt + y.toInt)) s
/-- R107 0x01.3. -/
def execSubSatS32 (g : Guard) (d a b : BitVec 6) (s : State) : Out :=
  laneBin g d a b (fun x y => clampS32 (x.toInt - y.toInt)) s
/-- R107 0x02.0. -/
def execMinS32 (g : Guard) (d a b : BitVec 6) (s : State) : Out :=
  laneBin g d a b (fun x y => if x.toInt ≤ y.toInt then x else y) s
/-- R107 0x02.1. -/
def execMaxS32 (g : Guard) (d a b : BitVec 6) (s : State) : Out :=
  laneBin g d a b (fun x y => if y.toInt ≤ x.toInt then x else y) s
/-- R107 0x02.2. -/
def execMinN32 (g : Guard) (d a b : BitVec 6) (s : State) : Out :=
  laneBin g d a b (fun x y => if x.toNat ≤ y.toNat then x else y) s
/-- R107 0x02.3. -/
def execMaxN32 (g : Guard) (d a b : BitVec 6) (s : State) : Out :=
  laneBin g d a b (fun x y => if y.toNat ≤ x.toNat then x else y) s
/-- R107 0x03.0. -/
def execMulLo (g : Guard) (d a b : BitVec 6) (s : State) : Out := laneBin g d a b (fun x y => x * y) s
/-- R107 0x03.1: the upper half of the exact signed product. -/
def execMulHiS32 (g : Guard) (d a b : BitVec 6) (s : State) : Out :=
  laneBin g d a b (fun x y => BitVec.ofInt 32 (x.toInt * y.toInt / 2 ^ 32)) s
/-- R107 0x03.2. -/
def execMulHiN32 (g : Guard) (d a b : BitVec 6) (s : State) : Out :=
  laneBin g d a b (fun x y => BitVec.ofNat 32 (x.toNat * y.toNat / 2 ^ 32)) s
/-- R107 0x03.3. -/
def execMadLo (g : Guard) (d a b : BitVec 6) (s : State) : Out := laneAcc g d a b (fun z x y => z + x * y) s
/-- R107 0x04.0. -/
def execAnd (g : Guard) (d a b : BitVec 6) (s : State) : Out := laneBin g d a b (fun x y => x &&& y) s
/-- R107 0x04.1. -/
def execOr (g : Guard) (d a b : BitVec 6) (s : State) : Out := laneBin g d a b (fun x y => x ||| y) s
/-- R107 0x04.2. -/
def execXor (g : Guard) (d a b : BitVec 6) (s : State) : Out := laneBin g d a b (fun x y => x ^^^ y) s
/-- R107 0x04.3. -/
def execAndn (g : Guard) (d a b : BitVec 6) (s : State) : Out := laneBin g d a b (fun x y => x &&& ~~~y) s
/-- R107 0x05.0. -/
def execShl (g : Guard) (d a b : BitVec 6) (s : State) : Out := laneBin g d a b (fun x y => x <<< shAmt y) s
/-- R107 0x05.1. -/
def execShr (g : Guard) (d a b : BitVec 6) (s : State) : Out := laneBin g d a b (fun x y => x >>> shAmt y) s
/-- R107 0x05.2. -/
def execSar (g : Guard) (d a b : BitVec 6) (s : State) : Out := laneBin g d a b (fun x y => x.sshiftRight (shAmt y)) s
/-- R107 0x05.3. -/
def execRot (g : Guard) (d a b : BitVec 6) (s : State) : Out := laneBin g d a b (fun x y => rotl x (shAmt y)) s

/-! ### Bit counts (R108) -/

/-- The number of 1 bits. -/
def popcount {n : Nat} (w : BitVec n) : Nat := ((List.range n).filter w.getLsbD).length

/-- The number of 0 bits above the highest 1 bit. -/
def leadingZeros {n : Nat} (w : BitVec n) : Nat := if w.toNat == 0 then n else n - 1 - Nat.log2 w.toNat

/-- The number of 0 bits below the lowest 1 bit. -/
def trailingZeros {n : Nat} (w : BitVec n) : Nat := ((List.range n).find? w.getLsbD).getD n

/-- R108: bit i moved to bit 31 − i. -/
def reverseBits (w : Word) : Word :=
  (List.range 32).foldl (fun r i => if w.getLsbD i then r ||| (1#32 <<< (31 - i)) else r) 0

/-- R108 fn 0. -/
def execPopc (g : Guard) (d a : BitVec 6) (s : State) : Out := laneUn g d a (fun x => BitVec.ofNat 32 (popcount x)) s
/-- R108 fn 1. -/
def execClz (g : Guard) (d a : BitVec 6) (s : State) : Out := laneUn g d a (fun x => BitVec.ofNat 32 (leadingZeros x)) s
/-- R108 fn 2. -/
def execCtz (g : Guard) (d a : BitVec 6) (s : State) : Out := laneUn g d a (fun x => BitVec.ofNat 32 (trailingZeros x)) s
/-- R108 fn 3. -/
def execBrev (g : Guard) (d a : BitVec 6) (s : State) : Out := laneUn g d a reverseBits s

/-! ### Division (R68, R109) -/

/-- R109: a long division; `zero` is what dz_quiet gives for a zero divisor. -/
def laneDiv (g : Guard) (d a b : BitVec 6) (zero : Word → Word) (f : Word → Word → Word) (s : State) : Out :=
  laneLong s g (fun c => c.vOk [d.toNat, a.toNat, b.toNat]) fun _ _ t =>
    let x := t.getV a.toNat
    let y := t.getV b.toNat
    if y == 0 then
      if fpDzQuiet t.fpcsr then .ok [.v d.toNat (zero x)] else .bad (failure 0x21)
    else .ok [.v d.toNat (f x y)]

/-- R109 fn 0. -/
def execDivS32 (g : Guard) (d a b : BitVec 6) (s : State) : Out :=
  laneDiv g d a b (fun _ => 0xFFFFFFFF) (fun x y => BitVec.ofInt 32 (x.toInt.tdiv y.toInt)) s
/-- R109 fn 1. -/
def execDivN32 (g : Guard) (d a b : BitVec 6) (s : State) : Out :=
  laneDiv g d a b (fun _ => 0xFFFFFFFF) (fun x y => BitVec.ofNat 32 (x.toNat / y.toNat)) s
/-- R109 fn 2. -/
def execRemS32 (g : Guard) (d a b : BitVec 6) (s : State) : Out :=
  laneDiv g d a b (fun x => x) (fun x y => BitVec.ofInt 32 (x.toInt - x.toInt.tdiv y.toInt * y.toInt)) s
/-- R109 fn 3. -/
def execRemN32 (g : Guard) (d a b : BitVec 6) (s : State) : Out :=
  laneDiv g d a b (fun x => x) (fun x y => BitVec.ofNat 32 (x.toNat % y.toNat)) s

/-! ### Bit fields (R110) -/

/-- R110: the place of a control word's field. -/
def fieldPos (c : Word) : Nat := c.toNat % 32

/-- R110: the width of a control word's field. -/
def fieldWidth (c : Word) : Nat := min (c.toNat / 256 % 64) (32 - fieldPos c)

/-- R110 fn 0. -/
def execBfxN32 (g : Guard) (d a b : BitVec 6) (s : State) : Out :=
  laneBin g d a b (fun x y => BitVec.ofNat 32 (x.toNat / 2 ^ fieldPos y % 2 ^ fieldWidth y)) s
/-- R110 fn 1. -/
def execBfxS32 (g : Guard) (d a b : BitVec 6) (s : State) : Out :=
  laneBin g d a b (fun x y => if fieldWidth y == 0 then 0
    else BitVec.ofInt 32 (sextNat (fieldWidth y) (x.toNat / 2 ^ fieldPos y))) s
/-- R110 fn 2. -/
def execBfi (g : Guard) (d a b : BitVec 6) (s : State) : Out :=
  laneAcc g d a b (fun z x y =>
    let m : Word := BitVec.ofNat 32 ((2 ^ fieldWidth y - 1) * 2 ^ fieldPos y)
    (z &&& ~~~m) ||| ((x <<< fieldPos y) &&& m)) s
/-- R110 fn 3. -/
def execAbsS32 (g : Guard) (d a : BitVec 6) (s : State) : Out := laneUn g d a (fun x => if x.getLsbD 31 then -x else x) s

/-! ### Immediates (R111, R116) -/

/-- R111 0x09. -/
def execAddi (g : Guard) (d a : BitVec 6) (i : BitVec 8) (s : State) : Out := laneUn g d a (fun x => x + sx32 i) s
/-- R111 0x0A. -/
def execAndi (g : Guard) (d a : BitVec 6) (i : BitVec 8) (s : State) : Out := laneUn g d a (fun x => x &&& sx32 i) s
/-- R111 0x0B. -/
def execOri (g : Guard) (d a : BitVec 6) (i : BitVec 8) (s : State) : Out := laneUn g d a (fun x => x ||| zx32 i) s
/-- R111 0x0C. -/
def execXori (g : Guard) (d a : BitVec 6) (i : BitVec 8) (s : State) : Out := laneUn g d a (fun x => x ^^^ zx32 i) s
/-- R111 0x0D.0. -/
def execShlImm (g : Guard) (d a : BitVec 6) (i : BitVec 5) (s : State) : Out := laneUn g d a (fun x => x <<< i.toNat) s
/-- R111 0x0D.1. -/
def execShrImm (g : Guard) (d a : BitVec 6) (i : BitVec 5) (s : State) : Out := laneUn g d a (fun x => x >>> i.toNat) s
/-- R111 0x0D.2. -/
def execSarImm (g : Guard) (d a : BitVec 6) (i : BitVec 5) (s : State) : Out :=
  laneUn g d a (fun x => x.sshiftRight i.toNat) s
/-- R111 0x0D.3. -/
def execRotImm (g : Guard) (d a : BitVec 6) (i : BitVec 5) (s : State) : Out := laneUn g d a (fun x => rotl x i.toNat) s
/-- R116. -/
def execLdi (g : Guard) (d : BitVec 6) (i : BitVec 14) (s : State) : Out :=
  laneShort s g (fun c => c.vOk [d.toNat]) fun _ _ _ => .ok [.v d.toNat (sx32 i)]

/-! ### Compares, predicates and moves (R113 to R115) -/

/-- R113: an operand read as s32 (0) or n32 (1). -/
def icmpVal (t : BitVec 2) (w : Word) : Int := if t == 0 then w.toInt else (w.toNat : Int)

/-- R113 icmp. -/
def execIcmp (g : Guard) (p c : BitVec 3) (a b : BitVec 6) (t : BitVec 2) (s : State) : Out :=
  laneCmp g p a b (fun x y => relation c.toNat (icmpVal t x) (icmpVal t y)) s
/-- R113 icmpi. -/
def execIcmpi (g : Guard) (p c : BitVec 3) (a i : BitVec 6) (t : BitVec 2) (s : State) : Out :=
  laneShort s g (fun c => c.vOk [a.toNat]) fun _ _ th =>
    .ok [.p p.toNat (relation c.toNat (icmpVal t (th.getV a.toNat)) (if t == 0 then i.toInt else (i.toNat : Int)))]
/-- R114 fn 0. -/
def execMov (g : Guard) (d a : BitVec 6) (s : State) : Out := laneUn g d a (fun x => x) s
/-- R114 fn 1. -/
def execBcast (g : Guard) (d a : BitVec 6) (s : State) : Out :=
  laneShort s g (fun c => c.vOk [d.toNat]) fun c _ _ => .ok [.v d.toNat ((c.st.getS a.toNat).setWidth 32)]
/-- R114 fn 2: p0 reads 1. -/
def execMovp (g : Guard) (d : BitVec 6) (s : State) : Out :=
  laneShort s g (fun c => c.vOk [d.toNat]) fun _ _ t => .ok [.v d.toNat ((t.p ||| 1).setWidth 32)]
/-- R114 fn 3. -/
def execMvp (g : Guard) (a : BitVec 6) (s : State) : Out :=
  laneShort s g (fun c => c.vOk [a.toNat]) fun _ _ t =>
    .ok ((List.range 7).map fun i => .p (i + 1) ((t.getV a.toNat).getLsbD (i + 1)))
/-- R115 op 0. -/
def execPand (g : Guard) (d a b : BitVec 3) (x y : BitVec 1) (s : State) : Out := lanePred g d a b x y (fun u w => u && w) s
/-- R115 op 1. -/
def execPor (g : Guard) (d a b : BitVec 3) (x y : BitVec 1) (s : State) : Out := lanePred g d a b x y (fun u w => u || w) s
/-- R115 op 2. -/
def execPxor (g : Guard) (d a b : BitVec 3) (x y : BitVec 1) (s : State) : Out := lanePred g d a b x y (fun u w => u ^^ w) s
/-- R115 op 3. -/
def execPandn (g : Guard) (d a b : BitVec 3) (x y : BitVec 1) (s : State) : Out := lanePred g d a b x y (fun u w => u && !w) s

end Sys2Proof.Machine
end

