-- ==== Sys2Proof/Machine/Special.lean ====
section
/-! DEFINITION. The special functions (R122, R123): the exact value rounded once to nearest even.

A value is computed in fixed point with 340 fractional bits and taken as lying strictly between two neighbours of that
grid where it is not exact; the exact cases are R123's and the dyadic ones of frcp, frsq, fsqrt, fexp2 and flog2. The
rounding is right as long as no irrational value lies closer to a rounding boundary of f32 than that grid resolves.
DEDUCED 12. -/

namespace Sys2Proof.Machine

/-- Fractional bits of the fixed-point values. -/
def fxBits : Nat := 340

/-- 1 in fixed point. -/
def fxOne : Nat := 2 ^ fxBits

/-- ln 2 in fixed point, rounded down. -/
def fxLn2 : Nat := 0xb17217f7d1cf79abc9e3b39803f2f6af40f343267298b62d8a0d175b8baafa2be7b876206debac9855955

/-- π in fixed point, rounded down. -/
def fxPi : Nat := 0x3243f6a8885a308d313198a2e03707344a4093822299f31d0082efa98ec4e6c89452821e638d01377be546

/-- Product of two fixed-point values. -/
def fxMul (a b : Nat) : Nat := a * b / fxOne

/-- Integer square root, by bits from 2^k down. -/
def isqrtBits : Nat → Nat → Nat → Nat
  | 0, _, r => r
  | k + 1, n, r => let t := r + 2 ^ k; isqrtBits k n (if t * t ≤ n then t else r)

/-- The greatest r with r·r ≤ n. -/
def isqrt (n : Nat) : Nat := isqrtBits (Nat.log2 n / 2 + 1) n 0

/-- exp t for 0 ≤ t < 1 by its series: `k` counts terms up, `term` is t^k / k!. -/
def fxExpSum : Nat → Nat → Nat → Nat → Nat → Nat
  | 0, _, _, _, acc => acc
  | n + 1, k, t, term, acc =>
    let next := fxMul term t / k
    fxExpSum n (k + 1) t next (acc + next)

/-- 2^f for a fixed-point f in [0, 1). -/
def fxExp2 (f : Nat) : Nat := fxExpSum 90 1 (fxMul f fxLn2) fxOne fxOne

/-- The series of atanh: `y2` is y², `p` is y^(2k+1). -/
def fxAtanhSum : Nat → Nat → Nat → Nat → Nat → Nat
  | 0, _, _, _, acc => acc
  | n + 1, k, y2, p, acc => fxAtanhSum n (k + 2) y2 (fxMul p y2) (acc + p / k)

/-- ln z for a fixed-point z in [1, 2). -/
def fxLn (z : Nat) : Nat :=
  let y := (z - fxOne) * fxOne / (z + fxOne)
  2 * fxAtanhSum 110 1 (fxMul y y) y 0

/-- The series of sine with its even terms' sum and odd terms' sum kept apart: `term` is t^k / k!. -/
def fxSinSum : Nat → Nat → Nat → Nat → Nat → Nat → Nat
  | 0, _, _, _, p, q => p - q
  | n + 1, k, t2, term, p, q =>
    let next := fxMul term t2 / (k * (k + 1))
    if n % 2 == 0 then fxSinSum n (k + 2) t2 next (p + next) q else fxSinSum n (k + 2) t2 next p (q + next)

/-- sin t for a fixed-point t in [0, π/2]. -/
def fxSin (t : Nat) : Nat := fxSinSum 60 2 (fxMul t t) t t 0

/-- cos t for a fixed-point t in [0, π/2]. -/
def fxCos (t : Nat) : Nat := fxSinSum 60 1 (fxMul t t) fxOne fxOne 0

/-- A positive value between `x` and the next point of the grid, rounded to f32: always inexact. -/
def roundOpen (neg : Bool) (x : Nat) : Nat × Flags := f32.round .rn neg (2 * x + 1) (-(fxBits : Int) - 1)

/-- m·2^e in fixed point, rounded down; m·2^e < 2^64. -/
def toFx (m : Nat) (e : Int) : Nat := (splitAt m e (-(fxBits : Int))).1

/-- 1 / x, x = m·2^e (R122). -/
def rcpMag (m : Nat) (e : Int) : Nat × Nat × Int :=
  let k := 64 + Nat.log2 m
  (2 ^ k / m, 2 ^ k % m, -e - k)

/-- The special results that no rounding makes: NaNs, infinities, zeros and domain errors (R78, R123). -/
def specialRaw (fn : Nat) (a : Nat) : Nat × Flags :=
  match f32.decode a with
  | .nan n => (f32.quiet n, nvIf (f32.signalling n))
  | .inf neg =>
    match fn with
    | 0 => (f32.signed neg 0, 0)
    | 1 => if neg then (f32.nan, fNV) else (0, 0)
    | 2 => if neg then (f32.nan, fNV) else (f32.inf, 0)
    | 3 => if neg then (0, 0) else (f32.inf, 0)
    | 4 => if neg then (f32.nan, fNV) else (f32.inf, 0)
    | 5 => (f32.nan, fNV)
    | 6 => (f32.nan, fNV)
    | _ => (f32.signed neg 0x3F800000, 0)
  | .fin neg m e =>
    if m == 0 then
      match fn with
      | 0 => (f32.signed neg f32.inf, fDZ)
      | 1 => (f32.signed neg f32.inf, fDZ)
      | 2 => (a, 0)
      | 3 => (0x3F800000, 0)
      | 4 => (f32.signed true f32.inf, fDZ)
      | 5 => (a, 0)
      | 6 => (0x3F800000, 0)
      | _ => (a, 0)
    else
      match fn with
      | 0 =>
        let (q, r, x) := rcpMag m e
        f32.round .rn neg (2 * q + (if r == 0 then 0 else 1)) (x - 1)
      | 1 =>
        if neg then (f32.nan, fNV)
        else
          -- x = m·2^e with e even: 1/√x = √(2^(2k) / m)·2^(−k − e/2)
          let (m, e) := if e % 2 == 0 then (m, e) else (2 * m, e - 1)
          let k := 64 + Nat.log2 m
          let y := isqrt (2 ^ (2 * k) / m)
          let open' := y * y * m != 2 ^ (2 * k)
          f32.round .rn false (2 * y + (if open' then 1 else 0)) (-(k : Int) - e / 2 - 1)
      | 2 =>
        if neg then (f32.nan, fNV)
        else
          let (m, e) := if e % 2 == 0 then (m, e) else (2 * m, e - 1)
          let y := isqrt (m * 2 ^ 128)
          let open' := y * y != m * 2 ^ 128
          f32.round .rn false (2 * y + (if open' then 1 else 0)) (e / 2 - 64 - 1)
      | 3 =>
        if topExp m e ≥ 10 then
          if neg then f32.round .rn false 1 (-2000) else f32.round .rn false 1 2000
        else
          let x := toFx m e
          let whole := x / fxOne
          let frac := x % fxOne
          if frac == 0 then f32.round .rn false 1 (if neg then -(whole : Int) else whole)
          else
            let (n, f) : Int × Nat := if neg then (-(whole : Int) - 1, fxOne - frac) else (whole, frac)
            f32.round .rn false (2 * fxExp2 f + 1) (n - fxBits - 1)
      | 4 =>
        if neg then (f32.nan, fNV)
        else
          let n := topExp m e
          if m == 2 ^ Nat.log2 m then f32.round .rn (decide (n < 0)) n.natAbs 0
          else
            let z := m * fxOne / 2 ^ Nat.log2 m
            let l : Int := n * (fxOne : Int) + ((fxLn z * fxOne / fxLn2 : Nat) : Int)
            roundOpen (decide (l < 0)) (if l < 0 then (-l).toNat - 1 else l.toNat)
      | 5 =>
        -- x mod 2 in half-turns
        if e ≥ 0 then (f32.signed neg 0, 0)
        else
          let t := toFx (m % 2 ^ (1 - e).toNat) e
          if t % fxOne == 0 then (f32.signed neg 0, 0)
          else
            let neg := neg ^^ decide (fxOne < t)
            let t := t % fxOne
            let t := if fxOne < 2 * t then fxOne - t else t
            if 2 * t == fxOne then (f32.signed neg 0x3F800000, 0) else roundOpen neg (fxSin (fxMul fxPi t))
      | 6 =>
        if e ≥ 0 then (f32.signed (e == 0 && m % 2 == 1) 0x3F800000, 0)
        else
          let t := toFx (m % 2 ^ (1 - e).toNat) e
          if t % fxOne == 0 then (f32.signed (t == fxOne) 0x3F800000, 0)
          else
            let t := if fxOne < t then 2 * fxOne - t else t
            let neg := decide (fxOne < 2 * t)
            let t := if fxOne < 2 * t then fxOne - t else t
            if 2 * t == fxOne then (0, 0) else roundOpen neg (fxCos (fxMul fxPi t))
      | _ =>
        if topExp m e ≥ 6 then roundOpen neg (fxOne - 1)
        else
          -- tanh x = (2^y − 1) / (2^y + 1), y = 2x / ln 2
          let y := 2 * toFx m e * fxOne / fxLn2
          let ex := 2 ^ (y / fxOne) * fxExp2 (y % fxOne)
          roundOpen neg ((ex - fxOne) * fxOne / (ex + fxOne))

/-- R122: a special function of an f32 code; operand and result follow R72 under ftz. -/
def special (ftz : Bool) (fn a : Nat) : Nat × Flags := f32.flushOut ftz (specialRaw fn (f32.flushIn ftz a))

end Sys2Proof.Machine
end

