-- ==== Sys2Proof/Machine/LaneFp.lean ====
section
/-! DEFINITION. Floating-point lane arithmetic, special functions, comparison, conversion and KN4 packing (R119 to R131). -/

namespace Sys2Proof.Machine

/-! ### Arithmetic (R119): elements [a, b, d] -/

/-- R119 fn 0 of a format. -/
def fpAdd (f : Fmt) (m : RMode) : List Nat → Nat × Flags
  | x :: y :: _ => f.add m x y
  | _ => (0, 0)
/-- R119 fn 1. -/
def fpSub (f : Fmt) (m : RMode) : List Nat → Nat × Flags
  | x :: y :: _ => f.sub m x y
  | _ => (0, 0)
/-- R119 fn 2. -/
def fpMul (f : Fmt) (m : RMode) : List Nat → Nat × Flags
  | x :: y :: _ => f.mul m x y
  | _ => (0, 0)
/-- R119 fn 3. -/
def fpFma (f : Fmt) (m : RMode) : List Nat → Nat × Flags
  | x :: y :: z :: _ => f.fma m x y z
  | _ => (0, 0)

/-- R119 0x14.0. -/
def execFaddF32 (g : Guard) (d a b : BitVec 6) (s : State) : Out := laneFp g f32 d a b (fpAdd f32) s
/-- R119 0x14.1. -/
def execFsubF32 (g : Guard) (d a b : BitVec 6) (s : State) : Out := laneFp g f32 d a b (fpSub f32) s
/-- R119 0x14.2. -/
def execFmulF32 (g : Guard) (d a b : BitVec 6) (s : State) : Out := laneFp g f32 d a b (fpMul f32) s
/-- R119 0x14.3. -/
def execFfmaF32 (g : Guard) (d a b : BitVec 6) (s : State) : Out := laneFp g f32 d a b (fpFma f32) s
/-- R119 0x15.0. -/
def execFaddF16x2 (g : Guard) (d a b : BitVec 6) (s : State) : Out := laneFp g f16 d a b (fpAdd f16) s
/-- R119 0x15.1. -/
def execFsubF16x2 (g : Guard) (d a b : BitVec 6) (s : State) : Out := laneFp g f16 d a b (fpSub f16) s
/-- R119 0x15.2. -/
def execFmulF16x2 (g : Guard) (d a b : BitVec 6) (s : State) : Out := laneFp g f16 d a b (fpMul f16) s
/-- R119 0x15.3. -/
def execFfmaF16x2 (g : Guard) (d a b : BitVec 6) (s : State) : Out := laneFp g f16 d a b (fpFma f16) s
/-- R119 0x16.0. -/
def execFaddBf16x2 (g : Guard) (d a b : BitVec 6) (s : State) : Out := laneFp g bf16 d a b (fpAdd bf16) s
/-- R119 0x16.1. -/
def execFsubBf16x2 (g : Guard) (d a b : BitVec 6) (s : State) : Out := laneFp g bf16 d a b (fpSub bf16) s
/-- R119 0x16.2. -/
def execFmulBf16x2 (g : Guard) (d a b : BitVec 6) (s : State) : Out := laneFp g bf16 d a b (fpMul bf16) s
/-- R119 0x16.3. -/
def execFfmaBf16x2 (g : Guard) (d a b : BitVec 6) (s : State) : Out := laneFp g bf16 d a b (fpFma bf16) s

/-! ### Minimum, maximum and sign (R120) -/

/-- R120: fmin or fmax, operands flushed under ftz. -/
def laneMinMax (g : Guard) (d a b : BitVec 6) (greater : Bool) (s : State) : Out :=
  laneShort s g (fun c => c.vOk [d.toNat, a.toNat, b.toNat]) fun _ _ t =>
    let ftz := fpFtz t.fpcsr
    let (r, fl) := f32.minmax greater (f32.flushIn ftz (t.getV a.toNat).toNat) (f32.flushIn ftz (t.getV b.toNat).toNat)
    fpResult t [.v d.toNat (BitVec.ofNat 32 r)] fl

/-- R120 fn 0. -/
def execFminF32 (g : Guard) (d a b : BitVec 6) (s : State) : Out := laneMinMax g d a b false s
/-- R120 fn 1. -/
def execFmaxF32 (g : Guard) (d a b : BitVec 6) (s : State) : Out := laneMinMax g d a b true s
/-- R120 fn 2. -/
def execFabsF32 (g : Guard) (d a : BitVec 6) (s : State) : Out := laneUn g d a (fun x => x &&& 0x7FFFFFFF) s
/-- R120 fn 3. -/
def execFnegF32 (g : Guard) (d a : BitVec 6) (s : State) : Out := laneUn g d a (fun x => x ^^^ 0x80000000) s

/-! ### Special functions (R122, R123) -/

/-- R122: a long special function by its number; the flags belong to the long result (R121). -/
def laneSpecial (g : Guard) (d a : BitVec 6) (fn : Nat) (s : State) : Out :=
  laneLong s g (fun c => c.vOk [d.toNat, a.toNat]) fun _ _ t =>
    let (r, fl) := special (fpFtz t.fpcsr) fn (t.getV a.toNat).toNat
    fpResult t [.v d.toNat (BitVec.ofNat 32 r)] fl

/-- R122 fnc 0. -/
def execFrcp (g : Guard) (d a : BitVec 6) (s : State) : Out := laneSpecial g d a 0 s
/-- R122 fnc 1. -/
def execFrsq (g : Guard) (d a : BitVec 6) (s : State) : Out := laneSpecial g d a 1 s
/-- R122 fnc 2. -/
def execFsqrt (g : Guard) (d a : BitVec 6) (s : State) : Out := laneSpecial g d a 2 s
/-- R122 fnc 3. -/
def execFexp2 (g : Guard) (d a : BitVec 6) (s : State) : Out := laneSpecial g d a 3 s
/-- R122 fnc 4. -/
def execFlog2 (g : Guard) (d a : BitVec 6) (s : State) : Out := laneSpecial g d a 4 s
/-- R122 fnc 5. -/
def execFsin (g : Guard) (d a : BitVec 6) (s : State) : Out := laneSpecial g d a 5 s
/-- R122 fnc 6. -/
def execFcos (g : Guard) (d a : BitVec 6) (s : State) : Out := laneSpecial g d a 6 s
/-- R122 fnc 7. -/
def execFtanh (g : Guard) (d a : BitVec 6) (s : State) : Out := laneSpecial g d a 7 s

/-! ### Rounding, comparison, classification (R124 to R126) -/

/-- R124: frnd in a mode. -/
def laneRnd (g : Guard) (d a : BitVec 6) (m : RMode) (s : State) : Out :=
  laneFpUn g d a (fun t x =>
    let ftz := fpFtz t.fpcsr
    f32.flushOut ftz (f32.roundIntegral m (f32.flushIn ftz x))) s

/-- R124 fn 0. -/
def execFrndRn (g : Guard) (d a : BitVec 6) (s : State) : Out := laneRnd g d a .rn s
/-- R124 fn 1. -/
def execFrndRz (g : Guard) (d a : BitVec 6) (s : State) : Out := laneRnd g d a .rz s
/-- R124 fn 2. -/
def execFrndRd (g : Guard) (d a : BitVec 6) (s : State) : Out := laneRnd g d a .rd s
/-- R124 fn 3. -/
def execFrndRu (g : Guard) (d a : BitVec 6) (s : State) : Out := laneRnd g d a .ru s

/-- R125: the type compared: f32, f16 or bf16. -/
def fcmpFmt (t : BitVec 2) : Fmt :=
  match t.toNat with
  | 0 => f32
  | 1 => f16
  | _ => bf16

/-- R125: fcmp. -/
def execFcmp (g : Guard) (p c : BitVec 3) (a b : BitVec 6) (t : BitVec 2) (s : State) : Out :=
  laneShort s g (fun c => c.vOk [a.toNat, b.toNat]) fun _ _ th =>
    let f := fcmpFmt t
    let rd := fun (w : Word) => f.flushIn (fpFtz th.fpcsr) (w.toNat % 2 ^ (f.sb + 1))
    let (r, fl) := f.compare c.toNat (rd (th.getV a.toNat)) (rd (th.getV b.toNat))
    fpResult th [.p p.toNat r] fl

/-- R126: fclass. -/
def execFclass (g : Guard) (d a : BitVec 6) (s : State) : Out :=
  laneUn g d a (fun x => BitVec.ofNat 32 (2 ^ f32.classBit x.toNat)) s

/-! ### Conversion (R127 to R129) -/

/-- How a conversion rounds: a fixed mode, the thread's mode, or stochastically. -/
inductive CvtMode where
  | fixed (m : RMode)
  | dyn
  | sr
  deriving DecidableEq, Repr

/-- One element of a conversion in a thread: result, flags and the generator afterwards (R77, R128). -/
def cvtElem (t : Thread) (m : CvtMode) (gen : Word) (dt st w : Nat) : Nat × Flags × Word :=
  let ftz := fpFtz t.fpcsr
  match m with
  | .fixed r => let (x, f) := convert ftz (.mode r) dt st w; (x, f, gen)
  | .dyn => let (x, f) := convert ftz (.mode (fpRm t.fpcsr)) dt st w; (x, f, gen)
  | .sr =>
    if convertDraws dt st then
      let g := advanceGen gen
      let (x, f) := convert ftz (.sr (g.toNat / 65536)) dt st w
      (x, f, g)
    else let (x, f) := convert ftz (.mode .rn) dt st w; (x, f, gen)

/-- R129: both types are f16 or bf16, so both halves convert. -/
def cvtPacked (dt st : Nat) : Bool := (dt == 7 || dt == 8) && (st == 7 || st == 8)

/-- R127 to R129: cvt. -/
def laneCvt (g : Guard) (d a : BitVec 6) (dt st : BitVec 4) (m : CvtMode) (s : State) : Out :=
  laneShort s g (fun c => c.vOk [d.toNat, a.toNat]) fun _ _ t =>
    let w := (t.getV a.toNat).toNat
    let (x, fl, gen) :=
      if cvtPacked dt.toNat st.toNat then
        let (lo, f0, g0) := cvtElem t m t.gen dt.toNat st.toNat (w % 65536)
        let (hi, f1, g1) := cvtElem t m g0 dt.toNat st.toNat (w / 65536)
        (hi * 65536 + lo, f0 ||| f1, g1)
      else cvtElem t m t.gen dt.toNat st.toNat w
    fpResult t [.v d.toNat (BitVec.ofNat 32 x), .gen gen] fl

/-- R127 rn. -/
def execCvtRn (g : Guard) (d a : BitVec 6) (dt st : BitVec 4) (s : State) : Out := laneCvt g d a dt st (.fixed .rn) s
/-- R127 rz. -/
def execCvtRz (g : Guard) (d a : BitVec 6) (dt st : BitVec 4) (s : State) : Out := laneCvt g d a dt st (.fixed .rz) s
/-- R128 sr. -/
def execCvtSr (g : Guard) (d a : BitVec 6) (dt st : BitVec 4) (s : State) : Out := laneCvt g d a dt st .sr s
/-- R127 dyn. -/
def execCvtDyn (g : Guard) (d a : BitVec 6) (dt st : BitVec 4) (s : State) : Out := laneCvt g d a dt st .dyn s

/-! ### KN4 packing (R130, R131) -/

/-- R130: kpack. -/
def execKpack (g : Guard) (d a : BitVec 6) (t : BitVec 2) (s : State) : Out :=
  laneShort s g (fun c => c.vOk [d.toNat, a.toNat, a.toNat + 1, a.toNat + 2, a.toNat + 3]) fun _ _ th =>
    let (group, scale, fl) := kn4Pack f32 t.toNat ((List.range 4).map fun i => (th.getV (a.toNat + i)).toNat)
    fpResult th [.v d.toNat (BitVec.ofNat 32 (scale * 65536 + group))] fl

/-- R131: kunpack. -/
def execKunpack (g : Guard) (d a : BitVec 6) (s : State) : Out :=
  laneShort s g (fun c => c.vOk [a.toNat, d.toNat, d.toNat + 1, d.toNat + 2, d.toNat + 3]) fun _ _ th =>
    let w := (th.getV a.toNat).toNat
    .ok ((List.range 4).map fun i => .v (d.toNat + i) (BitVec.ofNat 32 (kn4ToF32 (w / 65536 % 256) (w % 65536) i)))

end Sys2Proof.Machine
end

