-- ==== Sys2Proof/Machine/UniAlu.lean ====
section
/-! DEFINITION. Uniform arithmetic (R235 to R237). -/

namespace Sys2Proof.Machine

/-- R235: the shift amount of a uniform register. -/
def shAmt64 (w : DWord) : Nat := w.toNat % 64

/-- R235 fn 0. -/
def execUAdd (d a b : BitVec 6) (s : State) : Out := uniBin d a b (fun x y => x + y) s
/-- R235 fn 1. -/
def execUSub (d a b : BitVec 6) (s : State) : Out := uniBin d a b (fun x y => x - y) s
/-- R235 fn 2. -/
def execUMulLo (d a b : BitVec 6) (s : State) : Out := uniBin d a b (fun x y => x * y) s
/-- R235 fn 3. -/
def execUMulHiS64 (d a b : BitVec 6) (s : State) : Out :=
  uniBin d a b (fun x y => BitVec.ofInt 64 (x.toInt * y.toInt / 2 ^ 64)) s
/-- R235 fn 4. -/
def execUMulHiN64 (d a b : BitVec 6) (s : State) : Out :=
  uniBin d a b (fun x y => BitVec.ofNat 64 (x.toNat * y.toNat / 2 ^ 64)) s
/-- R235 fn 5. -/
def execUAnd (d a b : BitVec 6) (s : State) : Out := uniBin d a b (fun x y => x &&& y) s
/-- R235 fn 6. -/
def execUOr (d a b : BitVec 6) (s : State) : Out := uniBin d a b (fun x y => x ||| y) s
/-- R235 fn 7. -/
def execUXor (d a b : BitVec 6) (s : State) : Out := uniBin d a b (fun x y => x ^^^ y) s
/-- R235 fn 8. -/
def execUAndn (d a b : BitVec 6) (s : State) : Out := uniBin d a b (fun x y => x &&& ~~~y) s
/-- R235 fn 9. -/
def execUShl (d a b : BitVec 6) (s : State) : Out := uniBin d a b (fun x y => x <<< shAmt64 y) s
/-- R235 fn 10. -/
def execUShr (d a b : BitVec 6) (s : State) : Out := uniBin d a b (fun x y => x >>> shAmt64 y) s
/-- R235 fn 11. -/
def execUSar (d a b : BitVec 6) (s : State) : Out := uniBin d a b (fun x y => x.sshiftRight (shAmt64 y)) s
/-- R235 fn 12. -/
def execUMinS64 (d a b : BitVec 6) (s : State) : Out := uniBin d a b (fun x y => if x.toInt ≤ y.toInt then x else y) s
/-- R235 fn 13. -/
def execUMaxS64 (d a b : BitVec 6) (s : State) : Out := uniBin d a b (fun x y => if y.toInt ≤ x.toInt then x else y) s
/-- R235 fn 14. -/
def execUMinN64 (d a b : BitVec 6) (s : State) : Out := uniBin d a b (fun x y => if x.toNat ≤ y.toNat then x else y) s
/-- R235 fn 15. -/
def execUMaxN64 (d a b : BitVec 6) (s : State) : Out := uniBin d a b (fun x y => if y.toNat ≤ x.toNat then x else y) s
/-- R235 fn 16. -/
def execUPopc (d a : BitVec 6) (s : State) : Out := uniUn d a (fun x => BitVec.ofNat 64 (popcount x)) s
/-- R235 fn 17. -/
def execUClz (d a : BitVec 6) (s : State) : Out := uniUn d a (fun x => BitVec.ofNat 64 (leadingZeros x)) s
/-- R235 fn 18. -/
def execUCtz (d a : BitVec 6) (s : State) : Out := uniUn d a (fun x => BitVec.ofNat 64 (trailingZeros x)) s
/-- R236 0x02. -/
def execUAddi (d a : BitVec 6) (i : BitVec 12) (s : State) : Out := uniUn d a (fun x => x + sx64 i) s
/-- R236 0x03. -/
def execUOri (d a : BitVec 6) (i : BitVec 12) (s : State) : Out := uniUn d a (fun x => x ||| zx64 i) s
/-- R236 0x04. -/
def execUAndi (d a : BitVec 6) (i : BitVec 12) (s : State) : Out := uniUn d a (fun x => x &&& sx64 i) s
/-- R236 0x05. -/
def execUXori (d a : BitVec 6) (i : BitVec 12) (s : State) : Out := uniUn d a (fun x => x ^^^ zx64 i) s
/-- R236 0x06.0. -/
def execUShlImm (d a : BitVec 6) (i : BitVec 6) (s : State) : Out := uniUn d a (fun x => x <<< i.toNat) s
/-- R236 0x06.1. -/
def execUShrImm (d a : BitVec 6) (i : BitVec 6) (s : State) : Out := uniUn d a (fun x => x >>> i.toNat) s
/-- R236 0x06.2. -/
def execUSarImm (d a : BitVec 6) (i : BitVec 6) (s : State) : Out := uniUn d a (fun x => x.sshiftRight i.toNat) s
/-- R236 0x06.3. -/
def execURotImm (d a : BitVec 6) (i : BitVec 6) (s : State) : Out := uniUn d a (fun x => x.rotateLeft i.toNat) s
/-- R237: the register with halfword `h` written, the bits above it clear. -/
def luiValue (old : DWord) (h : Nat) (i : BitVec 16) : DWord :=
  BitVec.ofNat 64 (i.toNat * 2 ^ (16 * h) + old.toNat % 2 ^ (16 * h))
/-- R237. -/
def execLui (d : BitVec 6) (h : BitVec 2) (i : BitVec 16) (s : State) : Out := uniUn d d (fun x => luiValue x h.toNat i) s

end Sys2Proof.Machine
end

