-- ==== Sys2Proof/Machine/Dispatch.lean ====
section
/-! DEFINITION. The dispatch: one arm for each step of the table, a direct call of its meaning. -/

namespace Sys2Proof.Machine

/-- The meaning of a step of the table. -/
def exec (i : Instr) (s : State) : Host.Outcome State Fault Refusal :=
  match i with
  | .add g d a b => Sys2Proof.Machine.execAdd g d a b s
  | .sub g d a b => Sys2Proof.Machine.execSub g d a b s
  | .addSatS32 g d a b => Sys2Proof.Machine.execAddSatS32 g d a b s
  | .subSatS32 g d a b => Sys2Proof.Machine.execSubSatS32 g d a b s
  | .minS32 g d a b => Sys2Proof.Machine.execMinS32 g d a b s
  | .maxS32 g d a b => Sys2Proof.Machine.execMaxS32 g d a b s
  | .minN32 g d a b => Sys2Proof.Machine.execMinN32 g d a b s
  | .maxN32 g d a b => Sys2Proof.Machine.execMaxN32 g d a b s
  | .mulLo g d a b => Sys2Proof.Machine.execMulLo g d a b s
  | .mulHiS32 g d a b => Sys2Proof.Machine.execMulHiS32 g d a b s
  | .mulHiN32 g d a b => Sys2Proof.Machine.execMulHiN32 g d a b s
  | .madLo g d a b => Sys2Proof.Machine.execMadLo g d a b s
  | .and g d a b => Sys2Proof.Machine.execAnd g d a b s
  | .or g d a b => Sys2Proof.Machine.execOr g d a b s
  | .xor g d a b => Sys2Proof.Machine.execXor g d a b s
  | .andn g d a b => Sys2Proof.Machine.execAndn g d a b s
  | .shl g d a b => Sys2Proof.Machine.execShl g d a b s
  | .shr g d a b => Sys2Proof.Machine.execShr g d a b s
  | .sar g d a b => Sys2Proof.Machine.execSar g d a b s
  | .rot g d a b => Sys2Proof.Machine.execRot g d a b s
  | .popc g d a => Sys2Proof.Machine.execPopc g d a s
  | .clz g d a => Sys2Proof.Machine.execClz g d a s
  | .ctz g d a => Sys2Proof.Machine.execCtz g d a s
  | .brev g d a => Sys2Proof.Machine.execBrev g d a s
  | .divS32 g d a b => Sys2Proof.Machine.execDivS32 g d a b s
  | .divN32 g d a b => Sys2Proof.Machine.execDivN32 g d a b s
  | .remS32 g d a b => Sys2Proof.Machine.execRemS32 g d a b s
  | .remN32 g d a b => Sys2Proof.Machine.execRemN32 g d a b s
  | .bfxN32 g d a b => Sys2Proof.Machine.execBfxN32 g d a b s
  | .bfxS32 g d a b => Sys2Proof.Machine.execBfxS32 g d a b s
  | .bfi g d a b => Sys2Proof.Machine.execBfi g d a b s
  | .absS32 g d a => Sys2Proof.Machine.execAbsS32 g d a s
  | .addi g d a imm => Sys2Proof.Machine.execAddi g d a imm s
  | .andi g d a imm => Sys2Proof.Machine.execAndi g d a imm s
  | .ori g d a imm => Sys2Proof.Machine.execOri g d a imm s
  | .xori g d a imm => Sys2Proof.Machine.execXori g d a imm s
  | .shlImm g d a imm => Sys2Proof.Machine.execShlImm g d a imm s
  | .shrImm g d a imm => Sys2Proof.Machine.execShrImm g d a imm s
  | .sarImm g d a imm => Sys2Proof.Machine.execSarImm g d a imm s
  | .rotImm g d a imm => Sys2Proof.Machine.execRotImm g d a imm s
  | .icmp g p c a b t => Sys2Proof.Machine.execIcmp g p c a b t s
  | .icmpi g p c a imm t => Sys2Proof.Machine.execIcmpi g p c a imm t s
  | .mov g d a => Sys2Proof.Machine.execMov g d a s
  | .bcast g d a => Sys2Proof.Machine.execBcast g d a s
  | .movp g d => Sys2Proof.Machine.execMovp g d s
  | .mvp g a => Sys2Proof.Machine.execMvp g a s
  | .pand g d a b x y => Sys2Proof.Machine.execPand g d a b x y s
  | .por g d a b x y => Sys2Proof.Machine.execPor g d a b x y s
  | .pxor g d a b x y => Sys2Proof.Machine.execPxor g d a b x y s
  | .pandn g d a b x y => Sys2Proof.Machine.execPandn g d a b x y s
  | .ldi g d imm => Sys2Proof.Machine.execLdi g d imm s
  | .rdsr g d r => Sys2Proof.Machine.execRdsr g d r s
  | .faddF32 g d a b => Sys2Proof.Machine.execFaddF32 g d a b s
  | .fsubF32 g d a b => Sys2Proof.Machine.execFsubF32 g d a b s
  | .fmulF32 g d a b => Sys2Proof.Machine.execFmulF32 g d a b s
  | .ffmaF32 g d a b => Sys2Proof.Machine.execFfmaF32 g d a b s
  | .faddF16x2 g d a b => Sys2Proof.Machine.execFaddF16x2 g d a b s
  | .fsubF16x2 g d a b => Sys2Proof.Machine.execFsubF16x2 g d a b s
  | .fmulF16x2 g d a b => Sys2Proof.Machine.execFmulF16x2 g d a b s
  | .ffmaF16x2 g d a b => Sys2Proof.Machine.execFfmaF16x2 g d a b s
  | .faddBf16x2 g d a b => Sys2Proof.Machine.execFaddBf16x2 g d a b s
  | .fsubBf16x2 g d a b => Sys2Proof.Machine.execFsubBf16x2 g d a b s
  | .fmulBf16x2 g d a b => Sys2Proof.Machine.execFmulBf16x2 g d a b s
  | .ffmaBf16x2 g d a b => Sys2Proof.Machine.execFfmaBf16x2 g d a b s
  | .fminF32 g d a b => Sys2Proof.Machine.execFminF32 g d a b s
  | .fmaxF32 g d a b => Sys2Proof.Machine.execFmaxF32 g d a b s
  | .fabsF32 g d a => Sys2Proof.Machine.execFabsF32 g d a s
  | .fnegF32 g d a => Sys2Proof.Machine.execFnegF32 g d a s
  | .frcp g d a => Sys2Proof.Machine.execFrcp g d a s
  | .frsq g d a => Sys2Proof.Machine.execFrsq g d a s
  | .fsqrt g d a => Sys2Proof.Machine.execFsqrt g d a s
  | .fexp2 g d a => Sys2Proof.Machine.execFexp2 g d a s
  | .flog2 g d a => Sys2Proof.Machine.execFlog2 g d a s
  | .fsin g d a => Sys2Proof.Machine.execFsin g d a s
  | .fcos g d a => Sys2Proof.Machine.execFcos g d a s
  | .ftanh g d a => Sys2Proof.Machine.execFtanh g d a s
  | .frndRn g d a => Sys2Proof.Machine.execFrndRn g d a s
  | .frndRz g d a => Sys2Proof.Machine.execFrndRz g d a s
  | .frndRd g d a => Sys2Proof.Machine.execFrndRd g d a s
  | .frndRu g d a => Sys2Proof.Machine.execFrndRu g d a s
  | .fcmp g p c a b t => Sys2Proof.Machine.execFcmp g p c a b t s
  | .fclass g d a => Sys2Proof.Machine.execFclass g d a s
  | .cvtRn g d a t u => Sys2Proof.Machine.execCvtRn g d a t u s
  | .cvtRz g d a t u => Sys2Proof.Machine.execCvtRz g d a t u s
  | .cvtSr g d a t u => Sys2Proof.Machine.execCvtSr g d a t u s
  | .cvtDyn g d a t u => Sys2Proof.Machine.execCvtDyn g d a t u s
  | .kpack g d a t => Sys2Proof.Machine.execKpack g d a t s
  | .kunpack g d a => Sys2Proof.Machine.execKunpack g d a s
  | .ld g d c z o => Sys2Proof.Machine.execLd g d c z o s
  | .st g d c z o => Sys2Proof.Machine.execSt g d c z o s
  | .ldoRlx g d c z k => Sys2Proof.Machine.execLdoRlx g d c z k s
  | .ldoAcq g d c z k => Sys2Proof.Machine.execLdoAcq g d c z k s
  | .ldoFe g d c k => Sys2Proof.Machine.execLdoFe g d c k s
  | .stoRlx g d c z k => Sys2Proof.Machine.execStoRlx g d c z k s
  | .stoRel g d c z k => Sys2Proof.Machine.execStoRel g d c z k s
  | .stoFill g d c k => Sys2Proof.Machine.execStoFill g d c k s
  | .atom g d c b o => Sys2Proof.Machine.execAtom g d c b o s
  | .red g k c b o => Sys2Proof.Machine.execRed g k c b o s
  | .cas g d c b k z => Sys2Proof.Machine.execCas g d c b k z s
  | .mmaE4m3 g c a b k => Sys2Proof.Machine.execMmaE4m3 g c a b k s
  | .mmaE5m2 g c a b k => Sys2Proof.Machine.execMmaE5m2 g c a b k s
  | .mmaBf16 g c a b k => Sys2Proof.Machine.execMmaBf16 g c a b k s
  | .mmaF16 g c a b k => Sys2Proof.Machine.execMmaF16 g c a b k s
  | .mmaKn4 g c a b v w k => Sys2Proof.Machine.execMmaKn4 g c a b v w k s
  | .mmaS8 g c a b k => Sys2Proof.Machine.execMmaS8 g c a b k s
  | .mvStream g c v r f m k => Sys2Proof.Machine.execMvStream g c v r f m k s
  | .accmovNarrow g d c x t => Sys2Proof.Machine.execAccmovNarrow g d c x t s
  | .accmovWiden g d c t => Sys2Proof.Machine.execAccmovWiden g d c t s
  | .accZero g c => Sys2Proof.Machine.execAccZero g c s
  | .accDecay g c d => Sys2Proof.Machine.execAccDecay g c d s
  | .accSpill g c r => Sys2Proof.Machine.execAccSpill g c r s
  | .accFill g c r => Sys2Proof.Machine.execAccFill g c r s
  | .tld g t r => Sys2Proof.Machine.execTld g t r s
  | .tst g t r => Sys2Proof.Machine.execTst g t r s
  | .tzero g t => Sys2Proof.Machine.execTzero g t s
  | .ttrans g t u => Sys2Proof.Machine.execTtrans g t u s
  | .xredAdd g d a t => Sys2Proof.Machine.execXredAdd g d a t s
  | .xredMin g d a t => Sys2Proof.Machine.execXredMin g d a t s
  | .xredMax g d a t => Sys2Proof.Machine.execXredMax g d a t s
  | .xredAnd g d a => Sys2Proof.Machine.execXredAnd g d a s
  | .xredOr g d a => Sys2Proof.Machine.execXredOr g d a s
  | .xredXor g d a => Sys2Proof.Machine.execXredXor g d a s
  | .xminIdx g d a t => Sys2Proof.Machine.execXminIdx g d a t s
  | .xmaxIdx g d a t => Sys2Proof.Machine.execXmaxIdx g d a t s
  | .xscanAdd g d a t => Sys2Proof.Machine.execXscanAdd g d a t s
  | .pickSlot g d a b => Sys2Proof.Machine.execPickSlot g d a b s
  | .pickRank g d a b => Sys2Proof.Machine.execPickRank g d a b s
  | .pickBack g d a b => Sys2Proof.Machine.execPickBack g d a b s
  | .pickFlip g d a b => Sys2Proof.Machine.execPickFlip g d a b s
  | .pollAny g d a => Sys2Proof.Machine.execPollAny g d a s
  | .pollAll g d a => Sys2Proof.Machine.execPollAll g d a s
  | .pollMask g d a => Sys2Proof.Machine.execPollMask g d a s
  | .pollCount g d a => Sys2Proof.Machine.execPollCount g d a s
  | .cadv g d a b => Sys2Proof.Machine.execCadv g d a b s
  | .cplace g d a b => Sys2Proof.Machine.execCplace g d a b s
  | .cclip g d a b => Sys2Proof.Machine.execCclip g d a b s
  | .cclipExact g d a b => Sys2Proof.Machine.execCclipExact g d a b s
  | .cstrip g d a b => Sys2Proof.Machine.execCstrip g d a b s
  | .cwrap g d a b => Sys2Proof.Machine.execCwrap g d a b s
  | .cwrapEntry g d a => Sys2Proof.Machine.execCwrapEntry g d a s
  | .cwrapComp g d a => Sys2Proof.Machine.execCwrapComp g d a s
  | .cunwrap g d a b => Sys2Proof.Machine.execCunwrap g d a b s
  | .ccopy g d a => Sys2Proof.Machine.execCcopy g d a s
  | .cdetag g d a => Sys2Proof.Machine.execCdetag g d a s
  | .cbcast g d b => Sys2Proof.Machine.execCbcast g d b s
  | .creadAddr g a b => Sys2Proof.Machine.execCreadAddr g a b s
  | .creadBase g a b => Sys2Proof.Machine.execCreadBase g a b s
  | .creadLen g a b => Sys2Proof.Machine.execCreadLen g a b s
  | .creadInfo g a b => Sys2Proof.Machine.execCreadInfo g a b s
  | .cadvImm g d a imm => Sys2Proof.Machine.execCadvImm g d a imm s
  | .sbjRd g d a => Sys2Proof.Machine.execSbjRd g d a s
  | .sbjWr g d a => Sys2Proof.Machine.execSbjWr g d a s
  | .sbjLd g d a => Sys2Proof.Machine.execSbjLd g d a s
  | .sbjSt g d a => Sys2Proof.Machine.execSbjSt g d a s
  | .sbjCap g d a => Sys2Proof.Machine.execSbjCap g d a s
  | .hcause g d imm => Sys2Proof.Machine.execHcause g d imm s
  | .hret g imm => Sys2Proof.Machine.execHret g imm s
  | .hpass g a => Sys2Proof.Machine.execHpass g a s
  | .uAdd d a b => Sys2Proof.Machine.execUAdd d a b s
  | .uSub d a b => Sys2Proof.Machine.execUSub d a b s
  | .uMulLo d a b => Sys2Proof.Machine.execUMulLo d a b s
  | .uMulHiS64 d a b => Sys2Proof.Machine.execUMulHiS64 d a b s
  | .uMulHiN64 d a b => Sys2Proof.Machine.execUMulHiN64 d a b s
  | .uAnd d a b => Sys2Proof.Machine.execUAnd d a b s
  | .uOr d a b => Sys2Proof.Machine.execUOr d a b s
  | .uXor d a b => Sys2Proof.Machine.execUXor d a b s
  | .uAndn d a b => Sys2Proof.Machine.execUAndn d a b s
  | .uShl d a b => Sys2Proof.Machine.execUShl d a b s
  | .uShr d a b => Sys2Proof.Machine.execUShr d a b s
  | .uSar d a b => Sys2Proof.Machine.execUSar d a b s
  | .uMinS64 d a b => Sys2Proof.Machine.execUMinS64 d a b s
  | .uMaxS64 d a b => Sys2Proof.Machine.execUMaxS64 d a b s
  | .uMinN64 d a b => Sys2Proof.Machine.execUMinN64 d a b s
  | .uMaxN64 d a b => Sys2Proof.Machine.execUMaxN64 d a b s
  | .uPopc d a => Sys2Proof.Machine.execUPopc d a s
  | .uClz d a => Sys2Proof.Machine.execUClz d a s
  | .uCtz d a => Sys2Proof.Machine.execUCtz d a s
  | .uAddi d a imm => Sys2Proof.Machine.execUAddi d a imm s
  | .uOri d a imm => Sys2Proof.Machine.execUOri d a imm s
  | .uAndi d a imm => Sys2Proof.Machine.execUAndi d a imm s
  | .uXori d a imm => Sys2Proof.Machine.execUXori d a imm s
  | .uShlImm d a imm => Sys2Proof.Machine.execUShlImm d a imm s
  | .uShrImm d a imm => Sys2Proof.Machine.execUShrImm d a imm s
  | .uSarImm d a imm => Sys2Proof.Machine.execUSarImm d a imm s
  | .uRotImm d a imm => Sys2Proof.Machine.execURotImm d a imm s
  | .lui d h imm => Sys2Proof.Machine.execLui d h imm s
  | .bra o => Sys2Proof.Machine.execBra o s
  | .bEz a o => Sys2Proof.Machine.execBEz a o s
  | .bNz a o => Sys2Proof.Machine.execBNz a o s
  | .bLz a o => Sys2Proof.Machine.execBLz a o s
  | .bGez a o => Sys2Proof.Machine.execBGez a o s
  | .bGz a o => Sys2Proof.Machine.execBGz a o s
  | .bLez a o => Sys2Proof.Machine.execBLez a o s
  | .brp n p o => Sys2Proof.Machine.execBrp n p o s
  | .ret a => Sys2Proof.Machine.execRet a s
  | .jmpc l d a => Sys2Proof.Machine.execJmpc l d a s
  | .call o => Sys2Proof.Machine.execCall o s
  | .loop a o => Sys2Proof.Machine.execLoop a o s
  | .mfsr d r => Sys2Proof.Machine.execMfsr d r s
  | .mtsr d r => Sys2Proof.Machine.execMtsr d r s
  | .rep c x y z t => Sys2Proof.Machine.execRep c x y z t s
  | .pinPost h => Sys2Proof.Machine.execPinPost h s
  | .pinWait h => Sys2Proof.Machine.execPinWait h s
  | .pinMeet h => Sys2Proof.Machine.execPinMeet h s
  | .pushS q a => Sys2Proof.Machine.execPushS q a s
  | .pushK q a => Sys2Proof.Machine.execPushK q a s
  | .popS d q => Sys2Proof.Machine.execPopS d q s
  | .popK d q => Sys2Proof.Machine.execPopK d q s
  | .cpYield q o => Sys2Proof.Machine.execCpYield q o s
  | .fence k => Sys2Proof.Machine.execFence k s
  | .qfence m => Sys2Proof.Machine.execQfence m s
  | .tcfg t a n => Sys2Proof.Machine.execTcfg t a n s
  | .ucap d a b f => Sys2Proof.Machine.execUcap d a b f s
  | .uldW d k o => Sys2Proof.Machine.execUldW d k o s
  | .uldD d k o => Sys2Proof.Machine.execUldD d k o s
  | .uldC d k o => Sys2Proof.Machine.execUldC d k o s
  | .ustW d k o => Sys2Proof.Machine.execUstW d k o s
  | .ustD d k o => Sys2Proof.Machine.execUstD d k o s
  | .ustC d k o => Sys2Proof.Machine.execUstC d k o s
  | .spawn d a b => Sys2Proof.Machine.execSpawn d a b s
  | .evtWait a b => Sys2Proof.Machine.execEvtWait a b s
  | .evtTest d a b => Sys2Proof.Machine.execEvtTest d a b s
  | .seamOpen d => Sys2Proof.Machine.execSeamOpen d s
  | .seamStep d a b => Sys2Proof.Machine.execSeamStep d a b s
  | .seamClose d => Sys2Proof.Machine.execSeamClose d s
  | .seamDrop d => Sys2Proof.Machine.execSeamDrop d s
  | .seamLink d a => Sys2Proof.Machine.execSeamLink d a s
  | .seamState d a => Sys2Proof.Machine.execSeamState d a s
  | .seamResume d a => Sys2Proof.Machine.execSeamResume d a s
  | .gateCall a b => Sys2Proof.Machine.execGateCall a b s
  | .netPut d a b => Sys2Proof.Machine.execNetPut d a b s
  | .netGet d a b => Sys2Proof.Machine.execNetGet d a b s
  | .netRed d a b => Sys2Proof.Machine.execNetRed d a b s
  | .netDone d => Sys2Proof.Machine.execNetDone d s
  | .csrRd d a b => Sys2Proof.Machine.execCsrRd d a b s
  | .csrWr d a b => Sys2Proof.Machine.execCsrWr d a b s
  | .tlbInv d a b => Sys2Proof.Machine.execTlbInv d a b s
  | .keyLoad d a b => Sys2Proof.Machine.execKeyLoad d a b s
  | .keyKill d a => Sys2Proof.Machine.execKeyKill d a s
  | .revoke d a b => Sys2Proof.Machine.execRevoke d a b s
  | .attest d a b => Sys2Proof.Machine.execAttest d a b s
  | .halt a => Sys2Proof.Machine.execHalt a s
  | .join => Sys2Proof.Machine.execJoin s
  | .exit => Sys2Proof.Machine.execExit s
  | .nop => Sys2Proof.Machine.execNop s
  | .trap => Sys2Proof.Machine.execTrap s
  | .brk => Sys2Proof.Machine.execBrk s
  | .lfence => Sys2Proof.Machine.execLfence s
  | .evtPub => Sys2Proof.Machine.execEvtPub s
  | .gateRet => Sys2Proof.Machine.execGateRet s
  | .ppoint => Sys2Proof.Machine.execPpoint s
  | .yield => Sys2Proof.Machine.execYield s
  | .soloOn => Sys2Proof.Machine.execSoloOn s
  | .soloOff => Sys2Proof.Machine.execSoloOff s
  | .longResultReturn sid entry => Sys2Proof.Machine.execLongResultReturn sid entry s
  | .commit sid => Sys2Proof.Machine.execCommit sid s
  | .implicitMarker sid => Sys2Proof.Machine.execImplicitMarker sid s
  | .pillowUnpark sid => Sys2Proof.Machine.execPillowUnpark sid s
  | .gatherTimeout bank cause group => Sys2Proof.Machine.execGatherTimeout bank cause group s
  | .handlerStrandPlace gid core => Sys2Proof.Machine.execHandlerStrandPlace gid core s
  | .absenceExpiry sid frame => Sys2Proof.Machine.execAbsenceExpiry sid frame s
  | .stragglerStart tid rank => Sys2Proof.Machine.execStragglerStart tid rank s
  | .freshStrandReturn sid => Sys2Proof.Machine.execFreshStrandReturn sid s
  | .rollback tid => Sys2Proof.Machine.execRollback tid s
  | .apply ev => Sys2Proof.Machine.execApply ev s
  | .fill core line => Sys2Proof.Machine.execFill core line s
  | .evict core line => Sys2Proof.Machine.execEvict core line s
  | .readStaged ev => Sys2Proof.Machine.execReadStaged ev s
  | .readL1 ev => Sys2Proof.Machine.execReadL1 ev s
  | .readPoc ev => Sys2Proof.Machine.execReadPoc ev s
  | .modify ev => Sys2Proof.Machine.execModify ev s
  | .feWaitTake sid rank => Sys2Proof.Machine.execFeWaitTake sid rank s
  | .feWaitFill sid rank => Sys2Proof.Machine.execFeWaitFill sid rank s
  | .copy cid => Sys2Proof.Machine.execCopy cid s
  | .stream cid => Sys2Proof.Machine.execStream cid s
  | .complete cid => Sys2Proof.Machine.execComplete cid s
  | .layoutFill rec => Sys2Proof.Machine.execLayoutFill rec s
  | .storageRead cid mediaError => Sys2Proof.Machine.execStorageRead cid mediaError s
  | .storageWrite cid mediaError => Sys2Proof.Machine.execStorageWrite cid mediaError s
  | .send serial => Sys2Proof.Machine.execSend serial s
  | .deliver p => Sys2Proof.Machine.execDeliver p s
  | .orphanDeferredFile index => Sys2Proof.Machine.execOrphanDeferredFile index s
  | .allreduce cid others => Sys2Proof.Machine.execAllreduce cid others s
  | .broadcast cid root => Sys2Proof.Machine.execBroadcast cid root s
  | .netBarrier cid => Sys2Proof.Machine.execNetBarrier cid s
  | .seedPlace launch => Sys2Proof.Machine.execSeedPlace launch s
  | .teamCompletion tid => Sys2Proof.Machine.execTeamCompletion tid s
  | .auditReplay index signature coreNo => Sys2Proof.Machine.execAuditReplay index signature coreNo s
  | .auditReplayDrop index => Sys2Proof.Machine.execAuditReplayDrop index s
  | .hangReport launch => Sys2Proof.Machine.execHangReport launch s
  | .preemptRequest tid => Sys2Proof.Machine.execPreemptRequest tid s
  | .preemptTimeout sid => Sys2Proof.Machine.execPreemptTimeout sid s
  | .teamSave tid => Sys2Proof.Machine.execTeamSave tid s
  | .bindPlace r => Sys2Proof.Machine.execBindPlace r s
  | .bindStop r => Sys2Proof.Machine.execBindStop r s
  | .bindResume r => Sys2Proof.Machine.execBindResume r s
  | .bindRelease r => Sys2Proof.Machine.execBindRelease r s
  | .linkPermitReturn die cluster toHead => Sys2Proof.Machine.execLinkPermitReturn die cluster toHead s
  | .notify vf tail => Sys2Proof.Machine.execNotify vf tail s
  | .ringLoad vf img => Sys2Proof.Machine.execRingLoad vf img s
  | .ringStart vf => Sys2Proof.Machine.execRingStart vf s
  | .ringUnload vf => Sys2Proof.Machine.execRingUnload vf s
  | .ringCancel vf => Sys2Proof.Machine.execRingCancel vf s
  | .vcpRegisterWrite vf off value => Sys2Proof.Machine.execVcpRegisterWrite vf off value s
  | .flr vf => Sys2Proof.Machine.execFlr vf s
  | .flrComplete vf => Sys2Proof.Machine.execFlrComplete vf s
  | .uncorrectableError die source site => Sys2Proof.Machine.execUncorrectableError die source site s
  | .targetedSelfTest die rec u pass => Sys2Proof.Machine.execTargetedSelfTest die rec u pass s
  | .clockStretch cycles => Sys2Proof.Machine.execClockStretch cycles s
  | .clockGate core => Sys2Proof.Machine.execClockGate core s
  | .powerGate core => Sys2Proof.Machine.execPowerGate core s
  | .coreWake core => Sys2Proof.Machine.execCoreWake core s
  | .sweep asid granule => Sys2Proof.Machine.execSweep asid granule s
  | .packageReset => Sys2Proof.Machine.execPackageReset s
  | .debugUnlock token => Sys2Proof.Machine.execDebugUnlock token s
  | .partitionRecut die cluster world => Sys2Proof.Machine.execPartitionRecut die cluster world s
  | .compensationSpawn index => Sys2Proof.Machine.execCompensationSpawn index s
  | .flitReplay link => Sys2Proof.Machine.execFlitReplay link s
  | .targetUnreachable pkg => Sys2Proof.Machine.execTargetUnreachable pkg s
  | .leaseReceive lease => Sys2Proof.Machine.execLeaseReceive lease s
  | .leaseLost => Sys2Proof.Machine.execLeaseLost s
  | .leaseRenew => Sys2Proof.Machine.execLeaseRenew s
  | .leaderClaim reached => Sys2Proof.Machine.execLeaderClaim reached s
  | .imageReceive krahal preder sigOk => Sys2Proof.Machine.execImageReceive krahal preder sigOk s
  | .rosterWrite slot r => Sys2Proof.Machine.execRosterWrite slot r s
  | .admission slot member digest quoteOk => Sys2Proof.Machine.execAdmission slot member digest quoteOk s
  | .memberLost slot member => Sys2Proof.Machine.execMemberLost slot member s
  | .watchRangeArm lo hi => Sys2Proof.Machine.execWatchRangeArm lo hi s

end Sys2Proof.Machine
end

