-- ==== Sys2Proof/Machine/Schedule.lean ====
section
/-! DEFINITION. What may happen next: the steps that the device's agents can take in a state (R199, R305 and the chapters of
each unit), named by `Act`. Which of several is taken is free (`Config.pick`). -/

namespace Sys2Proof.Machine

/-- A step that some agent of the device can take. `agenda` is the next step that hosts, the fabric or the world outside
have called for. -/
inductive Act where
  | agenda
  | issue (sid : Nat)
  | ret (sid entry : Nat)
  | commit (sid : Nat)
  | implicit (sid : Nat)
  | unpark (sid : Nat)
  | gather (bank cause key : Nat)
  | place (gid core : Nat)
  | absence (sid : Nat) (frame : Option Nat)
  | straggler (tid rank : Nat)
  | freshReturn (sid : Nat)
  | rollback (tid : Nat)
  | checkpoint (tid : Nat)
  | stage (ev : Nat)
  | apply (ev : Nat)
  | readStaged (ev : Nat)
  | readPoc (ev : Nat)
  | peek (ev : Nat)
  | readL1 (ev : Nat)
  | modify (ev : Nat)
  | fill (core line : Nat)
  | evict (core line : Nat)
  | drainRed (line : Nat)
  | fence (sid pid : Nat)
  | wake (loc : BarrierLoc)
  | feTake (sid rank : Nat)
  | feFill (sid rank : Nat)
  | copy (cid : Nat)
  | stream (cid : Nat)
  | complete (cid : Nat)
  | layoutFill (rec : Nat)
  | storage (cid : Nat) (read mediaError : Bool)
  | net (cid : Nat)
  | netBarrier (cid : Nat)
  | broadcast (cid : Nat)
  | send (serial : Nat)
  | deliver (index : Nat)
  | deferredFile (index : Nat)
  | seed (launch : Nat)
  | teamDone (tid : Nat)
  | launchDone (launch : Nat)
  | auditDrop (index : Nat)
  | hang (launch : Nat)
  | swapOut (launch page : Nat)
  | compact (launch page : Nat)
  | hangSet
  | preemptTimeout (sid : Nat)
  | teamSave (tid : Nat)
  | krahal (tid : Nat)
  | release (tid : Nat)
  | permit (die cluster : Nat) (toHead : Bool)
  | ring (vf op : Nat)
  | flrDone (vf : Nat)
  | clockGate (core : Nat)
  | powerGate (core : Nat)
  | coreWake (core : Nat)
  | compSpawn (index : Nat)
  | seam (index : Nat)
  | resident (eid : Nat)
  | leaseLost
  | leaseRenew
  | portOpen
  | selfTest (die rec : Nat) (pass : Bool)
  deriving DecidableEq, Repr

/-! ### Issue (R30, R41, R47, R59, R199) -/

/-- R44: every check that the strand's last instruction has asked for elsewhere has been answered. -/
def probesAnswered (st : Strand) : Bool := st.paths.all fun p => p.probe.all (·.answered)

/-- R199: a strand may issue: its team runs, whole and with no checkpoint or rollback due, it is not parked or stopped, its
core is awake, and a path of it is ready. A pipe is free for it in every step, since the model gives an instruction one step
(DESIGN CHOICE 7). -/
def issueReady (s : State) (st : Strand) : Bool :=
  st.commit.isNone && st.parked.isEmpty && st.stop != .stopped && !(stopLate s st && st.stepping.isNone) && probesAnswered st &&
    (st.paths.any (pathReady s st.sid)) &&
    (coreRec s st.core).power == .on && match teamOf s st.tid with
    | some tm => (tm.state == .running || tm.state == .stopping) && tm.place.isSome && tm.rolling.isNone && !tm.ckpt && setWhole s tm
    | none => false

/-- R199: the cycle since which a ready strand waits, and how far its slot lies above the one of its core that issued last. -/
def waitingFrom (s : State) (st : Strand) : Nat := st.readySince.getD s.run.clock.toNat
def slotTurn (s : State) (st : Strand) : Nat := (st.cslot + 15 + 16 - (coreRec s st.core).lastSlot % 16) % 16

/-- R199: of two ready strands of a core, `x` goes before `y`: it has waited longer, or as long and its slot comes first. -/
def goesBefore (s : State) (x y : Strand) : Bool :=
  decide (waitingFrom s x < waitingFrom s y) || (waitingFrom s x == waitingFrom s y && decide (slotTurn s x < slotTurn s y))

/-- R199: the arbiter takes, among the ready strands of the core, the one that has waited longest. With at most 16 strands
none is passed over more than 15 times in a row. -/
def mayIssue (s : State) (st : Strand) : Bool :=
  issueReady s st &&
    !(s.strands.any fun x => x.core == st.core && x.sid != st.sid && goesBefore s x st && issueReady s x)

/-- R199: the arbiter takes a strand; the others of its core that could issue are passed over once more. -/
def arbitrate (s : State) (st : Strand) : State :=
  let passed := fun (x : Strand) => x.core == st.core && issueReady s x
  let count := fun (x : Strand) =>
    { x with passed := if x.sid == st.sid then 0 else x.passed + 1
             readySince := if x.sid == st.sid then none else x.readySince }
  updCore { s with strands := mapIf passed count s.strands } st.core fun x => { x with lastSlot := st.cslot }

/-- The state in which a strand's next instruction is fetched: it has been taken, and the turn has passed where the current
path cannot run (R59). -/
def issueState (s : State) (st : Strand) : State :=
  let s := yieldIfParked (arbitrate s st) st.sid
  { s with run := { s.run with issuing := some st.sid } }

/-- R30, R47: the address of the word that a path issues: under `rep` the follower's. -/
def issuePc (p : Path) : DWord := if repActive p.rep then p.pc + 4 else p.pc

/-- R47: the word that a path issues, from the word fetched. -/
def issueWord (p : Path) (w : Word) : Word := if repActive p.rep then stepWord p.repWord w (repIndex p.rep) else w

/-- R38: what is issued: an instruction, or, for a word that is none, the filing of cause 0x01. A failed fetch files its own
cause. -/
inductive Issue where
  | run  (i : Instr)
  | file (f : Failure)
  deriving DecidableEq, Repr

/-- R30, R38, R47: the instruction that the strand in `run.issuing` issues, and the state once it has been fetched. -/
def fetchIssue (s : State) : State × Option Issue :=
  match ctxOf s with
  | none => (s, none)
  | some c =>
    match fetchAt s c (issuePc c.p) with
    | (s, .error f) => ({ s with run := { s.run with curWord := 0 } }, some (.file f))
    | (s, .ok w) =>
      let x := issueWord c.p w
      let s := { s with run := { s.run with curWord := x } }
      match decodeWord? x with
      | some i => (s, some (.run i))
      | none => (s, some (.file (failure 0x01)))

/-- R44: the threads of the issuing path are filed. -/
def fileIssue (s : State) (f : Failure) : State :=
  match ctxOf s with
  | some c => fileAllWith s c f
  | none => s

/-- The instruction has issued. Where its path has parked or ended, the turn passes at once (R59). -/
def issued (s : State) : State :=
  let s := match s.run.issuing with
    | some sid => yieldIfParked s sid
    | none => s
  { s with run := { s.run with issuing := none } }

/-! ### The agents' offers -/

/-- A list with its repetitions removed. -/
def distinct {α : Type} [DecidableEq α] : List α → List α
  | [] => []
  | x :: xs => if x ∈ xs then distinct xs else x :: distinct xs

/-- Steps of one strand. -/
def strandOffers (s : State) (st : Strand) : List Act :=
  let now := s.run.clock.toNat
  let lost := ((teamOf s st.tid).map fun tm => tm.rolling.isSome).getD true
  (if mayIssue s st then [.issue st.sid] else []) ++
    ((st.rb.filter fun e => !e.returned && !(e.lanes.any (·.pending))).map fun e => .ret st.sid e.id) ++
    (match st.commit with
      | none => []
      | some m => if rbReturned st && !lost then (if m = .explicit then [.commit st.sid] else [.implicit st.sid]) else []) ++
    (if unparkReady s st then [.unpark st.sid] else []) ++
    (if clocksRun s st then
        ((st.frames.filter fun x => match x.2.clock with
          | some c => c.ranOut now
          | none => false).map fun x => .absence st.sid (some x.1)) ++
        (match st.rootJoin.bind (·.clock) with
          | some c => if c.ranOut now then [.absence st.sid none] else []
          | none => [])
      else []) ++
    (if stopDue s st then [.preemptTimeout st.sid] else []) ++
    (st.paths.flatMap fun p =>
      (match p.fence with
        | some (k, n) => if fenceReady s st.sid k n then [Act.fence st.sid p.pid] else []
        | none => []) ++
      match p.state with
      | .waiting (.feTake ls _ _) _ => (ls.filter fun l => feGone s l || (feFull s l && feInOrder s st l)).map fun l => Act.feTake st.sid l.rank
      | .waiting (.feFill ls sc _) _ =>
        (ls.filter fun l => feGone s l || (!feFull s l && feReleased s st sc l.rank)).map fun l => Act.feFill st.sid l.rank
      | .waiting (.barrier loc _ _ _) _ => if wakes loc (phaseOf (barrierWord s loc)) p then [Act.wake loc] else []
      | .waiting .freshReturn _ => if s.eng.cmds.any fun c => c.sid == st.sid then [] else [Act.freshReturn st.sid]
      | _ => [])

/-- Steps of one team, by Krahal and its leaf controller. -/
def teamOffers (s : State) (tm : Team) : List Act :=
  (if tm.rolling.isSome && intervalPerformed s tm then [.rollback tm.tid] else []) ++
    (if tm.ckpt && checkpointReady s tm.tid then [.checkpoint tm.tid] else []) ++
    (if teamOver s tm && snagRoom s tm then [.teamDone tm.tid] else []) ++
    (if saveReady s tm then [.teamSave tm.tid] else []) ++
    (if krahalReady s tm then [.krahal tm.tid] else []) ++
    (if tm.state == .saved && tm.place.isSome then [.release tm.tid] else [])

/-- The returned threads that wait for a slot which is free (R174). -/
def stragglerOffers (s : State) : List Act :=
  (s.threads.filter fun t => match t.status, (strandOf s t.sid).or (homeStrand? s t.tid t.rank), teamOf s t.tid with
    | .waitingSlot _ _, some st, some tm => (freeSlot s st.core).isSome && tm.place.isSome
    | _, _, _ => false).map fun t => .straggler t.tid t.rank

/-- R305: steps of one memory event, and the fills of the lines that it names. -/
def eventOffers (s : State) (e : MemEv) : List Act :=
  let lines := distinct (e.locs.flatMap fun x => match x.1 with
    | .phys pa _ => linesOf pa x.2
    | _ => [])
  (match e.kind with
    | .load =>
      (if loadReady s e && allStaged s e then [.readStaged e.id] else []) ++
      (if loadReady s e && !allStaged s e && !e.isRemote then [.readPoc e.id] else []) ++
      (if loadReady s e && decide (2 ≤ (elementsLeft e).length) then [.peek e.id] else []) ++
      (if l1Allowed s e then [.readL1 e.id] else []) ++ lines.map fun l => .fill e.core l
    | .store =>
      if stageable s e then (if earlierPending s e then [] else [.stage e.id])
      else if applyReady s e then [.apply e.id] else []
    | _ => if e.isRemote || earlierPending s e then [] else [.modify e.id]) ++
  (if sendReady s e then [.send (2 * e.id)] else [])

/-- Steps of one engine command (R191, R226, R353, R394 to R398). -/
def cmdOffers (s : State) (c : Cmd) : List Act :=
  match c.state with
  | .performed _ =>
    if packetsOf s c.cid || s.eng.cmds.any fun x => decide (x.cid < c.cid) && x.sid == c.sid && x.queue == c.queue then []
    else [.complete c.cid]
  | .queued =>
    if !takeReady s c then []
    else match c.queue with
      | 0 => if mayCopy s c then [.copy c.cid] else []
      | 2 => if packetsOf s c.cid then [] else [.stream c.cid]
      | 4 => [.net c.cid]
      | _ => [.storage c.cid (fieldOf (c.sWord 2) 0 2 != 2) false]
  | .running _ _ _ =>
    match c.queue with
    | 0 => if mayCopy s c && !packetsOf s c.cid then [.copy c.cid] else []
    | 2 => []
    | 4 =>
      if c.netCmd == 6 then [.netBarrier c.cid]
      else if c.netCmd == 5 then
        match collective? s c.cid 5 with
        | some (_, _, own) => if fieldOf (c.sWord 3) 32 9 == own then [.broadcast c.cid] else []
        | none => []
      else if c.netCmd == 4 then [] else [.net c.cid]
    | _ =>
      let read := fieldOf (c.sWord 2) 0 2 != 2
      [.storage c.cid read false, .storage c.cid read true]

/-- Steps over the Pillow: groups form and are placed (R164, R165), and Preder's resident handlers serve (R182). -/
def pillowOffers (s : State) : List Act :=
  let keys := distinct (s.traps.pillow.filterMap fun x =>
    if x.state = .filed then (x.bank s).map fun b => (b, x.cause.toNat, groupKey (causeEntry s b x.cause.toNat) x) else none)
  ((keys.filter fun k => groupReady s k.1 k.2.1 k.2.2).map fun k => .gather k.1 k.2.1 k.2.2) ++
    (s.traps.groups.flatMap fun g =>
      if (groupEntries s g).isEmpty then [Act.place g.gid 0]
      else if placeReady s g then (groupCores s g).map fun c => Act.place g.gid c else []) ++
    ((s.traps.pillow.filter (serveReady s)).map fun e => .resident e.eid) ++
    ((List.range s.traps.heldOrphans.length).filter fun _ => pillowRoom s 0 0x40).map fun i => .deferredFile i

/-- Steps of a launch: its seed, its layout cache, the hang detector, the reclaim of its pages and its end (R183, R222, R342, R343,
R359). -/
def launchOffers (s : State) (l : Launch) : List Act :=
  (if l.state = .live && seedReady l then [.seed l.num] else []) ++
    (if l.state ≠ .ended && spawnCount s l == 0 then [.launchDone l.num] else []) ++
    (if hangDue s l then [.hang l.num] else []) ++
    (if (mayReclaim s l (reclaimPage s l)).isSome then [.swapOut l.num (reclaimPage s l), .compact l.num (reclaimPage s l)] else []) ++
    (if l.layoutCount == 0 || l.state ≠ .live then []
     else match physOf s l.asid (l.layoutTable + 64 * (Config.pick s.run.tick 2 % l.layoutCount)) with
      | some (pa, _) => [Act.layoutFill (pa / 64)]
      | none => [])

/-- Steps of a function's firmware (R337 to R339). A load waits for what the agenda says the image holds. -/
def ringOffers (s : State) (v : Vcp) : List Act :=
  (if v.flrBusy && !(s.front.launches.any fun l => l.vf == v.vf && l.state != .ended) then [.flrDone v.vf] else []) ++
    (if !ringWaiting v then []
     else match ringEntry s v with
      | some e => if e.bad then [Act.ring v.vf 0] else if e.op == 1 then [] else [Act.ring v.vf e.op]
      | none => [Act.ring v.vf 0])

/-- Steps of a core's power control (R358). -/
def powerOffers (s : State) (x : CoreRec) : List Act :=
  let now := s.run.clock.toNat
  if coreBusy s x.logical then (if x.power == .on then [] else [.coreWake x.logical])
  else
    (if x.power == .on && decide (x.idleSince + 10000 ≤ now) then [.clockGate x.logical] else []) ++
      (if x.power != .powerGated && decide (x.idleSince + 500000 ≤ now) then [.powerGate x.logical] else [])

/-- Steps of an activity (R368 to R370). -/
def seamOffers (s : State) (a : SeamEntry) : List Act :=
  (if spawnReady s a then [.compSpawn a.index] else []) ++ (if seamMoves s a then [.seam a.index] else [])

/-- The packets that may be delivered: those that this package has sent to itself, and answers that it has sent itself. -/
def packetOffers (s : State) : List Act :=
  (s.fabric.outbox.map fun p => .send p.serial) ++
    ((List.range s.fabric.flight.length).filter fun i => match s.fabric.flight[i]? with
      | some p => p.target == s.fabric.pkgNo && p.source == s.fabric.pkgNo && !overtakes s p
      | none => false).map fun i => .deliver i

/-- An agenda entry that brings the answer to a request of the device waits for that request; every other is due. -/
def agendaDue (s : State) : List Act :=
  match s.run.agenda with
  | [] => []
  | i :: _ =>
    if match i with
      | .ringLoad vf _ => (entryOfOp s vf 1).isSome
      | .allreduce cid _ => (collective? s cid 4).isSome
      | .broadcast cid _ => (collective? s cid 5).isSome
      | _ => true
    then [.agenda] else []

/-- R305: an L1 may take a copy of any line at any time: one line for each core that has strands, whichever it may be. While no
write of memory is under way or waits, such a copy would hold what a later one holds, and none is offered. -/
def fillOffers (s : State) : List Act :=
  if s.mem.events.isEmpty && s.eng.cmds.isEmpty && s.fabric.flight.isEmpty && s.mem.redEntries.isEmpty &&
      s.teams.all fun tm => tm.staged.isEmpty then []
  else (distinct (s.strands.map (·.core))).map fun core => .fill core (Config.pick s.run.tick 0x908 % 2 ^ 46)

/-- R355: firmware tests the units that records name; the test finds a lasting fault, or none. -/
def testOffers (s : State) : List Act :=
  (s.plant.errors.filter fun e => !e.tested).flatMap fun e => [.selfTest e.die e.index true, .selfTest e.die e.index false]

/-- Every step that may be taken in a state. While the device is halted, only what comes from outside (R356, R385). -/
def offers (s : State) : List Act :=
  agendaDue s ++ if s.run.halted then []
  else
    s.strands.flatMap (strandOffers s) ++ s.teams.flatMap (teamOffers s) ++ stragglerOffers s ++ s.mem.events.flatMap (eventOffers s) ++
      (s.mem.l1.map fun x => .evict x.core x.line) ++ (s.mem.redEntries.map fun e => .drainRed e.line) ++
      fillOffers s ++ testOffers s ++ s.eng.cmds.flatMap (cmdOffers s) ++ pillowOffers s ++ packetOffers s ++ s.front.launches.flatMap (launchOffers s) ++
      s.front.vcps.flatMap (ringOffers s) ++ s.plant.cores.flatMap (powerOffers s) ++ s.seams.entries.flatMap (seamOffers s) ++
      ((s.front.audits.filter fun a => decide (a.stamp + 1000 * millisecond ≤ s.run.clock.toNat)).map fun a => .auditDrop a.index) ++
      ((s.plant.linkDirs.filter fun d => decide (0 < d.flight)).map fun d => .permit d.die d.cluster d.toHead) ++
      (if s.fabric.leaseLeader.isSome && (liveLease s).isNone then [.leaseLost] else []) ++
      (if s.fabric.leading && decide (s.fabric.leaseAt + leaseLife / 2 ≤ s.run.clock.toNat) then [.leaseRenew] else []) ++
      (if hangMaySet s then [.hangSet] else []) ++ (if unlockReady s then [.portOpen] else [])

/-- The step that is taken: with one offer that one, with several any of them. -/
def choose (s : State) : Option Act :=
  match offers s with
  | [] => none
  | [a] => some a
  | as => as[Config.pick s.run.tick 0 % as.length]?

/-! ### Time (R106, R117, R358) -/

/-- R358: a core with a ready strand is not idle. -/
def touchCores (s : State) : State :=
  (distinct ((s.strands.map (·.core)).filter (coreBusy s))).foldl (fun s core =>
    updCore s core fun x => { x with idleSince := s.run.clock.toNat }) s

/-- R172: every absence clock that this step has given a reason to start. -/
def startAllClocks (s : State) : State :=
  { s with strands := s.strands.map fun st => if clocksRun s st then startClocks s st else st }

/-- R199: from the next cycle on, a strand that has become ready waits for the arbiter. -/
def markReady (s : State) : State :=
  let now := s.run.clock.toNat
  { s with strands := s.strands.map fun st =>
      { st with readySince := if issueReady s st then some (st.readySince.getD now) else none } }

/-- What follows every step: released home strands are counted (R243), absence clocks start (R172), strands become ready
(R199), and the clock goes on. -/
def tickOn (s : State) : State :=
  let s := markReady (touchCores (startAllClocks (settleAllHomes s)))
  { s with run := { s.run with tick := s.run.tick + 1, clock := s.run.clock + 1 + BitVec.ofNat 64 (Config.elapsed s.run.tick) } }

end Sys2Proof.Machine
end

