-- ==== Sys2Proof/Machine/Perform.lean ====
section
/-! DEFINITION. How each offered step is taken, and how a single instruction is placed where the next step fetches it. -/

namespace Sys2Proof.Machine

/-- R30, R38, R199: a strand issues one instruction. -/
def issueStrand (s : State) (sid : Nat) : Out :=
  match strandOf s sid with
  | none => .next s
  | some st =>
    match fetchIssue (issueState s st) with
    | (s, none) => .next (issued s)
    | (s, some (.file f)) => .next (issued (fileIssue s f))
    | (s, some (.run i)) =>
      match exec i s with
      | .next s => .next (issued s)
      | .fault f => .fault f
      | .refused r => .refused r

/-- The next step of the agenda. While the device is halted only a package reset has an effect (R356, R385). -/
def runAgenda (s : State) : Out :=
  match s.run.agenda with
  | [] => .next s
  | i :: rest =>
    let s := { s with run := { s.run with agenda := rest } }
    match i with
    | .packageReset => exec i s
    | _ => if s.run.halted then .next s else exec i s

/-- R337, R338: firmware takes the ring entry that comes next. -/
def runRing (s : State) (vf op : Nat) : State :=
  match op with
  | 2 => stepRingStart s vf
  | 3 => stepRingUnload s vf
  | 4 => stepRingCancel s vf
  | _ => stepRingBad s vf

/-- A packet in flight is delivered. -/
def runDeliver (s : State) (index : Nat) : State :=
  match s.fabric.flight[index]? with
  | some p => stepDeliver s p
  | none => s

/-- R355: firmware tests the unit that a record names. -/
def runSelfTest (s : State) (die rec : Nat) (pass : Bool) : State :=
  match untested s die rec with
  | some e => stepSelfTest s die rec e.unit pass
  | none => s

/-- R183: what Preder's reclaim does to a launch's page. -/
def reclaim (s : State) (num : Nat) (f : State → Launch → State) : State :=
  match launchOf s num with
  | some l => f s l
  | none => s

/-- What an act of the device's own agents does to the state. -/
def actState (s : State) : Act → State
  | .agenda => s
  | .issue _ => s
  | .ret sid entry => stepReturn s sid entry
  | .commit sid => stepCommit s sid
  | .implicit sid => stepImplicit s sid
  | .unpark sid => stepUnpark s sid
  | .gather b c k => stepGather s b c k
  | .place g c => stepHandlerPlace s g c
  | .absence sid f => stepAbsence s sid f
  | .straggler tid rank => stepStraggler s tid rank
  | .freshReturn sid => stepFreshReturn s sid
  | .rollback tid => stepRollback s tid
  | .checkpoint tid => stepCheckpoint s tid
  | .stage ev => stepStage s ev
  | .apply ev => stepApply s ev
  | .readStaged ev => stepReadStaged s ev
  | .readPoc ev => stepReadPoc s ev
  | .peek ev => stepPeek s ev
  | .readL1 ev => stepReadL1 s ev
  | .modify ev => stepModify s ev
  | .fill core line => stepFill s core line
  | .evict core line => stepEvict s core line
  | .drainRed line => drainReds s line
  | .fence sid pid => stepFence s sid pid
  | .wake loc => stepBarrierWake s loc
  | .feTake sid rank => stepFeTake s sid rank
  | .feFill sid rank => stepFeFill s sid rank
  | .copy cid => stepCopy s cid
  | .stream cid => stepStream s cid
  | .complete cid => stepComplete s cid
  | .layoutFill r => stepLayoutFill s r
  | .storage cid read bad => stepStorage s cid read bad
  | .net cid => stepNet s cid
  | .netBarrier cid => stepNetBarrier s cid
  | .broadcast cid => stepBroadcast s cid []
  | .send serial => stepSend s serial
  | .deliver i => runDeliver s i
  | .deferredFile i => stepDeferredFile s i
  | .seed l => stepSeedPlace s l
  | .teamDone tid => stepTeamCompletion s tid
  | .launchDone l => stepLaunchDone s l
  | .auditDrop i => stepAuditDrop s i
  | .hang l => stepHang s l
  | .swapOut l page => reclaim s l (swapOut · · page)
  | .compact l page => reclaim s l (compact · · page)
  | .hangSet => stepHangSet s
  | .preemptTimeout sid => stepPreemptTimeout s sid
  | .teamSave tid => stepTeamSave s tid
  | .krahal tid => stepKrahal s tid
  | .release tid => stepRelease s tid
  | .permit d c h => stepPermitReturn s d c h
  | .ring vf op => runRing s vf op
  | .flrDone vf => stepFlrComplete s vf
  | .clockGate core => stepClockGate s core
  | .powerGate core => stepPowerGate s core
  | .coreWake core => stepCoreWake s core
  | .compSpawn i => stepCompSpawn s i
  | .seam i => stepSeam s i
  | .resident e => stepResident s e
  | .leaseLost => stepLeaseLost s
  | .leaseRenew => stepLeaseRenew s
  | .portOpen => stepPortOpen s
  | .selfTest die rec pass => runSelfTest s die rec pass

/-- An act, taken. -/
def perform (s : State) (a : Act) : Out :=
  match a with
  | .agenda => runAgenda s
  | .issue sid => issueStrand s sid
  | a => .next (actState s a)

/-- One step of the package: the act chosen, or none where no agent can move; then time goes on. -/
def stepPackage (s : State) : Out :=
  match choose s with
  | none => .next (tickOn s)
  | some a =>
    match perform s a with
    | .next s => .next (tickOn s)
    | .fault f => .fault f
    | .refused r => .refused r

/-! ### One instruction to run -/

/-- The region of the placed program: one 64 KiB page at 0x10000 in ASID 1. -/
def placedRegion : Region :=
  { asid := 1, base := 0x10000, length := 0x10000, colour := 1, tier := 0, perms := sectPte .text, slot := 0, image := 0, world := 1 }

/-- Resources of the placed team. -/
def placedDesc : TeamDesc :=
  { strands := 1, regs := 64, caps := 16, tiles := 16, accs := 8, compact := false, act := 4096, wgt := 4096, absence := 0, tls := 0 }

/-- The placed launch: live, with its whole field placed. -/
def placedLaunch (num : Nat) (code : Cap) : Launch :=
  { num := num, vf := 0, image := 0, index := 0, world := 1, asid := 1, priority := 0, cohort := false, audit := 0, fx := 1, fy := 1
    fz := 1, kinds := [0], slots := [{ kind := 0, code := code, desc := placedDesc, stages := 1, chain := false }], caps := [], barriers := []
    capTable := 0, gateTable := 0, gateCount := 0, layoutTable := 0, layoutCount := 0, completion := 0, saveBase := 0, began := 0, seed := none
    created := [], events := [], state := .live, pmap := [], hung := false, failPc := 0
    failTeam := { kind := 0, x := 0, y := 0, z := 0, stage := 0 }, failRank := 0, provenance := 0 }

/-- The word stored in a mapped page, and a running team of one strand with one present thread whose path stands at it. -/
def placeWord (s : State) (w : Nat) : State :=
  match mapPage s placedRegion 1 with
  | none => s
  | some s =>
    match physOf s 1 0x10000 with
    | none => s
    | some (pa, _) =>
      let code := mintCap 0x10000 0x10000 (permX ||| permL) 1 0
      let num := s.run.nextHandle
      let tid := s.run.nextTid
      let sid := s.run.nextSid
      let key : TeamKey := { kind := 0, x := 0, y := 0, z := 0, stage := 0 }
      let tm := { newTeam tid num key .field placedDesc 1 1 code s.run.nextOrder with
        state := .running, place := some 0, lastPlace := some 0, name := some 0, homes := 1, act := sputs [] 0 (bytesOfNat 8 1) }
      let st := startStrand sid tid 0 0 0 .home 1 code []
      let th := startThread s.run.tick tid 0 sid 0 [] none
      let s := { s with
        mem := { s.mem with cells := cellPuts s.mem.cells pa (bytesOfNat 4 w) }
        plant := { s.plant with clusterWorld := sput 0 s.plant.clusterWorld 0 2 }
        front := { s.front with launches := s.front.launches ++ [placedLaunch num code] }
        strands := s.strands ++ [st], threads := s.threads ++ [th]
        run := { s.run with nextHandle := num + 1, nextSid := sid + 1 } }
      takeCheckpoint (addTeam s tm) tid

end Sys2Proof.Machine
end

