-- ==== Sys2Proof/Safety.lean ====
section
/-! DEFINITION. The terms in which claims about the machine are stated: what an instruction leaves of the issuing strand and
of the threads, the accesses that pass their checks, and what is kept by every step. -/

namespace Sys2Proof.Machine

/-! ### The issuing strand -/

/-- The strands, with `f` at the issuing one. -/
def issuingStrand (s : State) (c : Ctx) (f : Strand → Strand) : List Strand := mapIf (fun st => st.sid == c.st.sid) f s.strands

/-- R41: a word with S = 1 leaves its strand at a marker. -/
def marked (c : Ctx) (st : Strand) : Strand := if markerOf c.word then { st with commit := some .explicit } else st

/-- R47, R49: the issuing path goes on at the next word, or at the next repetition. -/
def nextWord (c : Ctx) (st : Strand) : Strand := marked c (st.updPath c.p.pid Path.advanced)

/-- The issuing path goes on at `pc`. -/
def nextAt (c : Ctx) (pc : DWord) (st : Strand) : Strand :=
  marked c (st.updPath c.p.pid fun p => { p with pc := pc, marked := false, fromBrp := none, probe := [] })

/-- The state after an instruction whose whole effect beyond the PC is `f` on its strand. -/
def afterUniform (s : State) (c : Ctx) (f : Strand → Strand) : State :=
  { s with strands := issuingStrand s c fun st => nextWord c (f st) }

/-- The state after an instruction that changes nothing but the PC. -/
def afterJump (s : State) (c : Ctx) (f : Strand → Strand) (pc : DWord) : State :=
  { s with strands := issuingStrand s c fun st => nextAt c pc (f st) }

/-! ### Lanes -/

/-- The threads with the writes `w a` in each active thread `a`; every other thread as it was. -/
def laneThreads (s : State) (c : Ctx) (g : Guard) (w : Thread → List Write) : List Thread :=
  s.threads.map fun t => match (c.active s g).find? fun a => a.tid == t.tid && a.rank == t.rank with
    | some a => t.writes (w a)
    | none => t

/-- The state after a short lane instruction: its writes in the active threads, its path at the next word, and nothing
else changed. -/
def afterLanes (s : State) (c : Ctx) (g : Guard) (w : Thread → List Write) : State :=
  { s with threads := laneThreads s c g w, strands := issuingStrand s c (nextWord c) }

/-- The entry of a long lane result in RB (R41): a lane for each active thread, with its writes. -/
def longEntry (s : State) (c : Ctx) (g : Guard) (w : Thread → List Write) (st : Strand) : RBEntry :=
  { id := st.nextRb, pc := c.p.pc, word := c.at.word, rep := c.p.rep
    lanes := (c.active s g).map fun a => RBLane.done a (w a), strand := [], returned := false, poison := none }

/-- The state after a long lane instruction: its result in RB, no register written, its path at the next word. -/
def afterLong (s : State) (c : Ctx) (g : Guard) (w : Thread → List Write) : State :=
  { s with strands := issuingStrand s c fun st =>
      nextWord c { st with rb := st.rb ++ [longEntry s c g w st], nextRb := st.nextRb + 1 } }

/-- A strand issues a long result without waiting: RB has room (R42). -/
abbrev rbRoom (c : Ctx) : Prop := c.st.rb.length < Config.rbSize

/-- An implicit marker of the issuing strand has nothing to wait for: it has been taken (R43). -/
abbrev markerTaken (c : Ctx) : Prop := c.p.marked = true

end Sys2Proof.Machine
end

