-- ==== Sys2Proof/Certificates/Slice0/Obligations.lean ====
section
/-! DEFINITION. The statements for the provers. A statement names the rule of the spec that it formalises; where one rests on
a choice of the model, it says so. The tables list, for each instruction, the value that its rule gives. -/

namespace Sys2Proof.Claims

open Sys2Proof Sys2Proof.Machine

/-! ### Tables of results: integer lanes -/

/-- An integer, reduced modulo 2^32 (R68, R106). -/
abbrev word (x : Int) : Word := BitVec.ofInt 32 x

/-- R107, R110: the new v[d] from the old v[d], v[a] and v[b]. -/
def laneTernary : List ((Guard → BitVec 6 → BitVec 6 → BitVec 6 → Instr) × (Word → Word → Word → Word)) :=
  [ (.add, fun _ x y => word (x.toNat + y.toNat)),
    (.sub, fun _ x y => word (x.toNat - y.toNat)),
    (.addSatS32, fun _ x y => word (max (-2147483648) (min 2147483647 (x.toInt + y.toInt)))),
    (.subSatS32, fun _ x y => word (max (-2147483648) (min 2147483647 (x.toInt - y.toInt)))),
    (.minS32, fun _ x y => word (min x.toInt y.toInt)),
    (.maxS32, fun _ x y => word (max x.toInt y.toInt)),
    (.minN32, fun _ x y => word (min x.toNat y.toNat)),
    (.maxN32, fun _ x y => word (max x.toNat y.toNat)),
    (.mulLo, fun _ x y => word (x.toNat * y.toNat)),
    (.mulHiS32, fun _ x y => word (x.toInt * y.toInt / 4294967296)),
    (.mulHiN32, fun _ x y => word (x.toNat * y.toNat / 4294967296)),
    (.madLo, fun z x y => word (z.toNat + x.toNat * y.toNat)),
    (.and, fun _ x y => x &&& y),
    (.or, fun _ x y => x ||| y),
    (.xor, fun _ x y => x ^^^ y),
    (.andn, fun _ x y => x &&& ~~~y),
    (.shl, fun _ x y => word (x.toNat * 2 ^ (y.toNat % 32))),
    (.shr, fun _ x y => word (x.toNat / 2 ^ (y.toNat % 32))),
    (.sar, fun _ x y => word (x.toInt / 2 ^ (y.toNat % 32))),
    (.rot, fun _ x y => word (x.toNat * 2 ^ (y.toNat % 32)) ||| word (x.toNat / 2 ^ (32 - y.toNat % 32))),
    (.bfxN32, fun _ x y => word (x.toNat / 2 ^ (y.toNat % 32) % 2 ^ min (y.toNat / 256 % 64) (32 - y.toNat % 32))),
    (.bfxS32, fun _ x y =>
      let w := min (y.toNat / 256 % 64) (32 - y.toNat % 32)
      if w = 0 then 0 else word ((BitVec.ofNat w (x.toNat / 2 ^ (y.toNat % 32))).toInt)),
    (.bfi, fun z x y =>
      let p := y.toNat % 32
      let w := min (y.toNat / 256 % 64) (32 - p)
      word (z.toNat / 2 ^ (p + w) * 2 ^ (p + w) + x.toNat % 2 ^ w * 2 ^ p + z.toNat % 2 ^ p)) ]

/-- R108, R110, R114, R120, R126: the new v[d] from v[a]. -/
def laneUnary : List ((Guard → BitVec 6 → BitVec 6 → Instr) × (Word → Word)) :=
  [ (.popc, fun x => x.cpop), (.clz, fun x => x.clz), (.ctz, fun x => x.ctz), (.brev, fun x => x.reverse),
    (.absS32, fun x => word x.toInt.natAbs), (.mov, fun x => x),
    (.fabsF32, fun x => BitVec.ofNat 32 (x.toNat % 2147483648)),
    (.fnegF32, fun x => word (x.toNat + 2147483648)),
    (.fclass, fun x => word (2 ^ f32.classBit x.toNat)) ]

/-- R111: the new v[d] from v[a] and the 8-bit immediate. -/
def laneImmediate : List ((Guard → BitVec 6 → BitVec 6 → BitVec 8 → Instr) × (Word → BitVec 8 → Word)) :=
  [ (.addi, fun x i => word (x.toInt + i.toInt)), (.andi, fun x i => x &&& word i.toInt),
    (.ori, fun x i => x ||| word i.toNat), (.xori, fun x i => x ^^^ word i.toNat) ]

/-- R111: the new v[d] from v[a] and the shift amount. -/
def laneShift : List ((Guard → BitVec 6 → BitVec 6 → BitVec 5 → Instr) × (Word → Nat → Word)) :=
  [ (.shlImm, fun x n => word (x.toNat * 2 ^ n)), (.shrImm, fun x n => word (x.toNat / 2 ^ n)),
    (.sarImm, fun x n => word (x.toInt / 2 ^ n)),
    (.rotImm, fun x n => word (x.toNat * 2 ^ n) ||| word (x.toNat / 2 ^ (32 - n))) ]

/-- R109, R68: whether the instruction gives the quotient (the remainder otherwise), and the result for a divisor that
is not 0. -/
def laneDivide : List ((Guard → BitVec 6 → BitVec 6 → BitVec 6 → Instr) × Bool × (Word → Word → Word)) :=
  [ (.divS32, true, fun x y => word (x.toInt.tdiv y.toInt)), (.divN32, true, fun x y => word (x.toNat / y.toNat)),
    (.remS32, false, fun x y => word (x.toInt.tmod y.toInt)), (.remN32, false, fun x y => word (x.toNat % y.toNat)) ]

/-- R113: the relation of a condition code between two values. -/
def relates (cond : BitVec 3) (x y : Int) : Bool :=
  (cond == 0 && decide (x = y)) || (cond == 1 && decide (x ≠ y)) || (cond == 2 && decide (x < y)) ||
    (cond == 3 && decide (x ≤ y)) || (cond == 4 && decide (x > y)) || (cond == 5 && decide (x ≥ y))

/-- R115: the result of a predicate operation from its operands. -/
def lanePredicate : List ((Guard → BitVec 3 → BitVec 3 → BitVec 3 → BitVec 1 → BitVec 1 → Instr) × (Bool → Bool → Bool)) :=
  [ (.pand, fun x y => x && y), (.por, fun x y => x || y), (.pxor, fun x y => x != y), (.pandn, fun x y => x && !y) ]

/-! ### Tables of results: floating point -/

/-- R119: the format and the operation on exact elements [a, b, d], rounded once in a mode. -/
def laneFloat : List ((Guard → BitVec 6 → BitVec 6 → BitVec 6 → Instr) × Fmt × (RMode → Nat → Nat → Nat → Nat × Flags)) :=
  [ (.faddF32, f32, fun m a b _ => f32.add m a b), (.fsubF32, f32, fun m a b _ => f32.sub m a b),
    (.fmulF32, f32, fun m a b _ => f32.mul m a b), (.ffmaF32, f32, fun m a b d => f32.fma m a b d),
    (.faddF16x2, f16, fun m a b _ => f16.add m a b), (.fsubF16x2, f16, fun m a b _ => f16.sub m a b),
    (.fmulF16x2, f16, fun m a b _ => f16.mul m a b), (.ffmaF16x2, f16, fun m a b d => f16.fma m a b d),
    (.faddBf16x2, bf16, fun m a b _ => bf16.add m a b), (.fsubBf16x2, bf16, fun m a b _ => bf16.sub m a b),
    (.fmulBf16x2, bf16, fun m a b _ => bf16.mul m a b), (.ffmaBf16x2, bf16, fun m a b d => bf16.fma m a b d) ]

/-- R72, R119: one element of an operation in a thread: operands and result flushed where the thread's ftz is 1, the mode
its rm. -/
def element (f : Fmt) (op : RMode → Nat → Nat → Nat → Nat × Flags) (t : Thread) (a b d : Nat) : Nat × Flags :=
  let z := fpFtz t.fpcsr
  f.flushOut z (op (fpRm t.fpcsr) (f.flushIn z a) (f.flushIn z b) (f.flushIn z d))

/-- R69, R119: the result and the flags of an operation in a thread: of the whole word for f32, of its two halves for the
packed types. -/
def floatResult (f : Fmt) (op : RMode → Nat → Nat → Nat → Nat × Flags) (t : Thread) (a b d : BitVec 6) : Word × Flags :=
  let x := (t.getV a.toNat).toNat
  let y := (t.getV b.toNat).toNat
  let z := (t.getV d.toNat).toNat
  if f = f32 then (word (element f op t x y z).1, (element f op t x y z).2)
  else
    let lo := element f op t (x % 65536) (y % 65536) (z % 65536)
    let hi := element f op t (x / 65536) (y / 65536) (z / 65536)
    (word (hi.1 * 65536 + lo.1), lo.2 ||| hi.2)

/-- R122: the special functions by their number. -/
def laneFunction : List ((Guard → BitVec 6 → BitVec 6 → Instr) × Nat) :=
  [ (.frcp, 0), (.frsq, 1), (.fsqrt, 2), (.fexp2, 3), (.flog2, 4), (.fsin, 5), (.fcos, 6), (.ftanh, 7) ]

/-- R124: the fixed rounding modes of frnd. -/
def laneRound : List ((Guard → BitVec 6 → BitVec 6 → Instr) × RMode) :=
  [ (.frndRn, .rn), (.frndRz, .rz), (.frndRd, .rd), (.frndRu, .ru) ]

/-- R127, R128: the conversions and how each rounds. -/
def laneConvert : List ((Guard → BitVec 6 → BitVec 6 → BitVec 4 → BitVec 4 → Instr) × CvtMode) :=
  [ (.cvtRn, .fixed .rn), (.cvtRz, .fixed .rz), (.cvtSr, .sr), (.cvtDyn, .dyn) ]

/-- R129: the result, the flags and the thread's generator after a conversion: of two halves, the lower first, when both
types are f16 or bf16, and of one element otherwise. -/
def convertResult (m : CvtMode) (dt st : BitVec 4) (t : Thread) (a : BitVec 6) : Word × Flags × Word :=
  let x := (t.getV a.toNat).toNat
  if (dt = 7 ∨ dt = 8) ∧ (st = 7 ∨ st = 8) then
    let lo := cvtElem t m t.gen dt.toNat st.toNat (x % 65536)
    let hi := cvtElem t m lo.2.2 dt.toNat st.toNat (x / 65536)
    (word (hi.1 * 65536 + lo.1), lo.2.1 ||| hi.2.1, hi.2.2)
  else
    let r := cvtElem t m t.gen dt.toNat st.toNat x
    (word r.1, r.2.1, r.2.2)

/-- R74: none of the flags is trap-enabled in the thread. -/
abbrev untrapped (t : Thread) (f : Flags) : Prop := fpTraps t.fpcsr f = false

/-! ### Tables of results: lanes together -/

/-- R146: the partner's slot, from the state, the path's context, the lane and its v[b]; none where there is none. -/
def laneExchange : List ((Guard → BitVec 6 → BitVec 6 → BitVec 6 → Instr) × (State → Ctx → Thread → Word → Option Nat)) :=
  [ (.pickSlot, fun _ _ _ x => some (x.toNat % 32)),
    (.pickRank, fun s c _ x => ((threadOf s c.tm.tid (x.toNat % 512)).filter fun u => u.sid == c.st.sid).map (·.slot)),
    (.pickBack, fun _ _ t x => if t.slot < x.toNat % 32 then none else some (t.slot - x.toNat % 32)),
    (.pickFlip, fun _ _ t x => some (Nat.xor t.slot (x.toNat % 32))) ]

/-- R148: the reductions of a type: the operation and its identity. -/
def laneReduceTyped : List ((Guard → BitVec 6 → BitVec 6 → BitVec 3 → Instr) × (Nat → LaneOp) × (Nat → Word)) :=
  [ (.xredAdd, addOp, addUnit), (.xredMin, minmaxOp false, minmaxUnit false), (.xredMax, minmaxOp true, minmaxUnit true) ]

/-- R148: the bitwise reductions: the operation and its identity. -/
def laneReduceBits : List ((Guard → BitVec 6 → BitVec 6 → Instr) × (Word → Word → Word) × Word) :=
  [ (.xredAnd, (fun x y => x &&& y), 0xFFFFFFFF), (.xredOr, (fun x y => x ||| y), 0), (.xredXor, (fun x y => x ^^^ y), 0) ]

/-- The value that a slot of the strand supplies: that of the active thread there, or the identity (R148). -/
def slotValue (s : State) (c : Ctx) (g : Guard) (unit : Word) (a : BitVec 6) (i : Nat) : Word :=
  (((c.active s g).find? fun t => t.slot == i).map fun t => t.getV a.toNat).getD unit

/-- R150: the prefix of slot `i` under an operation. -/
def scanPrefix (op : LaneOp) (x : Nat → Word) : Nat → Word
  | 0 => x 0
  | i + 1 => (op (scanPrefix op x i) (x (i + 1))).1

/-- R151: the flags of the 31 operations of a scan, ORed. -/
def scanFlags (op : LaneOp) (x : Nat → Word) : Flags :=
  (List.range 31).foldl (fun f i => f ||| (op (scanPrefix op x i) (x (i + 1))).2) 0

/-! ### Tables of results: capabilities -/

/-- R152, R155: the derivations that read a v register, with the registers above b that they read. -/
def laneDeriveV : List ((Guard → BitVec 4 → BitVec 4 → BitVec 6 → Instr) × Bool × (Thread → BitVec 6 → Cap → Cap)) :=
  [ (.cadv, false, fun t b x => x.moveTo ((x.addr + (t.getV b.toNat).toInt) % 18446744073709551616).toNat),
    (.cplace, true, fun t b x => x.moveTo ((t.getV (b.toNat + 1)).toNat * 4294967296 + (t.getV b.toNat).toNat)),
    (.cclip, false, fun t b x => x.setBounds x.addr (x.addr + (t.getV b.toNat).toNat) false),
    (.cclipExact, false, fun t b x => x.setBounds x.addr (x.addr + (t.getV b.toNat).toNat) true),
    (.cstrip, false, fun t b x => x.strip ((t.getV b.toNat).setWidth 8)) ]

/-- R152, R153: the derivations that read a second capability. -/
def laneDeriveC : List ((Guard → BitVec 4 → BitVec 4 → BitVec 4 → Instr) × (Cap → Cap → Cap)) :=
  [ (.cwrap, fun x auth => x.wrap auth), (.cunwrap, fun x auth => x.unwrap auth) ]

/-- R152: the derivations of one capability. -/
def laneDeriveOne : List ((Guard → BitVec 4 → BitVec 4 → Instr) × (Cap → Cap)) :=
  [ (.cwrapEntry, fun x => x.wrapAs 1), (.cwrapComp, fun x => x.wrapAs 3) ]

/-- R154: the reads into a register pair. -/
def laneReadPair : List ((Guard → BitVec 4 → BitVec 6 → Instr) × (Cap → Nat)) :=
  [ (.creadAddr, fun x => x.addr), (.creadBase, fun x => x.region.1),
    (.creadLen, fun x => min (x.region.2 - x.region.1) 18446744073709551615) ]

/-- R94: what a derivation keeps from its source where its result is tagged. -/
abbrev within (r x : Cap) : Prop :=
  x.tag = true ∧ r.perms &&& x.perms = r.perms ∧ x.region.1 ≤ r.region.1 ∧ r.region.2 ≤ x.region.2 ∧
    r.colour = x.colour ∧ r.version = x.version

/-! ### Tables of results: special registers -/

/-- R51, R64: the thread stands in a fresh strand. -/
def inFresh (st : Strand) : Nat :=
  match st.kind with
  | .fresh _ => 1
  | _ => 0

/-- R117: the registers of every number below 0x800, with their value for a thread of a path whose strand is no handler
strand. -/
def specialRegister : List (Nat × (State → Ctx → Launch → Thread → Nat)) :=
  [ (0x000, fun _ _ _ t => t.slot), (0x001, fun _ _ _ t => t.rank), (0x002, fun _ c _ _ => c.st.num),
    (0x003, fun _ c _ t => inFresh c.st * 512 + c.st.num % 16 * 32 + t.slot), (0x004, fun _ _ _ t => t.fpcsr.toNat),
    (0x008, fun _ c _ _ => c.st.absence.toNat), (0x009, fun _ c _ _ => c.st.srseed.toNat), (0x00A, fun _ c _ _ => c.p.rep.toNat),
    (0x00B, fun _ c _ _ => c.st.implicit.toNat), (0x00C, fun _ c _ _ => (sget 0 c.st.qtile 0).toNat),
    (0x00D, fun _ c _ _ => (sget 0 c.st.qtile 1).toNat), (0x00E, fun _ c _ _ => (sget 0 c.st.qtile 2).toNat),
    (0x00F, fun _ c _ _ => (sget 0 c.st.qtile 3).toNat), (0x010, fun _ c _ _ => c.tm.key.x.toNat),
    (0x011, fun _ c _ _ => c.tm.key.y.toNat), (0x012, fun _ c _ _ => c.tm.key.z.toNat), (0x014, fun _ _ l _ => l.fx),
    (0x015, fun _ _ l _ => l.fy), (0x016, fun _ _ l _ => l.fz), (0x018, fun _ c _ _ => c.tm.key.stage.toNat),
    (0x019, fun _ c _ _ => c.tm.key.kind.toNat), (0x020, fun _ c _ _ => c.st.core),
    (0x021, fun s c _ _ => (clusterWordOf s c).toNat), (0x022, fun _ c _ _ => c.st.core / 128),
    (0x023, fun _ c _ _ => c.tm.placegen.toNat), (0x024, fun _ c _ _ => c.tm.rollbacks.toNat),
    (0x025, fun _ c _ _ => c.st.mstat.toNat), (0x026, fun s _ _ _ => s.run.clock.toNat), (0x027, fun _ c _ _ => c.st.seam.toNat) ] ++
  ((List.range 8).flatMap fun n =>
    [ (0x040 + 2 * n, fun _ _ l _ => (sget 0 l.pmap n).toNat % 18446744073709551616),
      (0x041 + 2 * n, fun _ _ l _ => (sget 0 l.pmap n).toNat / 18446744073709551616) ])

/-- The issuing team after a read of register `n`: a read of the clock or of where the team stands ends its sampling by the
auditor (R280). -/
def readTeams (s : State) (c : Ctx) (n : Nat) : List Team :=
  if n ∈ [0x020, 0x021, 0x022, 0x023, 0x024, 0x026] then
    mapIf (fun tm => tm.tid == c.tm.tid) (fun tm => { tm with unsampled := true }) s.teams
  else s.teams

/-- The one thread of the lowest rank among some. -/
abbrev lowestIn (ts : List Thread) (t : Thread) : Prop := t ∈ ts ∧ (∀ u ∈ ts, t.rank ≤ u.rank) ∧ ∀ u ∈ ts, u.rank = t.rank → u = t

/-! ### Tables of results: uniform -/

/-- An integer, reduced modulo 2^64 (R234). -/
abbrev dword (x : Int) : DWord := BitVec.ofInt 64 x

/-- R235: the new s[d] from s[a] and s[b]. -/
def uniformBinary : List ((BitVec 6 → BitVec 6 → BitVec 6 → Instr) × (DWord → DWord → DWord)) :=
  [ (.uAdd, fun x y => dword (x.toNat + y.toNat)), (.uSub, fun x y => dword (x.toNat - y.toNat)),
    (.uMulLo, fun x y => dword (x.toNat * y.toNat)),
    (.uMulHiS64, fun x y => dword (x.toInt * y.toInt / 18446744073709551616)),
    (.uMulHiN64, fun x y => dword (x.toNat * y.toNat / 18446744073709551616)),
    (.uAnd, fun x y => x &&& y), (.uOr, fun x y => x ||| y), (.uXor, fun x y => x ^^^ y), (.uAndn, fun x y => x &&& ~~~y),
    (.uShl, fun x y => dword (x.toNat * 2 ^ (y.toNat % 64))), (.uShr, fun x y => dword (x.toNat / 2 ^ (y.toNat % 64))),
    (.uSar, fun x y => dword (x.toInt / 2 ^ (y.toNat % 64))),
    (.uMinS64, fun x y => dword (min x.toInt y.toInt)), (.uMaxS64, fun x y => dword (max x.toInt y.toInt)),
    (.uMinN64, fun x y => dword (min x.toNat y.toNat)), (.uMaxN64, fun x y => dword (max x.toNat y.toNat)) ]

/-- R235: the new s[d] from s[a]. -/
def uniformUnary : List ((BitVec 6 → BitVec 6 → Instr) × (DWord → DWord)) :=
  [ (.uPopc, fun x => x.cpop), (.uClz, fun x => x.clz), (.uCtz, fun x => x.ctz) ]

/-- R236: the new s[d] from s[a] and the 12-bit immediate. -/
def uniformImmediate : List ((BitVec 6 → BitVec 6 → BitVec 12 → Instr) × (DWord → BitVec 12 → DWord)) :=
  [ (.uAddi, fun x i => dword (x.toInt + i.toInt)), (.uOri, fun x i => x ||| dword i.toNat),
    (.uAndi, fun x i => x &&& dword i.toInt), (.uXori, fun x i => x ^^^ dword i.toNat) ]

/-- R236: the new s[d] from s[a] and the shift amount. -/
def uniformShift : List ((BitVec 6 → BitVec 6 → BitVec 6 → Instr) × (DWord → Nat → DWord)) :=
  [ (.uShlImm, fun x n => dword (x.toNat * 2 ^ n)), (.uShrImm, fun x n => dword (x.toNat / 2 ^ n)),
    (.uSarImm, fun x n => dword (x.toInt / 2 ^ n)),
    (.uRotImm, fun x n => dword (x.toNat * 2 ^ n) ||| dword (x.toNat / 2 ^ (64 - n))) ]

/-- R156: the derivations of `ucap` by fn, from k[a], s[b] and k[b]. -/
def uniformDerive : List (BitVec 6 × (Cap → DWord → Cap → Cap)) :=
  [ (0, fun x y _ => x.moveTo ((x.addr + y.toNat) % 18446744073709551616)), (1, fun x y _ => x.moveTo y.toNat),
    (2, fun x y _ => x.setBounds x.addr (x.addr + y.toNat) false), (3, fun x y _ => x.setBounds x.addr (x.addr + y.toNat) true),
    (4, fun x y _ => x.strip (y.setWidth 8)), (5, fun x _ auth => x.wrap auth), (6, fun x _ _ => x.wrapAs 1),
    (7, fun x _ _ => x.wrapAs 3), (8, fun x _ auth => x.unwrap auth) ]

/-! ### Control flow -/

/-- R133: the target of a branch: the PC plus four times the signed offset, modulo 2^64. -/
def target {n : Nat} (c : Ctx) (o : BitVec n) : DWord := dword (c.p.pc.toNat + 4 * o.toInt)

/-- R133: the conditions on s[a], read as a signed value. -/
def uniformBranch : List ((BitVec 6 → BitVec 15 → Instr) × (Int → Bool)) :=
  [ (.bEz, fun x => decide (x = 0)), (.bNz, fun x => decide (x ≠ 0)), (.bLz, fun x => decide (x < 0)),
    (.bGez, fun x => decide (0 ≤ x)), (.bGz, fun x => decide (0 < x)), (.bLez, fun x => decide (x ≤ 0)) ]

/-- R56: the value that decides a thread's side of a `brp`. -/
def takes (n : BitVec 1) (p : BitVec 3) (t : Thread) : Bool := t.getP p.toNat != (n == 1)

/-- R55, R56: the frame that a divergent path leaves. -/
def openedFrame (c : Ctx) (st : Strand) : Frame :=
  { expected := c.p.mask, arrived := 0, joinpc := none, parent := c.p.parent
    depth := (((c.p.parent.bind st.frame?).map fun f => f.depth + 1).getD 1), code := c.p.code, clock := none, lapsed := 0 }

/-- R56, R132: one side's path: a child of the new frame with its parent's code capability, ready at its start. -/
def sidePath (c : Ctx) (fid pid : Nat) (mask : BitVec 32) (pc : DWord) (taken : Bool) : Path :=
  { c.p with pid := pid, mask := mask, pc := pc, parent := some fid, rep := 0, state := .ready, marks := 0
             fromBrp := some (c.p.pc, taken), marked := false, probe := [] }

/-- R56: the strand once its path has parted: the frame opened, the two sides' paths, the taken one current. -/
def divergedStrand (c : Ctx) (fid : Nat) (side : BitVec 32) (pc : DWord) (st : Strand) : Strand :=
  marked c { st with
    frames := st.frames ++ [(fid, openedFrame c st)]
    paths := (st.paths.filter fun q => q.pid != c.p.pid) ++
      [sidePath c fid st.nextPid side pc true, sidePath c fid (st.nextPid + 1) (c.p.mask &&& ~~~side) (c.p.pc + 4) false]
    cur := st.nextPid, nextPid := st.nextPid + 2 }

/-- What is unchanged in every thread: its name and its registers. -/
def registersOf (s : State) : List (Nat × Nat × List (Nat × Word) × BitVec 8 × List (Nat × Cap) × Word × Word) :=
  s.threads.map fun t => (t.tid, t.rank, t.v, t.p, t.c, t.fpcsr, t.gen)

/-- R46: the rep word of its fields: 63 repetitions at most after the first, the enables of d, a and b, the stride. -/
def repOf (n : BitVec 6) (x y z : BitVec 1) (t : BitVec 3) : Word :=
  BitVec.ofNat 32 (0x91000000 + n.toNat * 2 ^ 18 + x.toNat * 2 ^ 17 + y.toNat * 2 ^ 16 + z.toNat * 2 ^ 15 + t.toNat * 2 ^ 12)

/-- R38, R44: the state in which every executing thread of the path has been filed with a cause alone. -/
def allFiled (s : State) (c : Ctx) (cause : BitVec 7) : State :=
  fileThreads s c.at ((c.threads s).map fun t => (t, { cause := cause, addr := 0, detail := 0, asid := 0 }))

/-! ### Exceptions -/

/-- R161: some handler serves the cause for a subject of the world: the world's own bank, where the cause is not kept for
bank 0, or bank 0. -/
abbrev served (s : State) (world : BitVec 8) (cause : BitVec 7) : Prop :=
  (cause ∉ [0x10, 0x11, 0x12, 0x18, 0x3F, 0x40, 0x48] ∧ (causeEntry s world.toNat cause.toNat).valid = true) ∨
    (causeEntry s 0 cause.toNat).valid = true

/-- R159: the die's share has an entry that the cause may take: of 4,096 entries, 3,840 for the causes other than 0x3F and
0x40. -/
abbrev shareHasRoom (s : State) (die : Nat) (cause : BitVec 7) : Prop :=
  (s.traps.pillow.countP fun e => e.die == die) < 4096 ∧ (cause = 0x3F ∨ cause = 0x40 ∨
    (s.traps.pillow.countP fun e => e.die == die && e.cause != 0x3F && e.cause != 0x40) < 3840)

/-- R157: the thread, frozen where it stands, with its repeat state and its path's code capability. -/
def frozen (s : State) (w : At) (t : Thread) : State :=
  { s with
    threads := mapIf (fun x => x.tid == t.tid && x.rank == t.rank)
      (fun x => { x with status := .filed s.traps.nextEid, rep := w.rep, leftCode := w.code }) s.threads
    teams := mapIf (fun x => x.tid == t.tid) (fun x => { x with unsampled := true }) s.teams }

/-- R158: the entry of a failure: a thread at its instruction, under a cause. -/
def filedEntry (s : State) (w : At) (st : Strand) (tm : Team) (t : Thread) (cause inner : BitVec 7) (depth : BitVec 2) (f : Failure)
    (detail : Word) (launch : Nat) : Entry :=
  { eid := s.traps.nextEid, die := dieOf st.core, cause := cause, inner := inner, depth := depth, pc := w.pc, word := w.word
    addr := f.addr, detail := detail, rep := w.rep, subject := .thread t.tid t.rank, launch := launch
    x := tm.key.x, y := tm.key.y, z := tm.key.z, rank := BitVec.ofNat 9 t.rank, asid := tm.asid, world := tm.world
    colour := w.code.colour, faultAsid := f.asid, stamp := s.run.clock.toNat, state := .filed }

/-- The state with an entry in the Pillow. -/
def inPillow (s : State) (e : Entry) : State :=
  { s with traps := { s.traps with nextEid := e.eid + 1, pillow := s.traps.pillow ++ [e] } }

/-- R159: the state with a strand parked until the entry finds a place. -/
def parkedFor (s : State) (sid : Nat) (e : Entry) : State :=
  { s with traps := { s.traps with nextEid := e.eid + 1 }
           strands := mapIf (fun x => x.sid == sid) (fun x => { x with parked := x.parked ++ [e] }) s.strands }

/-- R164: the entry that a handler lane serves, none where it has been withdrawn (R160). -/
def servedEntry (s : State) (t : Thread) : Option Entry := t.subject.bind (entryOf s)

/-- R167: the thread that is a handler lane's subject, with its entry and its team. -/
def subjectThread (s : State) (t : Thread) : Option (Entry × Team × Thread) :=
  match servedEntry s t with
  | none => none
  | some e =>
    match e.subject with
    | .thread tid rank => match teamOf s tid, threadOf s tid rank with
      | some tm, some u => some (e, tm, u)
      | _, _ => none
    | _ => none

/-- R176: the fields of a selector. -/
def selectorClass (w : Word) : Nat := w.toNat / 4096 % 16
def selectorWord (w : Word) : Nat := w.toNat / 256 % 4
def selectorIndex (w : Word) : Nat := w.toNat % 64

/-- R176: the selector's class is not reserved, and its register exists for the subject. -/
abbrev selectable (tm : Team) (w : Word) : Prop :=
  selectorClass w ≤ 4 ∧ (selectorClass w = 0 → selectorIndex w < tm.desc.regs) ∧
    (3 ≤ selectorClass w → selectorIndex w % 16 < tm.desc.caps)

/-- R176: what `sbj.rd` reads. -/
def selected (u : Thread) (w : Word) : Word :=
  let cap := u.getC (selectorIndex w % 16)
  if selectorClass w = 0 then u.getV (selectorIndex w)
  else if selectorClass w = 1 then word (u.p.toNat / 2 * 2 + 1)
  else if selectorClass w = 2 then u.fpcsr
  else if selectorClass w = 3 then word (cap.bits.toNat / 2 ^ (32 * selectorWord w) % 4294967296 : Nat)
  else if cap.tag then 1 else 0

/-- R176: the subject after `sbj.wr` of `x`. -/
def overwritten (u : Thread) (w x : Word) : Thread :=
  let n := selectorIndex w % 16
  let cap := u.getC n
  let lo := 32 * selectorWord w
  if selectorClass w = 0 then u.setV (selectorIndex w) x
  else if selectorClass w = 1 then { u with p := BitVec.ofNat 8 (x.toNat % 256 / 2 * 2 + u.p.toNat % 2) }
  else if selectorClass w = 2 then { u with fpcsr := x &&& 0x7BFF }
  else if selectorClass w = 3 then
    u.setC n ⟨BitVec.ofNat 128 (cap.bits.toNat / 2 ^ (lo + 32) * 2 ^ (lo + 32) + x.toNat * 2 ^ lo + cap.bits.toNat % 2 ^ lo), false⟩
  else if x.getLsbD 0 then u else u.setC n ⟨cap.bits, false⟩

/-- R178: the values of `hcause`. -/
def causeValue (e : Entry) (n : Nat) : Nat :=
  match n with
  | 0 => e.cause.toNat + 256 * e.inner.toNat + 65536 * e.depth.toNat
  | 1 => e.pc.toNat % 4294967296
  | 2 => e.pc.toNat / 4294967296
  | 3 => e.addr.toNat % 4294967296
  | 4 => e.addr.toNat / 4294967296
  | 5 => e.word.toNat
  | 6 => e.detail.toNat
  | 7 => e.rep.toNat
  | 8 => e.asid.toNat + 65536 * e.world.toNat + 16777216 * e.colour.toNat
  | 9 => e.rank.toNat + 65536 * (e.rank.toNat / 32)
  | _ => e.faultAsid.toNat

/-- R49, R179: where the subject of an entry resumes. -/
def resumePc (e : Entry) (next : Bool) : DWord :=
  if next = false then e.pc
  else if e.rep.getLsbD 31 = false then e.pc + 4
  else if (e.rep.extractLsb' 0 6).toNat < (e.word.extractLsb' 18 6).toNat then e.pc
  else e.pc + 8

/-! ### Memory -/

/-- A lane instruction that accesses memory: the registers that it names, its capability register, each lane's access, and
the event of an access that passes, from the number of the long result, the lane, its address and its places. -/
structure LaneForm where
  instr : Instr
  legal : Ctx → Bool
  reg   : Nat
  req   : Thread → Access
  event : Ctx → Nat → Thread → Nat → List (Loc × Nat) → Nat → MemEv

/-- R98, R138: a lane's access through c[n], of `size` bytes from its address plus an offset, naturally aligned. -/
def throughC (n : BitVec 4) (kind : AccKind) (perm : BitVec 8) (size : Nat) (off : Int) (cap : Bool) (t : Thread) : Access :=
  { kind := kind, cap := t.getC n.toNat, addr := (t.getC n.toNat).addr + off, size := size, perm := perm, natural := true
    whole := cap, fe := false, engine := false }

/-- The registers of `n` words from d on. -/
def words (d : BitVec 6) (n : Nat) : List Nat := (List.range n).map (d.toNat + ·)

/-- R38, R139: the data registers and the capability register exist. -/
def dataNamed (cap : Bool) (d : BitVec 6) (n : Nat) (cn : BitVec 4) (c : Ctx) : Bool :=
  (if cap then c.cOk [d.toNat % 16] else c.vOk (words d n)) && c.cOk [cn.toNat]

/-- The bytes of `n` words of registers from d on (R2). -/
def dataBytes (t : Thread) (d : BitVec 6) (n : Nat) : List Byte := (words d n).flatMap fun i => bytesOfNat 4 (t.getV i).toNat

/-- R139: bytes of the sizes of `ld`. -/
def ldBytes (z : BitVec 3) : Nat := [1, 1, 2, 2, 4, 8, 16, 16].getD z.toNat 0

/-- R139: the destination of each size. -/
def ldDest (z : BitVec 3) (d : BitVec 6) : LoadFmt :=
  [LoadFmt.ext d.toNat 1 false, .ext d.toNat 1 true, .ext d.toNat 2 false, .ext d.toNat 2 true, .words d.toNat 1,
   .words d.toNat 2, .words d.toNat 4, .cap (d.toNat % 16)].getD z.toNat (.words d.toNat 1)

/-- R141: words of the ordered sizes w, d, q and c. -/
def orderedWords (z : BitVec 2) : Nat := [1, 2, 4, 4].getD z.toNat 0

/-- R139, R142, R292, R294: the long forms: `ld`, `ldo`, `atom` at dev scope and `cas`. A capability's tag is kept with
LC alone (R91). -/
def laneLoads (g : Guard) (d b : BitVec 6) (cn : BitVec 4) (z : BitVec 3) (y : BitVec 2) (o : BitVec 7) (k : BitVec 3) (op : BitVec 4)
    (w : BitVec 1) : List LaneForm :=
  let keep := fun (cap : Bool) (t : Thread) => cap && (t.getC cn.toNat).perms.getLsbD 5
  let ordered := fun (i : Instr) (sem : Sem) => (⟨i, dataNamed (y == 3) d (orderedWords y) cn, cn.toNat,
    throughC cn .load 0x80 (4 * orderedWords y) 0 (y == 3), fun c rb t va locs id =>
      c.event [t.rank] .load va locs sem k [] none (keep (y == 3) t) (t.getC cn.toNat)
        (some (rb, t.rank, if y = 3 then .cap (d.toNat % 16) else .words d.toNat (orderedWords y))) id⟩ : LaneForm)
  let n := if w = 0 then 1 else 2
  [ ⟨.ld g d cn z o, dataNamed (z == 7) d (if ldBytes z ≤ 4 then 1 else ldBytes z / 4) cn, cn.toNat,
      throughC cn .load 0x80 (ldBytes z) (o.toInt * ldBytes z) (z == 7), fun c rb t va locs id =>
        c.event [t.rank] .load va locs .plain 0 [] none (keep (z == 7) t) (t.getC cn.toNat)
          (some (rb, t.rank, ldDest z d)) id⟩,
    ordered (.ldoRlx g d cn y k) .rlx, ordered (.ldoAcq g d cn y k) .acq,
    ⟨.atom g d cn b op, fun c => c.vOk [d.toNat, b.toNat] && c.cOk [cn.toNat], cn.toNat,
      throughC cn .atomic 0xC0 4 0 false, fun c rb t va locs id =>
        c.event [t.rank] (.atom op) va locs .rlx 5 (dataBytes t b 1) none false (t.getC cn.toNat)
          (some (rb, t.rank, .words d.toNat 1)) id⟩,
    ⟨.cas g d cn b k w, fun c => c.vOk (words d n ++ words b n) && c.cOk [cn.toNat], cn.toNat,
      throughC cn .atomic 0xC0 (4 * n) 0 false, fun c rb t va locs id =>
        c.event [t.rank] .cas va locs .rlx k (dataBytes t d n ++ dataBytes t b n) none false (t.getC cn.toNat)
          (some (rb, t.rank, .words d.toNat n)) id⟩ ]

/-- R140, R142, R293: the short forms: `st`, `sto` and `red`. A capability's tag is stored with it, and needs SC (R99). -/
def laneStores (g : Guard) (d b : BitVec 6) (cn : BitVec 4) (z : BitVec 3) (y : BitVec 2) (o : BitVec 7) (k : BitVec 3) (op : BitVec 4) :
    List LaneForm :=
  let size := [1, 2, 4, 8, 16, 16].getD z.toNat 16
  let n := if size ≤ 4 then 1 else size / 4
  let cap := fun (t : Thread) => t.getC (d.toNat % 16)
  let perm := fun (isCap : Bool) (t : Thread) => if isCap && (cap t).tag then (0x50 : BitVec 8) else 0x40
  let ordered := fun (i : Instr) (sem : Sem) => (⟨i, dataNamed (y == 3) d (orderedWords y) cn, cn.toNat,
    fun t => throughC cn .store (perm (y == 3) t) (4 * orderedWords y) 0 (y == 3) t, fun c _ t va locs id =>
      c.event [t.rank] .store va locs sem k (if y = 3 then (cap t).toBytes else dataBytes t d (orderedWords y))
        (if y = 3 then some (cap t).tag else none) false (t.getC cn.toNat) none id⟩ : LaneForm)
  [ ⟨.st g d cn z o, dataNamed (z == 5) d n cn, cn.toNat,
      fun t => throughC cn .store (perm (z == 5) t) size (o.toInt * size) (z == 5) t, fun c _ t va locs id =>
        c.event [t.rank] .store va locs .plain 0 (if z = 5 then (cap t).toBytes else (dataBytes t d n).take size)
          (if z = 5 then some (cap t).tag else none) false (t.getC cn.toNat) none id⟩,
    ordered (.stoRlx g d cn y k) .rlx, ordered (.stoRel g d cn y k) .rel,
    ⟨.red g k cn b op, fun c => c.vOk [b.toNat] && c.cOk [cn.toNat], cn.toNat,
      throughC cn .red 0x40 4 0 false, fun c _ t va locs id =>
        c.event [t.rank] (.red op) va locs .rlx k (dataBytes t b 1) none false (t.getC cn.toNat) none id⟩ ]

/-- The lanes' checks of a form, with the state after them. -/
def checksOf (s : State) (c : Ctx) (g : Guard) (f : LaneForm) : State × List Checked :=
  checkLanes c f.reg f.req s (c.active s g)

/-- The events of the lanes that pass, numbered from the machine's next event number. -/
def eventsOf (s : State) (c : Ctx) (f : LaneForm) (rb : Nat) (xs : List (Thread × Nat × List (Loc × Nat))) : List MemEv :=
  xs.zipIdx.map fun x => f.event c rb x.1.1 x.1.2.1 x.1.2.2 (s.run.nextEv + x.2)

/-- R41: a long result that waits for the lanes' accesses, their addresses translated under an ASID where it is not the team's. -/
def pendingEntryOf (asid : Option (BitVec 16)) (c : Ctx) (lanes : List (Nat × Nat)) (st : Strand) : Strand :=
  { st with
    rb := st.rb ++ [{ id := st.nextRb, pc := c.p.pc, word := c.at.word, rep := c.p.rep
                      lanes := lanes.map fun x => { rank := x.1, pending := true, writes := [], poison := none, addr := BitVec.ofNat 64 x.2, asid := asid }
                      strand := [], returned := false, poison := none }]
    nextRb := st.nextRb + 1 }
def pendingEntry (c : Ctx) (lanes : List (Nat × Nat)) (st : Strand) : Strand := pendingEntryOf none c lanes st

/-- R44: an access whose checks all lie with the issuing core: it leaves for no other package, but as a reduction, and for no
buffer of another team. -/
def atHome (c : Ctx) (kind : AccKind) (locs : List (Loc × Nat)) : Prop :=
  ∀ x ∈ locs, match x.1 with
    | .remote _ _ => kind = .red
    | .act tid _ => tid = c.tm.tid
    | _ => True

/-- R44: the lanes whose access leaves. -/
def leaving (c : Ctx) (kind : AccKind) (xs : List (Thread × Nat × List (Loc × Nat))) : List (Thread × Nat × List (Loc × Nat)) :=
  xs.filter fun x => x.2.2.any fun y => match y.1 with
    | .remote _ _ => kind != .red
    | .act tid _ => tid != c.tm.tid
    | _ => false

/-- R44: the issuing path while its leaving accesses, of the events numbered from `n` on, are performed: it stays at its
instruction. -/
def askingPath (n : Nat) (xs : List (Thread × Nat × List (Loc × Nat))) (p : Path) : Path :=
  { p with probe := xs.zipIdx.map fun x =>
      { rank := x.1.1.rank, va := x.1.2.1, ev := n + x.2, answered := false, cause := none, bytes := [], tag := false, poison := none } }

/-- The threads, but for what they have seen of memory (R307). -/
def threadsApart (s : State) : List Thread := s.threads.map fun t => { t with seen := [] }

/-- The teams, but for which threads know their staged bytes (R307). -/
def teamsApart (s : State) : List Team := s.teams.map fun tm => { tm with staged := tm.staged.map fun x => { x with known := [] } }

/-- No team's exposure, and no page walk, makes a byte of memory change: nothing is staged in an unexposed interval, and no
reduction is pending. -/
abbrev nothingHeld (s : State) : Prop := (∀ x ∈ s.teams, x.exposed = true ∨ x.staged = []) ∧ s.mem.redEntries = []

/-- R144: the access of a uniform form through k[n]. -/
def throughK (c : Ctx) (n : BitVec 4) (kind : AccKind) (perm : BitVec 8) (size : Nat) (o : BitVec 11) (cap : Bool) : Access :=
  { kind := kind, cap := c.st.getK n.toNat, addr := (c.st.getK n.toNat).addr + o.toInt * size, size := size, perm := perm
    natural := true, whole := cap, fe := false, engine := false }

/-- R100: the causes of checks 1 to 5 of an access that wants natural alignment, in their order. -/
def earlyCause (a : Access) : Option (BitVec 7) :=
  if a.cap.tag = false then some 0x04
  else if a.cap.seal ≠ 0 then some 0x06
  else if a.cap.perms &&& a.perm ≠ a.perm then some 0x05
  else if a.addr < a.cap.region.1 ∨ (a.cap.region.2 : Int) < a.addr + a.size ∨ 2 ^ 64 ≤ a.addr then some 0x03
  else if a.addr % a.size ≠ 0 then some 0x08
  else none

/-- R98 to R100, R271, R325: what a translation says of an access: the permissions of the entry, the version, the colour,
the key of an encrypted tier, and copy on write. -/
def pageCause (s : State) (w : Who) (a : Access) (l : Leaf) : Option (BitVec 7) :=
  let k := keySlot s l.key
  if (a.kind = .load ∨ a.kind = .atomic) ∧ l.r = false then some 0x05
  else if a.kind ≠ .load ∧ l.cow = false ∧ l.w = false then some 0x05
  else if a.cap.perms.getLsbD 0 = false ∧ a.cap.version ≠ l.version then some 0x07
  else if a.cap.perms.getLsbD 0 = false ∧ a.cap.colour ≠ l.colour then some 0x12
  else if l.tier ≠ 0 ∧ ¬ (k.state = 1 ∧ k.use = 0 ∧ k.world = w.world ∧ k.colour = l.colour) then some 0x12
  else if a.kind ≠ .load ∧ l.cow = true then some 0x11
  else none

/-- R139, R177: what a loaded value writes, from its bytes and its tag. -/
def loadedWrites (f : LoadFmt) (bs : List Byte) (tag : Bool) : List Write :=
  let x := natOfBytes bs
  match f with
  | .ext d size signed => [.v d (word (if signed ∧ 2 ^ (8 * size - 1) ≤ x % 2 ^ (8 * size) then (x % 2 ^ (8 * size) : Int) - 2 ^ (8 * size)
      else if signed then x % 2 ^ (8 * size) else (x : Int)))]
  | .words d n => (List.range n).map fun i => .v (d + i) (word (natOfBytes ((bs.drop (4 * i)).take 4)))
  | .cap n => [.c n ⟨BitVec.ofNat 128 x, tag⟩]
  | .capK n => [.k n ⟨BitVec.ofNat 128 x, tag⟩]
  | .sWord n => [.s n (dword x)]
  | .sDword n => [.s n (dword x)]
  | .rows tile row n k => (List.range k).flatMap fun r =>
      (List.range n).map fun i => .tileByte tile (128 * (row + r) + i) ((bs[r * n + i]?).getD 0)
  | .acc tile slot => (List.range 8).map fun i =>
      .acc tile (8 * slot + i) (BitVec.ofNat 56 (natOfBytes ((bs.drop (8 * i)).take 8)))

/-- A loaded value belongs to one lane's registers. -/
def laneValue : LoadFmt → Bool
  | .ext _ _ _ => true
  | .words _ _ => true
  | .cap _ => true
  | _ => false

/-- R279: of two poisons the lower provenance stays. -/
def lowerOf : Option (BitVec 12) → Option (BitVec 12) → Option (BitVec 12)
  | some x, some y => some (if x.toNat < y.toNat then x else y)
  | none, y => y
  | x, none => x

/-- R41, R45: the waiting entry `rb` once a value, or its poison, has returned for the threads of an event. -/
def returnedTo (e : MemEv) (g : Got) (rb : Nat) (f : LoadFmt) (x : RBEntry) : RBEntry :=
  let ws := if g.poison.isSome then [] else loadedWrites f g.bytes (e.keepTag && g.tag)
  let mine := fun (l : RBLane) => e.owners.contains l.rank
  if x.id != rb then x
  else if laneValue f then
    { x with lanes := mapIf mine (fun l => { l with pending := false, writes := l.writes ++ ws, poison := lowerOf l.poison g.poison }) x.lanes }
  else
    { x with lanes := mapIf mine (fun l => { l with pending := false }) x.lanes, strand := x.strand ++ ws
             poison := lowerOf x.poison g.poison }

/-- A load `e` has taken the bytes `g` in state `s`, which gave `r`: the event is gone, its waiting entry has the value, and
no register, no buffer and no byte of memory has changed. -/
abbrev loadTook (s r : State) (e : MemEv) (g : Got) : Prop :=
  r.mem.events = s.mem.events.filter (fun x => x.id != e.id) ∧ r.mem.cells = s.mem.cells ∧ teamsApart r = teamsApart s ∧
    registersOf r = registersOf s ∧
    r.strands = match e.dest with
      | some (rb, _, f) => mapIf (fun st => st.sid == e.sid) (fun st => { st with rb := st.rb.map (returnedTo e g rb f) }) s.strands
      | none => s.strands

/-- R44: an answer stands in the list of accesses that a path waits for. -/
abbrev probeTook (s r : State) (e : MemEv) (cause : Option (BitVec 7)) (bs : List Byte) (tag : Bool) (poison : Option (BitVec 12)) : Prop :=
  ∀ st q, strandOf s e.sid = some st → st.path? e.pid = some q → ∃ z, strandOf r e.sid = some z ∧ z.path? e.pid = some { q with
    probe := q.probe.map fun l => if (l.ev == e.id) = true then { l with answered := true, cause := cause, bytes := bs, tag := tag, poison := poison } else l }

/-- R292: what an atomic or a reduction makes of a word m with an operand x. -/
def atomicResult (op : BitVec 4) (m x : Word) : Word :=
  let half := fun (f : Fmt) => word ((f.add .rn (m.toNat / 65536) (x.toNat / 65536)).1 * 65536 + (f.add .rn (m.toNat % 65536) (x.toNat % 65536)).1)
  [ word (m.toNat + x.toNat), word (f32.add .rn m.toNat x.toNat).1, word (min m.toInt x.toInt), word (max m.toInt x.toInt),
    word (min m.toNat x.toNat), word (max m.toNat x.toNat), m &&& x, m ||| x, m ^^^ x, x, half bf16, half f16 ].getD op.toNat 0

/-- The event's one place: `n` bytes of one line of tier 0, no reduction of the line pending at its port (R277). -/
abbrev oneLine (s : State) (e : MemEv) (pa slot n : Nat) : Prop :=
  e.locs = [(.phys pa slot, n)] ∧ tierAt pa = some 0 ∧ 0 < n ∧ pa % 64 + n ≤ 64 ∧ ∀ x ∈ s.mem.redEntries, x.line ≠ pa / 64

/-- Every byte of memory outside `n` bytes from `pa` reads as before. -/
abbrev onlyBytes (s r : State) (pa n : Nat) : Prop :=
  ∀ a, (a < pa ∨ pa + n ≤ a) → cellGet r.mem.cells a = cellGet s.mem.cells a

/-- R167: the access of a handler lane, through its subject's c[n] with its subject's ASID and world: n and the size come
from v[a], the offset from v[a + 1] (R177). -/
def subjectAccess (t u : Thread) (a : BitVec 6) (store : Bool) : Access :=
  let w := (t.getV a.toNat).toNat
  let cap := u.getC (w % 16)
  { kind := if store then .store else .load, cap := cap, addr := cap.addr + (t.getV (a.toNat + 1)).toInt
    size := [1, 1, 2, 2, 4].getD (w / 16 % 8) 0, perm := if store then 0x40 else 0x80, natural := true, whole := false, fe := false, engine := false }

/-- R167: who makes it. -/
def subjectWho (s : State) (c : Ctx) (tm : Team) (u : Thread) : Who :=
  { issuers := coreIssuers s c.st.core, die := dieOf c.st.core, core := some c.st.core, asid := tm.asid, world := tm.world
    tid := some tm.tid, rank := u.rank, solo := false }

/-! ### Matrix, tiles and accumulators -/

/-- R206: the quarters with an active thread, and the rank of a quarter's lowest active slot. -/
def activeQuarters (s : State) (c : Ctx) (g : Guard) : List Nat :=
  (List.range 4).filter fun q => (c.active s g).any fun t => t.slot / 8 == q
def representative (s : State) (c : Ctx) (g : Guard) (q : Nat) : Nat :=
  (((c.active s g).find? fun t => t.slot / 8 == q).map (·.rank)).getD 0

/-- R207: the effective number of a field in a quarter: sr.qtile's dA (0), dB (1) or dacc (2) is added. -/
def effective (c : Ctx) (n : BitVec 4) (which q : Nat) : Nat := n.toNat + (sget 0 c.st.qtile q).toNat / 16 ^ which % 16

/-- R208: the quarters whose destination no higher active quarter shares. -/
def standing (qs : List Nat) (dest : Nat → Nat) : List Nat := qs.filter fun q => !(qs.any fun r => decide (q < r) && dest r == dest q)

/-- A long result of quarters: a lane for each representative, with the lowest poison of what its quarter read (R45, R279), and the
quarters' writes; the bits of sr.mstat that the written elements set (R210). -/
def quarterEntry (s : State) (c : Ctx) (g : Guard) (qs : List Nat) (mark : Nat → Option (BitVec 12)) (writes : Nat → List Write)
    (stat : Nat → BitVec 4) (st : Strand) : Strand :=
  let bits := qs.foldl (fun (m : BitVec 4) q => m ||| stat q) 0
  { st with
    rb := st.rb ++ [{ id := st.nextRb, pc := c.p.pc, word := c.at.word, rep := c.p.rep
                      lanes := qs.map fun q => { rank := representative s c g q, pending := false, writes := [], poison := mark q, addr := 0, asid := none }
                      strand := qs.flatMap writes ++ (if bits = 0 then [] else [.mstat bits]), returned := false, poison := none }]
    nextRb := st.nextRb + 1 }

/-- R216: the six matrix instructions' whole-byte forms, with the format of their elements. -/
def matrixForms : List ((Guard → BitVec 4 → BitVec 4 → BitVec 4 → BitVec 1 → Instr) × ElemFmt) :=
  [ (.mmaE4m3, .fp e4m3), (.mmaE5m2, .fp e5m2), (.mmaBf16, .fp bf16), (.mmaF16, .fp f16), (.mmaS8, .s8) ]

/-- R217: element k of row i of an operand: the little-endian value at byte k times the element's size. -/
def operandRow (t : Tile) (f : ElemFmt) (i : Nat) : List FVal :=
  (List.range (128 / f.size)).map fun k => f.value (natOfBytes (sbytes t.data (128 * i + f.size * k) f.size))

/-- R217, R218: element k of row i of a KN4 operand's window with its scale: byte blk mod 4 of the register that the row's
half and the block's half name, in the quarter's lane that owns the row. `off` is 0 for A and 4 for B. -/
def kn4OperandRow (s : State) (c : Ctx) (q base off : Nat) (t : Tile) (i : Nat) : List FVal :=
  (List.range 32).map fun k =>
    let blk := k / 4
    let reg := base + off + 2 * (i % 2) + blk / 4
    let owner := (s.threads.find? fun u => u.sid == c.st.sid && u.slot == 8 * q + i / 2).or
      (threadOf s c.tm.tid (32 * c.st.num + (8 * q + i / 2)))
    let scale := ((owner.map fun u => (u.getV reg).toNat / 256 ^ (blk % 4) % 256)).getD 0
    kn4Value scale (natOfBytes (sbytes t.data (128 * i + 16 * t.win + 2 * blk) 2)) (k % 4)

/-- R219: the writes of a product of 16 rows with 16 rows, and their bits of sr.mstat. `old` is the accumulator that is
kept. -/
def productCells (integer : Bool) (old : Nat → Nat) (a b : Nat → List FVal) : List (Nat × Nat × BitVec 4) :=
  (List.range 16).flatMap fun i => (List.range 16).map fun j =>
    let x := dotElem integer (old (16 * i + j)) (a i) (b j)
    (16 * i + j, x.1, x.2)

/-- The writes to accumulator `dest`, and the bits that they set. -/
def cellWrites (dest : Nat) (cells : List (Nat × Nat × BitVec 4)) : List Write := cells.map fun e => .acc dest e.1 (BitVec.ofNat 56 e.2.1)
def cellBits (cells : List (Nat × Nat × BitVec 4)) : BitVec 4 := cells.foldl (fun (m : BitVec 4) e => m ||| e.2.2) 0

/-- A finite value in units of 2^q, for q not above its exponent. -/
def inUnits (q : Int) : FVal → Int
  | .fin neg m e => (if neg then -1 else 1) * (m * 2 ^ (e - q).toNat : Nat)
  | _ => 0

/-- A finite value whose exponent is not below q. -/
def finiteFrom (q : Int) : FVal → Prop
  | .fin _ _ e => q ≤ e
  | _ => False

/-- R213: the rows of its quarter's tile that the lane in a slot moves. -/
def rowsOfLane (t : Tile) (slot : Nat) : Nat := min 2 (t.rows - 2 * (slot % 8))

/-- R213: the tile of a lane of a tile move. -/
def laneTile (c : Ctx) (t : BitVec 4) (u : Thread) : Tile := c.tm.tile (effective c t 0 (u.slot / 8))

/-- R213: its access. -/
def rowAccess (c : Ctx) (t cn : BitVec 4) (load : Bool) (u : Thread) : Access :=
  { kind := if load then .load else .store, cap := u.getC cn.toNat, addr := (u.getC cn.toNat).addr
    size := rowsOfLane (laneTile c t u) u.slot * (laneTile c t u).rowBytes, perm := if load then 0x80 else 0x40, natural := false
    whole := false, fe := false, engine := false, align := 16 }

/-- R233: the access of a spill or fill. -/
def elementAccess (cn : BitVec 4) (load : Bool) (u : Thread) : Access :=
  { kind := if load then .load else .store, cap := u.getC cn.toNat, addr := (u.getC cn.toNat).addr, size := 64
    perm := if load then 0x80 else 0x40, natural := true, whole := true, fe := false, engine := false }

/-- A long result whose lanes wait for nothing, each with the poison of what it read. -/
def idleEntry (c : Ctx) (lanes : List (Nat × List Write × Option (BitVec 12))) (own : List Write) (st : Strand) : Strand :=
  { st with
    rb := st.rb ++ [{ id := st.nextRb, pc := c.p.pc, word := c.at.word, rep := c.p.rep
                      lanes := lanes.map fun x => { rank := x.1, pending := false, writes := x.2.1, poison := x.2.2, addr := 0, asid := none }
                      strand := own, returned := false, poison := none }]
    nextRb := st.nextRb + 1 }

/-- R215: byte m of row j of a transpose, for elements of `bits` bits. -/
def transposedByte (t : Tile) (bits j m : Nat) : Byte :=
  let nibble := fun (i : Nat) => (t.byte (128 * i + j / 2)).toNat / 16 ^ (j % 2) % 16
  if bits = 4 then BitVec.ofNat 8 (nibble (2 * m) + 16 * nibble (2 * m + 1))
  else let size := bits / 8
    t.byte (128 * (m / size) + size * j + m % size)

/-- R228: registers of a lane's eight elements, and bits of each element. -/
def movRegs (ty : BitVec 4) : Nat := if ty = 0 ∨ ty = 6 then 8 else if ty = 7 ∨ ty = 8 then 4 else 2
def movBits (ty : BitVec 4) : Nat := 4 * movRegs ty

/-! ### Barriers and queues -/

/-- R197, R198: the word of a team-scope handle. -/
def handleWord (tm : Team) (h : Nat) : Nat := natOfBytes (sbytes tm.act (8 * h) 8)

/-- R197: one arrival on a barrier word: the last expected one flips the phase and clears the count; another one counts. -/
def arrivedWord (w : Nat) : Nat :=
  if w % 65536 ≤ w / 65536 % 65536 + 1 then
    w / 8589934592 * 8589934592 + (1 - w / 4294967296 % 2) * 4294967296 + w % 65536
  else w + 65536

/-- R197: a word's phase. -/
def phaseBit (w : Nat) : Bool := w / 4294967296 % 2 == 1

/-- R240: a strand's paths that wait on a word go on at their next instruction where its phase is no more their target. -/
def stirred (loc : BarrierLoc) (phase : Bool) (st : Strand) : Strand :=
  { st with paths := st.paths.map fun p => match p.state with
      | .waiting (.barrier l _ target _) _ => if l = loc ∧ target ≠ phase then { p.advanced with state := .ready, marks := 0 } else p
      | _ => p }

/-- R197: the strands after an arrival that made `w` into `x`. -/
def stirredBy (s : State) (loc : BarrierLoc) (w x : Nat) : List Strand :=
  if phaseBit x = phaseBit w then s.strands else s.strands.map (stirred loc (phaseBit x))

/-- R241: an arrival on a team-scope handle of the path's team may be made: the handle's word lies in the buffer, and what
the strand's present threads issued before is performed. -/
abbrev mayArrive (s : State) (c : Ctx) (h : BitVec 12) : Prop :=
  h.toNat < 64 ∧ 8 * h.toNat + 8 ≤ actBytes c.tm ∧ c.tm.role ≠ .handler ∧ barred s c = false ∧ strandQuiet s c false = true ∧
    swf 0 c.tm.act = true

/-- The arrival's effect outside the strands: the word is `x`, every other byte of the buffer stays, no register changes,
and of memory nothing but staged lines that a full undo log makes drain (R202). -/
abbrev arrivalAt (s r : State) (c : Ctx) (h : BitVec 12) (x : Nat) : Prop :=
  registersOf r = registersOf s ∧ ((c.tm.exposed = true ∨ c.tm.staged = []) → r.mem.cells = s.mem.cells) ∧
    ∃ u, teamOf r c.tm.tid = some u ∧ ∀ i, sget 0 u.act i =
      if 8 * h.toNat ≤ i ∧ i < 8 * h.toNat + 8 then BitVec.ofNat 8 (x / 256 ^ (i - 8 * h.toNat)) else sget 0 c.tm.act i

/-- The path of the context parks in a wait. -/
def parkedIn (s : State) (c : Ctx) (w : Wait) (st : Strand) : Strand :=
  st.updPath c.p.pid fun p => { p with state := .waiting w s.run.clock.toNat, marked := false }

/-- R240: the strand of a path in a wait for a phase, its arrival record empty: it parks, or goes on. -/
def waitingOn (s : State) (c : Ctx) (loc : BarrierLoc) (h : BitVec 12) (target meet parks : Bool) (st : Strand) : Strand :=
  if parks then parkedIn s c (.barrier loc h target meet) { st with arrival := none } else nextWord c { st with arrival := none }

/-- R190: paths that wait to push to a queue issue their push again. -/
def pushersGo (q : Nat) (st : Strand) : Strand :=
  { st with paths := st.paths.map fun p => match p.state with
      | .waiting (.push k) _ => if k = q then { p with state := .ready, marks := 0 } else p
      | _ => p }

/-- R190, R245: the words of the strand's partial command of a queue with one more. -/
def grown (c : Ctx) (q : BitVec 3) (w : QWord) : List QWord := sget [] c.st.partials (q.toNat / 2) ++ [w]

/-- R191, R225, R353, R394: words of a command of each queue. -/
def commandWords (q : BitVec 3) : Nat := if q = 0 then 4 else if q = 2 then 2 else if q = 4 then 4 else 3

/-- R190: commands of the path's strand on a queue from the push of their last word until their record is popped. -/
def outstandingOf (s : State) (c : Ctx) (q : BitVec 3) : Nat :=
  (s.eng.cmds.countP fun x => x.sid == c.st.sid && x.queue == q.toNat) + c.st.records.countP fun r => r.queue == q.toNat + 1

/-! ### Spawning, events, seams, gates and the network queue -/

/-- R375: an instruction of a launch's strand that waits for nothing: its marker is taken, and its strand is no handler
strand. -/
abbrev inLaunch (s : State) (c : Ctx) : Prop := ctxOf s = some c ∧ c.handler = false ∧ markerTaken c

/-- R202, R374, R375: the state once the path's team has exposed its interval. -/
def exposedFor (s : State) (c : Ctx) : State := exposeTeam s c.tm.tid

/-- R363, R378: the issuing strand with a result in s[d], its path at the next word. -/
def answered (s : State) (c : Ctx) (d : BitVec 6) (w : Nat) : State :=
  { s with strands := issuingStrand s c fun st => nextWord c (st.setS d.toNat (BitVec.ofNat 64 w)) }

/-- R361: the handle of an activity. -/
def handleOf (a : SeamEntry) : Nat := a.world.toNat * 4294967296 + a.gen.toNat * 65536 + a.index

/-- R361, R363: the live activity of the path's world that a word names. -/
def activity (s : State) (c : Ctx) (w : DWord) : Option SeamEntry :=
  s.seams.entries.find? fun a => BitVec.ofNat 64 (handleOf a) == w && a.world == c.tm.world

/-- The activities with `f` at one of them. -/
def atSeam (s : State) (x : SeamEntry) (f : SeamEntry → SeamEntry) : State :=
  { s with seams := { s.seams with entries := mapIf (fun a => a.index == x.index) f s.seams.entries } }

/-- R376: the key of a team from s[a] and s[b]. -/
def namedKey (x y : DWord) : TeamKey :=
  { kind := BitVec.ofNat 2 (y.toNat / 1099511627776), x := BitVec.ofNat 32 x.toNat, y := BitVec.ofNat 32 (x.toNat / 4294967296)
    z := BitVec.ofNat 32 y.toNat, stage := BitVec.ofNat 4 (y.toNat / 4294967296) }

/-- R377: the event slot that s[a] and s[b] name is published in the launch. -/
def slotSet (l : Launch) (x y : DWord) : Bool := l.events.contains (namedKey x y, decide (y.toNat / 17592186044416 % 2 = 1))

/-- R308, R310, R377: an acquire by the present and filed threads of the issuing path; one at cluster scope or wider bars older
L1 copies. -/
def acquired (s : State) (c : Ctx) (wide : Bool) : List Thread :=
  s.threads.map fun t => if (t.sid == c.st.sid && c.p.mask.getLsbD t.slot && t.status != .exited) = true then
    { t with acq := if wide then s.run.tick else t.acq, acqEv := s.run.nextEv } else t

/-- R377: the waiters of an event slot of a launch go on at their next instruction. -/
def eventHeard (s : State) (num : Nat) (key : TeamKey) (slot : Bool) (st : Strand) : Strand :=
  if (s.teams.any fun tm => tm.tid == st.tid && tm.launch == num) = true then
    { st with paths := st.paths.map fun p => match p.state with
        | .waiting (.event k b) _ => if k = key ∧ b = slot then { p.advanced with state := .ready, marks := 0 } else p
        | _ => p }
  else st

/-- R382: the status that `net.done` gives: the first that is not 0. -/
def oneStatus (rs : List QRecord) : Nat := ((rs.map fun r => r.word.toNat % 256).find? fun n => n != 0).getD 0

/-! ### Privileged instructions -/

/-- R171, R383: an instruction of major 0x20 in its solo lane, its marker taken. -/
abbrev alone (s : State) (c : Ctx) : Prop := ctxOf s = some c ∧ c.p.solo = true ∧ markerTaken c

/-- A field of a doubleword. -/
def bits (w : DWord) (lo n : Nat) : Nat := w.toNat / 2 ^ lo % 2 ^ n

/-- R283, R284, R324, R333, R335, R384: the control registers that a read gives to s[d], by their number, with their value for an
index word. -/
def controlRegister : List (Nat × (State → Ctx → DWord → Nat)) :=
  [ (0, fun s c _ => ((List.range 64).map fun i => if (fusedOf s (dieOf c.st.core)).contains i then 2 ^ i else 0).foldl (· + ·) 0),
    (1, fun s c _ => ((List.range 64).map fun i => if (fusedOf s (dieOf c.st.core)).contains (64 + i) then 2 ^ i else 0).foldl (· + ·) 0),
    (2, fun s c _ => ((List.range 64).map fun i => if (fusedOf s (dieOf c.st.core)).contains (128 + i) then 2 ^ i else 0).foldl (· + ·) 0),
    (3, fun s _ x => let n := bits x 32 10
      (if coreOut s n then 0 else 9223372036854775808) + n * 4294967296 + dieOf n * 65536 + physCore s n),
    (16, fun s _ _ => s.trust.lifecycle.toNat), (17, fun s _ _ => s.trust.devid.toNat % 18446744073709551616),
    (18, fun s _ _ => s.trust.devid.toNat / 18446744073709551616),
    (19, fun s _ x => let k := keySlot s (bits x 32 16)
      k.state.toNat * 2 ^ 62 + k.world.toNat * 2 ^ 48 + bits x 32 16 * 2 ^ 32 + k.colour.toNat * 2 ^ 28 + k.use.toNat * 2 ^ 26 + k.gen.toNat) ] ++
  (List.range 8).map fun n => (8 + n, fun s _ x => (sget 0 s.trust.meas n).toNat / 2 ^ (64 * bits x 32 2) % 2 ^ 64)

/-- R161, R384: what a write of one part of a cause-table entry makes of it; none where it is refused. -/
def causeWritten (bank cause part : Nat) (w : DWord) (x : Cap) (e : CauseEntry) : Option CauseEntry :=
  let kept := cause ∈ [0x10, 0x11, 0x12, 0x18, 0x3F, 0x40, 0x48]
  if cause = 0 ∨ (kept ∧ bank ≠ 0) then none
  else if part = 0 then
    if bits w 56 2 = 3 ∨ (bits w 56 2 = 2 ∧ bank ≠ 0) ∨ (kept ∧ bits w 56 2 ≠ 2) ∨ bits w 48 6 = 0 ∨ 32 < bits w 48 6 ∨ bits w 32 16 = 0 ∨
        (bits w 8 16 = 0xFFFF ∧ bits w 56 2 ≠ 0) ∨ (bank ≠ 0 ∧ bits w 0 8 ≠ bank) then none
    else some { e with valid := w.getLsbD 63, cls := BitVec.ofNat 2 (bits w 56 2), width := BitVec.ofNat 6 (bits w 48 6)
                       timeout := BitVec.ofNat 16 (bits w 32 16), home := BitVec.ofNat 24 (bits w 0 24), resident := false }
  else if part = 1 then
    if x.tag = true ∧ x.perms.getLsbD 3 = true ∧ (x.seal = 0 ∨ x.seal = 1) then some { e with code := x, resident := false } else none
  else if part = 2 then some { e with data := x }
  else none

/-- R297: the cause of a range that `tlb.inv` or `revoke` refuses. -/
def rangeCause (revoke : Bool) (ctl start len : DWord) : Option (BitVec 7) :=
  if ctl.toNat / 262144 ≠ 0 ∨ (revoke = true ∧ bits ctl 16 1 = 1) then some 0x01
  else if bits ctl 17 1 = 1 then none
  else if start.toNat % 65536 ≠ 0 ∨ len.toNat % 65536 ≠ 0 then some 0x08
  else if 2 ^ 57 ≤ start.toNat ∨ len.toNat < 65536 ∨ 2 ^ 57 < start.toNat + len.toNat then some 0x03
  else none

/-- R297: the range. -/
def rangeNamed (ctl start len : DWord) : PageRange :=
  if bits ctl 17 1 = 1 then ⟨decide (bits ctl 16 1 = 1), BitVec.ofNat 16 ctl.toNat, 0, 2199023255552⟩
  else ⟨decide (bits ctl 16 1 = 1), BitVec.ofNat 16 ctl.toNat, start.toNat / 65536, (start.toNat + len.toNat) / 65536⟩

/-- R298: no translation of the range is cached. -/
abbrev noneCached (s : State) (r : PageRange) : Prop :=
  (∀ x ∈ s.mem.tlb, (r.all = false ∧ x.asid ≠ r.asid) ∨ r.hi ≤ x.page ∨ x.page + x.units ≤ r.lo) ∧
    ∀ x ∈ s.mem.walkCache, (r.all = false ∧ x.asid ≠ r.asid) ∨ r.hi ≤ x.page ∨ x.page + x.units ≤ r.lo

/-- R385: the status of a `key.load`. -/
def loadStatus (s : State) (ctl : DWord) (wrapped : List Byte) : Nat :=
  let wrapping := keySlot s (bits ctl 16 16)
  if bits ctl 0 16 = 0 ∨ (keySlot s (bits ctl 0 16)).state = 1 then 1
  else if wrapping.state ≠ 1 ∨ wrapping.use ≠ 1 ∨ wrapping.world.toNat ≠ bits ctl 40 8 then 2
  else if s.trust.unlocking = true then 5
  else if 2 ≤ bits ctl 36 2 then 4
  else if (unwrapKey wrapping.key wrapped).isNone then 3
  else 0

/-- R333: the new value of a measurement register extended with a digest. -/
def extended (old digest : BitVec 256) : BitVec 256 := sha256 (bytesOfNat 32 old.toNat ++ bytesOfNat 32 digest.toNat)

/-- R385: the access of a privileged instruction through k[a]. -/
def soloAccess (c : Ctx) (a : BitVec 4) (kind : AccKind) (size align : Nat) (perm : BitVec 8) : Access :=
  let cap := c.st.getK a.toNat
  { kind := kind, cap := cap, addr := cap.addr, size := size, perm := perm, natural := false, whole := true, fe := false
    engine := false, align := align }

/-! ### Events of strands and handlers -/

/-- R41: the threads of a strand's team with the entries' writes in their lanes, the oldest entry first. -/
def committedThreads (s : State) (st : Strand) : List Thread :=
  mapIf (fun t => t.tid == st.tid) (fun t => st.rb.foldl (fun u e => match e.lanes.find? fun l => l.rank == t.rank with
    | some l => u.writes l.writes
    | none => u) t) s.threads

/-- No result of the strand is poisoned. -/
abbrev cleanRb (st : Strand) : Prop := ∀ e ∈ st.rb, e.poison = none ∧ ∀ l ∈ e.lanes, l.poison = none

/-- R41: every result has returned. -/
abbrev allReturned (st : Strand) : Prop := ∀ e ∈ st.rb, e.returned = true

/-- The strand after its Commit(): no result outstanding, no marker, its registers kept. -/
abbrev cleared (st z : Strand) : Prop :=
  z.rb = [] ∧ z.commit = none ∧ z.frames = st.frames ∧ z.records = st.records ∧
    z.paths.map (fun p => (p.pid, p.mask, p.pc, p.state)) = st.paths.map (fun p => (p.pid, p.mask, p.pc, p.state))

/-- R164: the entries that wait for one entry of the cause table under one key, oldest first, as many as a group takes. -/
def gathered (s : State) (bank cause key : Nat) : List Nat :=
  ((waiting s bank cause key).map (·.eid)).take (causeEntry s bank cause).width.toNat

/-! ### Engines -/

/-- R190: `s` with one command in another state. -/
def commandNow (s : State) (c : Cmd) (x : CmdState) : State :=
  { s with eng := { s.eng with cmds := s.eng.cmds.map fun y => if (y.cid == c.cid) = true then { y with state := x } else y } }

/-- R191, R195: the status that tag, seal, permission or bounds of a capability give for `size` bytes from its address. -/
def rangeStatus (cap : Cap) (size : Nat) (perm : BitVec 8) : Option Nat :=
  if cap.tag = false then some 1
  else if cap.seal ≠ 0 then some 2
  else if cap.perms &&& perm ≠ perm then some 3
  else if cap.addr < cap.region.1 ∨ cap.region.2 < cap.addr + size then some 4
  else none

/-- R192: rows, bytes of a row and the two strides of a shape word; the bytes that a range spans. -/
def copyRows (w : DWord) : Nat := bits w 12 12
def copyRowBytes (w : DWord) : Nat := bits w 0 12
def copySpan (w : DWord) (dst : Bool) : Nat := (copyRows w - 1) * bits w (if dst then 44 else 24) 20 + copyRowBytes w

/-- R189: the words of a copy command: two capabilities and two integers, in their places. -/
abbrev copyWordsOk (c : Cmd) : Prop := ∃ k0 k1 w0 w1, c.words = [.k k0, .k k1, .s w0, .s w1]

/-- R193 to R195: a copy ends with a status and these peers before it has written a byte. -/
abbrev copyEnds (s : State) (c : Cmd) (ps : List Nat) (n : Nat) : Prop :=
  ∃ r x, exec (.copy c.cid) s = .next r ∧ cmdOf r c.cid = some x ∧ x.state = .performed n ∧ x.peers = ps ∧ r.mem = s.mem ∧
    r.threads = s.threads ∧ r.teams = s.teams ∧ r.strands = s.strands

/-- R194: the teams that a copy writes instead of its destination's: none without a mask, else one on each core of it. -/
abbrev copyTo (s : State) (c : Cmd) (ps : List Nat) : Prop :=
  (bits (c.sWord 3) 14 4 = 0 ∧ ps = []) ∨
    (bits (c.sWord 3) 14 4 ≠ 0 ∧ (spaceOf (c.kWord 1).addr = 8 ∨ spaceOf (c.kWord 1).addr = 9) ∧ ∃ tm, c.team s = some tm ∧
      (∀ n, n < 4 → (bits (c.sWord 3) 14 4).testBit n = true → peerOn s tm c.core n ≠ none) ∧
      ps = (List.range 4).filterMap fun n => if (bits (c.sWord 3) 14 4).testBit n then peerOn s tm c.core n else none)

/-- R91, R92: the tag of a granule that a copy takes from one place: of memory, or with another package's answer. -/
def sourceTag (s : State) (c : Cmd) : List (Loc × Nat) → Bool
  | [(.phys pa _, _)] => tagAt s.mem pa
  | [(.remote _ va, n)] => ((c.replies.find? fun r => r.va == va && r.bytes.length == n).map fun r => r.tags.headD false).getD false
  | _ => false

/-- R191, R192, R279: what a running copy does once it stands at byte `next` of a row; it has read poison if `bad`. -/
def afterPiece (w : DWord) (row next : Nat) (bad : Bool) : CmdState :=
  if next < copyRowBytes w then .running row next bad
  else if row + 1 < copyRows w then .running (row + 1) 0 bad
  else .performed (if bad then 10 else 0)

/-! ### The fabric -/

/-- R390: the answer to a packet. -/
def answerTo (s : State) (p : Packet) (status : Nat) (bs : List Byte) (tags : List Bool) (poison : Option (BitVec 12)) : Packet :=
  { p with ptype := .response, target := p.source, source := s.fabric.pkgNo, payload := bs, tags := tags, status := status
           op := match poison with
             | some x => 0x4000 ||| x.setWidth 16
             | none => 0 }

/-- `s` with one more packet at the port. -/
def atPort (s : State) (p : Packet) : State := { s with fabric := { s.fabric with outbox := s.fabric.outbox ++ [p] } }

/-- R289: what a packet's access does, for checks 8 to 11 at its target. Bit 15 of a put's op marks a reduction. -/
def packetKind (p : Packet) : AccKind :=
  match p.ptype with
  | .load => .load
  | .get => .load
  | .atomic => .atomic
  | .cas => .atomic
  | .red => .red
  | _ => if p.ptype = .put ∧ p.op.getLsbD 15 = true then .red else .store

/-- R319: the request that an answer from another package answers. -/
abbrev answersOne (s : State) (p : Packet) : Prop :=
  p.ptype = .response ∧ p.target = s.fabric.pkgNo ∧ p.source ≠ s.fabric.pkgNo ∧
    ∃ q ∈ s.fabric.flight, q.serial = p.serial ∧ q.target = p.source ∧ q.ptype ≠ .response

/-- The state once that request is no more under way. -/
def requestGone (s : State) (p : Packet) : State :=
  { s with fabric := { s.fabric with
    flight := s.fabric.flight.eraseP fun q => q.serial == p.serial && q.target == p.source && q.ptype != .response } }

/-- A place of one word of tier 0, with no reduction pending at any port. -/
abbrev plainWord (s : State) (pa n : Nat) : Prop :=
  tierAt pa = some 0 ∧ pa % n = 0 ∧ s.mem.redEntries = [] ∧ Memory.wf s.mem.cells = true

/-- R314, R398: a command has ended with status 0. -/
abbrev ended (r : State) (c : Cmd) : Prop := ∃ x, cmdOf r c.cid = some x ∧ x = { c with part := x.part, state := .performed 0 }

/-- R397: an admitted member's collective that is under way on its slot. -/
abbrev collecting (s : State) (c : Cmd) (r : Roster) (own kind : Nat) : Prop :=
  cmdOf s c.cid = some c ∧ c.queue = 4 ∧ c.state = .running 0 0 false ∧ bits (c.sWord 3) 0 4 = kind ∧
    rosterOf s (bits (c.sWord 3) 16 8) = some r ∧ r.state = 2 ∧ ownIndex s r = some own

/-- R398: the left fold of the members' elements, in ascending index. -/
def foldedWord (op : Nat) (k : Nat) : List (List Byte) → Word
  | [] => 0
  | b :: bs => bs.foldl (fun x y => atomicResult (BitVec.ofNat 4 op) x (word (natOfBytes ((y.drop (4 * k)).take 4))))
      (word (natOfBytes ((b.drop (4 * k)).take 4)))

/-- R391: the packages that have numbers keep them, a package that has none has one after, and no number is given twice. -/
abbrev numbersKept (before after : List (BitVec 9 × BitVec 128)) : Prop :=
  (∀ m ∈ before, m ∈ after) ∧ ((before.map (·.1)).Nodup → (after.map (·.1)).Nodup)

/-! ### Teams, launches and rings -/

/-- R342: the key of the i-th team of a launch's field at stage 0: x runs fastest, and the kind is the one at x mod n. -/
def fieldKey (l : Launch) (i : Nat) : TeamKey :=
  let x := i % l.fx
  { kind := (l.kinds[x % l.kinds.length]?).getD 0, x := BitVec.ofNat 32 x, y := BitVec.ofNat 32 (i / l.fx % l.fy)
    z := BitVec.ofNat 32 (i / (l.fx * l.fy)), stage := 0 }

/-- A team as it is created, not yet placed: what its launch gives it. -/
abbrev createdFor (s : State) (l : Launch) (k : KindSlot) (key : TeamKey) (tm : Team) : Prop :=
  tm.tid = s.run.nextTid ∧ tm.launch = l.num ∧ tm.key = key ∧ tm.role = .field ∧ tm.state = .created ∧ tm.place = none ∧
    tm.desc = k.desc ∧ tm.code = k.code ∧ tm.asid = l.asid ∧ tm.world = l.world

/-- R317: what a team's completion waits for. -/
abbrev teamOpen (s : State) (tm : Team) : Prop :=
  tm.state = .created ∨ tm.state = .saved ∨ (∃ st ∈ s.strands, st.tid = tm.tid) ∨ (∃ e ∈ s.mem.events, e.tid = tm.tid) ∨
    (∃ c ∈ s.eng.cmds, c.tid = tm.tid) ∨ (∃ e ∈ s.traps.pillow, ∃ rank, e.subject = .thread tm.tid rank) ∨ tm.rolling ≠ none

/-- R352: no area is kept for a team: its launch is gone, or no image declared it. -/
abbrev noArea (s : State) (tm : Team) : Prop := ∀ l, launchOf s tm.launch = some l → regionOf s l.asid (areaOf l tm / 65536) = none

/-- R352: a team's area is one mapped page at `pa`, and nothing of the team is staged. -/
abbrev areaAt (s : State) (tm : Team) (pa : Nat) : Prop :=
  tm.staged = [] ∧ s.mem.redEntries = [] ∧ Memory.wf s.mem.cells = true ∧ areaSize tm.desc (imagesOf s tm.tid).length ≤ 65536 ∧
    ∃ l k, launchOf s tm.launch = some l ∧ regionOf s l.asid (areaOf l tm / 65536) ≠ none ∧ areaOf l tm % 65536 = 0 ∧
      physOf s l.asid (areaOf l tm) = some (pa, k)

/-- R346: the teams that are stopped with a team: all of a cohort launch's, or the named ones of the launch in its cluster. -/
abbrev stopsWith (s : State) (tm x : Team) : Prop :=
  x.launch = tm.launch ∧ x.state = .running ∧ x.role ≠ .handler ∧
    (x.tid = tm.tid ∨
      ((∃ l, launchOf s tm.launch = some l ∧ l.cohort = true) ∧ tm.role.compensates = false ∧ x.role.compensates = false) ∨
      (tm.name ≠ none ∧ x.name ≠ none ∧ x.place.map (clusterOf s) = tm.place.map (clusterOf s)))

/-- R254: every path of a strand waits. -/
abbrev waitsWhole (st : Strand) : Prop := st.paths ≠ [] ∧ ∀ p ∈ st.paths, ∃ w since, p.state = .waiting w since

/-- R259: the link by which a bind record goes out holds a permit. -/
abbrev linkOpen (s : State) (r : BindRecord) : Prop := (linkDir s r.die r.cluster false).permits ≠ 0

/-- The key that a bind record names. -/
def recordKey (r : BindRecord) : TeamKey := { kind := r.kind, x := r.x, y := r.y, z := r.z, stage := r.stage }

/-- The one team of that key and launch in a state. -/
abbrev namesTeam (s : State) (r : BindRecord) (tm : Team) (st : TeamState) : Prop :=
  tm ∈ s.teams ∧ tm.state = st ∧ tm.launch = r.launch ∧ tm.key = recordKey r ∧ tm.role ≠ .handler ∧ (s.teams.map (·.tid)).Nodup ∧
    ∀ x ∈ s.teams, x.launch = r.launch → x.key = recordKey r → x = tm

/-- R345: the state once the record's message has taken a permit, and its acknowledgement is on its way. -/
abbrev sameTeams (s t : State) : Prop := t.teams = s.teams ∧ t.strands = s.strands ∧ t.threads = s.threads ∧ t.mem = s.mem

/-- R345: the event of the record's op, written to a leaf controller, gives `t`. -/
abbrev bindWritten (s : State) (r : BindRecord) (t : State) : Prop :=
  (r.op = 1 → exec (.bindPlace r) s = .next t) ∧ (r.op = 2 → exec (.bindStop r) s = .next t) ∧
    (r.op = 3 → exec (.bindResume r) s = .next t) ∧ (r.op = 4 → exec (.bindRelease r) s = .next t)

/-- R337: a ring entry of `bs` is waiting at the function's ring: its address is aligned, and its page stands in tier 0 at
`pa`. -/
abbrev ringHas (s : State) (vf pa : Nat) (bs : List Byte) : Prop :=
  let v := vcpOf s vf
  v.ringSize ≠ 0 ∧ v.flrBusy = false ∧ v.head.toNat < v.notify.toNat ∧ v.ringBase.toNat % 64 = 0 ∧
    (∃ k, physOf s v.asid (v.ringBase.toNat + 64 * (v.head.toNat % 2 ^ v.ringSize.toNat)) = some (pa, k)) ∧ pa % 64 = 0 ∧
    tierAt pa = some 0 ∧ s.mem.redEntries = [] ∧ Memory.wf s.mem.cells = true ∧ bs = cellGets s.mem.cells pa 64

/-- A little-endian field of a ring entry. -/
def ringField (bs : List Byte) (lo n : Nat) : Nat := natOfBytes ((bs.drop lo).take n)

/-- R337: an entry of the op whose other fields keep the table. -/
abbrev ringOp (bs : List Byte) (op : Nat) : Prop :=
  ringField bs 0 2 = op ∧ ringField bs 2 2 = 0 ∧ ringField bs 40 24 = 0 ∧ (op = 1 → ringField bs 4 4 = 0) ∧
    (op ≠ 1 → ringField bs 8 8 = 0 ∧ ringField bs 16 8 = 0) ∧ (op = 2 → ringField bs 24 8 < 256) ∧ (op ≠ 2 → ringField bs 24 8 = 0)

/-- R337: the entry at `pa` has ended: its status word says so, no other byte has changed, and head has advanced. -/
abbrev entryEnds (s r : State) (vf pa result handle : Nat) : Prop :=
  onlyBytes s r (pa + 32) 8 ∧ cellGets r.mem.cells (pa + 32) 8 = bytesOfNat 8 (2 ^ 63 + handle % 2 ^ 32 * 2 ^ 16 + result) ∧
    vcpOf r vf = { vcpOf s vf with head := (vcpOf s vf).head + 1 }

/-- R347: the bytes of an error record, with no poison. -/
def errorBytes (l : Launch) (code : Nat) : List Byte :=
  bytesOfNat 4 l.num ++ [BitVec.ofNat 8 code, BitVec.ofNat 8 (l.failTeam.stage.toNat * 16 + l.failTeam.kind.toNat)] ++
    bytesOfNat 2 (if code = 0x80 then l.provenance.toNat else 0) ++ bytesOfNat 8 l.failPc.toNat ++ bytesOfNat 4 l.failTeam.x.toNat ++
    bytesOfNat 4 l.failTeam.y.toNat ++ bytesOfNat 4 l.failTeam.z.toNat ++ bytesOfNat 4 l.failRank.toNat

/-! ### The platform -/

/-- R358: `s` with one core's power changed. -/
abbrev coreNow (s r : State) (core : Nat) (x : CoreRec) : Prop :=
  coreRec r core = x ∧ (∀ n, n ≠ core → coreRec r n = coreRec s n) ∧ r = { s with plant := { s.plant with cores := r.plant.cores } }

/-- R330: nothing of a world runs, is pushed or is filed. -/
abbrev idleWorld (s : State) (world : Nat) : Prop :=
  (∀ tm ∈ s.teams, tm.world.toNat = world → tm.state = .created) ∧ (∀ c ∈ s.eng.cmds, c.world.toNat ≠ world) ∧
    ∀ e ∈ s.traps.pillow, e.world.toNat ≠ world

/-- R335: a token for this device, its lifecycle state and its counter, whose signature verifies. -/
abbrev goodToken (s : State) (t : DebugToken) : Prop :=
  t.sigOk = true ∧ t.devid = s.trust.devid ∧ t.lifecycle = s.trust.lifecycle.toNat ∧ t.counter = s.trust.unlockCounter

/-- The team whose launch ends where a core is taken out (R268, R344). -/
abbrev onCore (s : State) (n : Nat) (tm : Team) : Prop :=
  tm ∈ s.teams ∧ tm.place = some n ∧ tm.state ≠ .ended ∧ tm.role = .field

/-! ### The whole machine -/

/-- Words written out from the spec's encodings, with the instructions that they stand for: `shr v3, v4, 7`,
`icmpi.lt p2, v5, -12`, `por`, `ldi v3, -2`, `rdsr v1`, `ffma.f32`, `cclip c2, c1, v3`, `add s1, s2, s3`, `lui`, `bra -2`,
`rep`, `pin.post 3`, `push q2, k3`, `sto.fill`, `tcfg`, `mma.bf16.keep`, `spawn`, `evt.pub`, `seam.step`, `gate.call`,
`net.put`, `csr.rd`, `key.load`, `sbj.rd`. -/
def wordsOfTheTable : List (Word × Instr) :=
  [ (0x00D0C447, .shrImm ⟨false, 0⟩ 3 4 7), (0x00F485F4, .icmpi ⟨false, 0⟩ 2 2 5 0x3D 0), (0x01165401, .por ⟨false, 0⟩ 3 1 2 1 0),
    (0x0120FFFE, .ldi ⟨false, 0⟩ 3 0x3FFE), (0x01304000, .rdsr ⟨false, 0⟩ 1 0), (0x0141C10B, .ffmaF32 ⟨false, 0⟩ 7 1 2),
    (0x036210C2, .cclip ⟨false, 0⟩ 2 1 3), (0x810420C0, .uAdd 1 2 3), (0x871079B9, .lui 4 0 0x79B9), (0x88FFFFFE, .bra 0xFFFFFE),
    (0x910F1000, .rep 3 1 1 0 1), (0x92000C00, .pinPost 3), (0x93083001, .pushK 2 3), (0x02504490, .stoFill ⟨false, 0⟩ 1 1 2),
    (0x970850C0, .tcfg 2 5 3), (0x02B12301, .mmaBf16 ⟨false, 0⟩ 1 2 3 1) ] ++
  [ (0x9A105180, .spawn 4 5 6), (0x9B000001, .evtPub), (0x9C0C4141, .seamStep 3 4 5), (0x9D0020C0, .gateCall 2 3),
    (0x9F1820C0, .netPut 6 2 3), (0xA01050C2, .csrRd 4 5 3), (0xA0102145, .keyLoad 4 2 5), (0x0380C600, .sbjRd ⟨false, 0⟩ 3 6) ]

/-- Memory is in its canonical form: one list for one memory. -/
abbrev MemoryCanonical (s : State) : Prop := Memory.wf s.mem.cells = true

end Sys2Proof.Claims

open Sys2Proof Sys2Proof.Machine Sys2Proof.Claims

/-! ### Integer lanes (R106 to R116) -/

/-- R107 and R110: an instruction of majors 0x01 to 0x05, or a bit-field form, whose registers exist writes the value of
its rule to v[d] of every active thread, goes on at the next word, and changes nothing else.
R108, R110, R111, R114, R120, R126: the same of the forms of one register and of the immediate forms.
R113, R115: a comparison writes its relation to p[pd], and a predicate operation its value, each operand negated
by its bit. The borderline values that R112 lists for these forms are values of these rules. -/
def Obligations.LaneArithmeticGivesItsValue : Prop :=
  (∀ e ∈ laneTernary, ∀ (g : Guard) (d a b : BitVec 6) (s : State) (c : Ctx),
    ctxOf s = some c → c.vOk [d.toNat, a.toNat, b.toNat] = true →
    exec (e.1 g d a b) s = .next (afterLanes s c g fun t =>
      [.v d.toNat (e.2 (t.getV d.toNat) (t.getV a.toNat) (t.getV b.toNat))])) ∧
  ((∀ e ∈ laneUnary, ∀ (g : Guard) (d a : BitVec 6) (s : State) (c : Ctx),
    ctxOf s = some c → c.vOk [d.toNat, a.toNat] = true →
    exec (e.1 g d a) s = .next (afterLanes s c g fun t => [.v d.toNat (e.2 (t.getV a.toNat))])) ∧
  (∀ e ∈ laneImmediate, ∀ (g : Guard) (d a : BitVec 6) (i : BitVec 8) (s : State) (c : Ctx),
    ctxOf s = some c → c.vOk [d.toNat, a.toNat] = true →
    exec (e.1 g d a i) s = .next (afterLanes s c g fun t => [.v d.toNat (e.2 (t.getV a.toNat) i)])) ∧
  (∀ e ∈ laneShift, ∀ (g : Guard) (d a : BitVec 6) (i : BitVec 5) (s : State) (c : Ctx),
    ctxOf s = some c → c.vOk [d.toNat, a.toNat] = true →
    exec (e.1 g d a i) s = .next (afterLanes s c g fun t => [.v d.toNat (e.2 (t.getV a.toNat) i.toNat)]))) ∧
  ((∀ (g : Guard) (p cc : BitVec 3) (a b : BitVec 6) (t : BitVec 2) (s : State) (c : Ctx),
    ctxOf s = some c → c.vOk [a.toNat, b.toNat] = true →
    exec (.icmp g p cc a b t) s = .next (afterLanes s c g fun u =>
      [.p p.toNat (if t = 0 then relates cc (u.getV a.toNat).toInt (u.getV b.toNat).toInt
        else relates cc (u.getV a.toNat).toNat (u.getV b.toNat).toNat)])) ∧
  (∀ (g : Guard) (p cc : BitVec 3) (a i : BitVec 6) (t : BitVec 2) (s : State) (c : Ctx),
    ctxOf s = some c → c.vOk [a.toNat] = true →
    exec (.icmpi g p cc a i t) s = .next (afterLanes s c g fun u =>
      [.p p.toNat (if t = 0 then relates cc (u.getV a.toNat).toInt i.toInt
        else relates cc (u.getV a.toNat).toNat i.toNat)])) ∧
  (∀ e ∈ lanePredicate, ∀ (g : Guard) (d a b : BitVec 3) (x y : BitVec 1) (s : State) (c : Ctx),
    ctxOf s = some c →
    exec (e.1 g d a b x y) s = .next (afterLanes s c g fun u =>
      [.p d.toNat (e.2 (u.getP a.toNat != (x == 1)) (u.getP b.toNat != (y == 1)))])))

/-- R114, R116: moves. `bcast` gives the low word of s[a], s63 giving 0; `movp` gives p7 to p1 and a 1; `mvp` writes p1 to
p7; `ldi` gives its immediate. -/
def Obligations.LaneMovesGiveTheirValue : Prop :=
  (∀ (g : Guard) (d a : BitVec 6) (s : State) (c : Ctx), ctxOf s = some c → c.vOk [d.toNat] = true →
    exec (.bcast g d a) s = .next (afterLanes s c g fun _ =>
      [.v d.toNat (if a = 63 then 0 else (sget 0 c.st.s a.toNat).setWidth 32)])) ∧
  (∀ (g : Guard) (d : BitVec 6) (s : State) (c : Ctx), ctxOf s = some c → c.vOk [d.toNat] = true →
    exec (.movp g d) s = .next (afterLanes s c g fun t => [.v d.toNat (word (t.p.toNat / 2 * 2 + 1))])) ∧
  (∀ (g : Guard) (a : BitVec 6) (s : State) (c : Ctx), ctxOf s = some c → c.vOk [a.toNat] = true →
    exec (.mvp g a) s = .next (afterLanes s c g fun t =>
      [1, 2, 3, 4, 5, 6, 7].map fun i => Write.p i ((t.getV a.toNat).getLsbD i))) ∧
  (∀ (g : Guard) (d : BitVec 6) (i : BitVec 14) (s : State) (c : Ctx), ctxOf s = some c → c.vOk [d.toNat] = true →
    exec (.ldi g d i) s = .next (afterLanes s c g fun _ => [.v d.toNat (word i.toInt)]))

/-- R68, R109: a division is a long instruction: its result enters RB. A divisor of 0 gives 0xFFFFFFFF or the dividend
where dz_quiet is set.
R122, R40, R121: a special function is long; its flags are part of the long result.
Log entry 12 tells what of it is the model's choice or reading. -/
def Obligations.DivisionAndFunctionsEnterTheirResult : Prop :=
  (∀ e ∈ laneDivide, ∀ (g : Guard) (d a b : BitVec 6) (s : State) (c : Ctx),
    ctxOf s = some c → c.vOk [d.toNat, a.toNat, b.toNat] = true → rbRoom c →
    (∀ t ∈ c.active s g, t.getV b.toNat = 0 → fpDzQuiet t.fpcsr = true) →
    exec (e.1 g d a b) s = .next (afterLong s c g fun t =>
      [.v d.toNat (if t.getV b.toNat = 0 then (if e.2.1 then 0xFFFFFFFF else t.getV a.toNat)
        else e.2.2 (t.getV a.toNat) (t.getV b.toNat))])) ∧
  (∀ e ∈ laneFunction, ∀ (g : Guard) (d a : BitVec 6) (s : State) (c : Ctx),
    ctxOf s = some c → c.vOk [d.toNat, a.toNat] = true → rbRoom c →
    let r := fun (t : Thread) => special (fpFtz t.fpcsr) e.2 (t.getV a.toNat).toNat
    (∀ t ∈ c.active s g, untrapped t (r t).2) →
    exec (e.1 g d a) s = .next (afterLong s c g fun t => [.v d.toNat (word (r t).1), .flags (r t).2]))

/-! ### Floating point (R67 to R87, R119 to R131) -/

/-- R119, R72, R74: an arithmetic instruction rounds the exact element results once, writes v[d] and ORs the flags into
the thread's sr.fpcsr, where no raised flag is trap-enabled.
R120, R124, R125: minimum, maximum, rounding to an integral value and comparison. -/
def Obligations.FloatOperationsGiveTheirValue : Prop :=
  (∀ e ∈ laneFloat, ∀ (g : Guard) (d a b : BitVec 6) (s : State) (c : Ctx),
    ctxOf s = some c → c.vOk [d.toNat, a.toNat, b.toNat] = true →
    (∀ t ∈ c.active s g, untrapped t (floatResult e.2.1 e.2.2 t a b d).2) →
    exec (e.1 g d a b) s = .next (afterLanes s c g fun t =>
      [.v d.toNat (floatResult e.2.1 e.2.2 t a b d).1, .flags (floatResult e.2.1 e.2.2 t a b d).2])) ∧
  ((∀ e ∈ [((Instr.fminF32), false), ((Instr.fmaxF32), true)], ∀ (g : Guard) (d a b : BitVec 6) (s : State) (c : Ctx),
    ctxOf s = some c → c.vOk [d.toNat, a.toNat, b.toNat] = true →
    let r := fun (t : Thread) => f32.minmax e.2 (f32.flushIn (fpFtz t.fpcsr) (t.getV a.toNat).toNat)
      (f32.flushIn (fpFtz t.fpcsr) (t.getV b.toNat).toNat)
    (∀ t ∈ c.active s g, untrapped t (r t).2) →
    exec (e.1 g d a b) s = .next (afterLanes s c g fun t => [.v d.toNat (word (r t).1), .flags (r t).2])) ∧
  (∀ e ∈ laneRound, ∀ (g : Guard) (d a : BitVec 6) (s : State) (c : Ctx),
    ctxOf s = some c → c.vOk [d.toNat, a.toNat] = true →
    let r := fun (t : Thread) => f32.flushOut (fpFtz t.fpcsr)
      (f32.roundIntegral e.2 (f32.flushIn (fpFtz t.fpcsr) (t.getV a.toNat).toNat))
    (∀ t ∈ c.active s g, untrapped t (r t).2) →
    exec (e.1 g d a) s = .next (afterLanes s c g fun t => [.v d.toNat (word (r t).1), .flags (r t).2])) ∧
  (∀ (g : Guard) (p cc : BitVec 3) (a b : BitVec 6) (ty : BitVec 2) (s : State) (c : Ctx),
    ctxOf s = some c → c.vOk [a.toNat, b.toNat] = true → ty ≠ 3 →
    let f := if ty = 0 then f32 else if ty = 1 then f16 else bf16
    let x := fun (t : Thread) (n : BitVec 6) =>
      f.flushIn (fpFtz t.fpcsr) (if ty = 0 then (t.getV n.toNat).toNat else (t.getV n.toNat).toNat % 65536)
    let r := fun (t : Thread) => f.compare cc.toNat (x t a) (x t b)
    (∀ t ∈ c.active s g, untrapped t (r t).2) →
    exec (.fcmp g p cc a b ty) s = .next (afterLanes s c g fun t => [.p p.toNat (r t).1, .flags (r t).2])))

/-- R127 to R131: conversions, and KN4 blocks packed from four registers and unpacked into four.
R70, R76: a code of a finite value is what that value rounds to in every mode, with no flag: a format's decoding and
its rounding agree. -/
def Obligations.ConversionsRoundOnce : Prop :=
  ((∀ e ∈ laneConvert, ∀ (g : Guard) (d a : BitVec 6) (dt st : BitVec 4) (s : State) (c : Ctx),
    ctxOf s = some c → c.vOk [d.toNat, a.toNat] = true →
    (∀ t ∈ c.active s g, untrapped t (convertResult e.2 dt st t a).2.1) →
    exec (e.1 g d a dt st) s = .next (afterLanes s c g fun t =>
      [.v d.toNat (convertResult e.2 dt st t a).1, .gen (convertResult e.2 dt st t a).2.2,
       .flags (convertResult e.2 dt st t a).2.1])) ∧
  (∀ (g : Guard) (d a : BitVec 6) (ty : BitVec 2) (s : State) (c : Ctx),
    ctxOf s = some c → c.vOk [d.toNat, a.toNat, a.toNat + 1, a.toNat + 2, a.toNat + 3] = true →
    let r := fun (t : Thread) => kn4Pack f32 ty.toNat ([0, 1, 2, 3].map fun i => (t.getV (a.toNat + i)).toNat)
    (∀ t ∈ c.active s g, untrapped t (r t).2.2) →
    exec (.kpack g d a ty) s = .next (afterLanes s c g fun t =>
      [.v d.toNat (word ((r t).2.1 * 65536 + (r t).1)), .flags (r t).2.2])) ∧
  (∀ (g : Guard) (d a : BitVec 6) (s : State) (c : Ctx),
    ctxOf s = some c → c.vOk [a.toNat, d.toNat, d.toNat + 1, d.toNat + 2, d.toNat + 3] = true →
    exec (.kunpack g d a) s = .next (afterLanes s c g fun t =>
      let w := (t.getV a.toNat).toNat
      [0, 1, 2, 3].map fun i => Write.v (d.toNat + i) (word (kn4ToF32 (w / 65536 % 256) (w % 65536) i))))) ∧
  (∀ f ∈ [f32, f16, bf16, e4m3, e5m2, a56], ∀ (mode : RMode) (code : Nat) (neg : Bool) (m : Nat) (x : Int),
    code < 2 ^ (f.sb + 1) → f.decode code = .fin neg m x → f.round mode neg m x = (code, 0))

/-! ### Lanes together (R145 to R151) -/

/-- R145, R146: an exchange gives v[a] of the partner where it is present in the current path, and the lane's own v[a]
otherwise; the result is long. -/
def Obligations.ExchangesTakeThePartnersRegister : Prop :=
  ∀ e ∈ laneExchange, ∀ (g : Guard) (d a b : BitVec 6) (s : State) (c : Ctx),
    ctxOf s = some c → c.vOk [d.toNat, a.toNat, b.toNat] = true → rbRoom c →
    exec (e.1 g d a b) s = .next (afterLong s c g fun t =>
      let partner := (e.2 s c t (t.getV b.toNat)).bind fun j => (presentOf s c.st.sid c.p).find? fun u => u.slot == j
      [.v d.toNat ((partner.getD t).getV a.toNat)])

/-- R147: the polls over the active threads' predicate.
R148, R149, R151: a reduction gives every active lane the value of the fixed tree over the 32 slots; an f32 form ORs the
flags of every operation.
R150, R151: a scan gives each active lane the prefix of its slot: slot 0's operand, and from slot to slot the operation. -/
def Obligations.PollsReductionsAndScansFoldTheThreads : Prop :=
  (∀ (g : Guard) (a : BitVec 3) (s : State) (c : Ctx), ctxOf s = some c →
    (∀ d : BitVec 3, exec (.pollAny g d a) s = .next (afterLanes s c g fun _ =>
      [.p d.toNat ((c.active s g).any fun t => t.getP a.toNat)])) ∧
    (∀ d : BitVec 3, exec (.pollAll g d a) s = .next (afterLanes s c g fun _ =>
      [.p d.toNat (!((c.active s g).any fun t => !t.getP a.toNat))])) ∧
    (∀ d : BitVec 6, c.vOk [d.toNat] = true → ∃ m : Word,
      (∀ i, i < 32 → m.getLsbD i = (c.active s g).any fun t => t.slot == i && t.getP a.toNat) ∧
      exec (.pollMask g d a) s = .next (afterLanes s c g fun _ => [.v d.toNat m])) ∧
    (∀ d : BitVec 6, c.vOk [d.toNat] = true →
      exec (.pollCount g d a) s = .next (afterLanes s c g fun _ =>
        [.v d.toNat (word ((c.active s g).countP fun t => t.getP a.toNat))]))) ∧
  ((∀ e ∈ laneReduceTyped, ∀ (g : Guard) (d a : BitVec 6) (ty : BitVec 3) (s : State) (c : Ctx),
    ctxOf s = some c → c.vOk [d.toNat, a.toNat] = true → rbRoom c →
    let r := treeFold (e.2.1 ty.toNat) 5 ((List.range 32).map (slotValue s c g (e.2.2 ty.toNat) a))
    (∀ t ∈ c.active s g, untrapped t r.2) →
    exec (e.1 g d a ty) s = .next (afterLong s c g fun _ => [.v d.toNat r.1, .flags r.2])) ∧
  (∀ e ∈ laneReduceBits, ∀ (g : Guard) (d a : BitVec 6) (s : State) (c : Ctx),
    ctxOf s = some c → c.vOk [d.toNat, a.toNat] = true → rbRoom c →
    exec (e.1 g d a) s = .next (afterLong s c g fun _ =>
      [.v d.toNat (((List.range 32).map (slotValue s c g e.2.2 a)).foldl e.2.1 e.2.2), .flags 0])) ∧
  (∀ e ∈ [((Instr.xminIdx), false), ((Instr.xmaxIdx), true)], ∀ (g : Guard) (d a : BitVec 6) (ty : BitVec 3) (s : State) (c : Ctx),
    ctxOf s = some c → c.vOk [d.toNat, d.toNat + 1, a.toNat, a.toNat + 1] = true → rbRoom c →
    let pair := fun (i : Nat) => (((c.active s g).find? fun t => t.slot == i).map fun t =>
      (t.getV a.toNat, t.getV (a.toNat + 1))).getD (idxUnit e.2 ty.toNat)
    let r := treePairs (idxOp e.2 ty.toNat) 5 ((List.range 32).map pair)
    exec (e.1 g d a ty) s = .next (afterLong s c g fun _ => [.v d.toNat r.1, .v (d.toNat + 1) r.2]))) ∧
  (∀ (g : Guard) (d a : BitVec 6) (ty : BitVec 3) (s : State) (c : Ctx),
    ctxOf s = some c → c.vOk [d.toNat, a.toNat] = true → rbRoom c →
    let x := slotValue s c g (addUnit ty.toNat) a
    (∀ t ∈ c.active s g, untrapped t (scanFlags (addOp ty.toNat) x)) →
    exec (.xscanAdd g d a ty) s = .next (afterLong s c g fun t =>
      [.v d.toNat (scanPrefix (addOp ty.toNat) x t.slot), .flags (scanFlags (addOp ty.toNat) x)]))

/-! ### Capabilities (R88 to R97, R152 to R156) -/

/-- R94, R152, R153, R155: a lane derivation writes its result and p7, which is 1 exactly where the result is untagged.
R152 ops 9 to 11, R154: copies and reads write no predicate. -/
def Obligations.CapabilityInstructionsGiveTheirResult : Prop :=
  ((∀ e ∈ laneDeriveV, ∀ (g : Guard) (d a : BitVec 4) (b : BitVec 6) (s : State) (c : Ctx),
    ctxOf s = some c → c.cOk [d.toNat, a.toNat] = true → c.vOk [b.toNat] = true → (e.2.1 = true → c.vOk [b.toNat + 1] = true) →
    exec (e.1 g d a b) s = .next (afterLanes s c g fun t =>
      let r := e.2.2 t b (t.getC a.toNat)
      [.c d.toNat r, .p 7 (!r.tag)])) ∧
  (∀ e ∈ laneDeriveC, ∀ (g : Guard) (d a b : BitVec 4) (s : State) (c : Ctx),
    ctxOf s = some c → c.cOk [d.toNat, a.toNat, b.toNat] = true →
    exec (e.1 g d a b) s = .next (afterLanes s c g fun t =>
      let r := e.2 (t.getC a.toNat) (t.getC b.toNat)
      [.c d.toNat r, .p 7 (!r.tag)])) ∧
  (∀ e ∈ laneDeriveOne, ∀ (g : Guard) (d a : BitVec 4) (s : State) (c : Ctx),
    ctxOf s = some c → c.cOk [d.toNat, a.toNat] = true →
    exec (e.1 g d a) s = .next (afterLanes s c g fun t =>
      let r := e.2 (t.getC a.toNat)
      [.c d.toNat r, .p 7 (!r.tag)])) ∧
  (∀ (g : Guard) (d a : BitVec 4) (i : BitVec 12) (s : State) (c : Ctx),
    ctxOf s = some c → c.cOk [d.toNat, a.toNat] = true →
    exec (.cadvImm g d a i) s = .next (afterLanes s c g fun t =>
      let x := t.getC a.toNat
      let r := x.moveTo ((x.addr + i.toInt) % 18446744073709551616).toNat
      [.c d.toNat r, .p 7 (!r.tag)]))) ∧
  ((∀ (g : Guard) (d a : BitVec 4) (s : State) (c : Ctx), ctxOf s = some c → c.cOk [d.toNat, a.toNat] = true →
    exec (.ccopy g d a) s = .next (afterLanes s c g fun t => [.c d.toNat (t.getC a.toNat)]) ∧
    exec (.cdetag g d a) s = .next (afterLanes s c g fun t => [.c d.toNat ⟨(t.getC a.toNat).bits, false⟩])) ∧
  (∀ (g : Guard) (d b : BitVec 4) (s : State) (c : Ctx), ctxOf s = some c → c.cOk [d.toNat] = true →
    exec (.cbcast g d b) s = .next (afterLanes s c g fun _ => [.c d.toNat (c.st.getK b.toNat)])) ∧
  (∀ e ∈ laneReadPair, ∀ (g : Guard) (a : BitVec 4) (b : BitVec 6) (s : State) (c : Ctx),
    ctxOf s = some c → c.cOk [a.toNat] = true → c.vOk [b.toNat, b.toNat + 1] = true →
    exec (e.1 g a b) s = .next (afterLanes s c g fun t =>
      let x := e.2 (t.getC a.toNat)
      [.v b.toNat (BitVec.ofNat 32 x), .v (b.toNat + 1) (BitVec.ofNat 32 (x / 4294967296 % 4294967296))])) ∧
  (∀ (g : Guard) (a : BitVec 4) (b : BitVec 6) (s : State) (c : Ctx),
    ctxOf s = some c → c.cOk [a.toNat] = true → c.vOk [b.toNat] = true →
    exec (.creadInfo g a b) s = .next (afterLanes s c g fun t =>
      let x := t.getC a.toNat
      [.v b.toNat (word ((if x.tag then 2147483648 else 0) + x.version.toNat * 65536 + x.seal * 4096 +
        x.colour.toNat * 256 + x.perms.toNat))])))

/-- R94: a derivation that gives a tagged result had a tagged source, and the result holds no permission that the source
lacks, spans no byte outside the source's region, and keeps its colour and version. -/
def Obligations.DerivationNeverWidens : Prop :=
  (∀ (x : Cap) (a : Nat), (x.moveTo a).tag = true → within (x.moveTo a) x ∧ x.seal = 0) ∧
  (∀ (x : Cap) (n : Nat) (exact : Bool), let r := x.setBounds x.addr (x.addr + n) exact
    r.tag = true → within r x ∧ x.seal = 0) ∧
  (∀ (x : Cap) (m : BitVec 8), (x.strip m).tag = true → within (x.strip m) x ∧ x.seal = 0) ∧
  (∀ (x auth : Cap), (x.wrap auth).tag = true → within (x.wrap auth) x ∧ x.seal = 0) ∧
  (∀ (x : Cap) (n : Nat), (x.wrapAs n).tag = true → within (x.wrapAs n) x ∧ x.seal = 0) ∧
  (∀ (x auth : Cap), (x.unwrap auth).tag = true → within (x.unwrap auth) x ∧ (x.seal : Int) = sealType auth)

/-! ### Special registers (R73 to R77, R117, R118, R238) -/

/-- R117, R118: `rdsr` gives the register, zero-extended, in every active thread; bit 11 of the number gives bits [63:32].
In a handler strand the registers of the field and of the team are left open (log entry 13), and the instruction
completes with some value.
R238, R75: `mfsr` gives the register to s[d]; of a thread's own register the value in the path's present thread of the lowest
rank, and of sr.fpcsr its control bits with the flags of every present thread of the path, in solo mode the frozen ones too.
R73, R75, R77, R238: what `mtsr` writes for each writable register; sr.fpcsr and sr.srseed reach every executing thread
of the path. -/
def Obligations.SpecialRegistersReadAndWrite : Prop :=
  ((∀ e ∈ specialRegister, ∀ (g : Guard) (d : BitVec 6) (hi : Bool) (s : State) (c : Ctx) (l : Launch),
    ctxOf s = some c → c.handler = false → launchOf s c.tm.launch = some l → c.vOk [d.toNat] = true →
    exec (.rdsr g d (BitVec.ofNat 12 (e.1 + if hi then 0x800 else 0))) s = .next
      { afterLanes s c g (fun t => [.v d.toNat (BitVec.ofNat 32
          (e.2 s c l t % 18446744073709551616 / (if hi then 4294967296 else 1)))]) with teams := readTeams s c e.1 }) ∧
  (∀ (g : Guard) (d : BitVec 6) (r : BitVec 12) (s : State) (c : Ctx),
    ctxOf s = some c → c.vOk [d.toNat] = true → ∃ v : Thread → Word,
    exec (.rdsr g d r) s = .next
      { afterLanes s c g (fun t => [.v d.toNat (v t)]) with teams := readTeams s c (r.toNat % 0x800) })) ∧
  ((∀ e ∈ specialRegister, ∀ (d : BitVec 6) (s : State) (c : Ctx) (l : Launch) (t : Thread),
    ctxOf s = some c → c.handler = false → launchOf s c.tm.launch = some l →
    lowestIn (presentOf s c.st.sid c.p) t → e.1 ≠ 0x004 →
    exec (.mfsr d (BitVec.ofNat 12 e.1)) s = .next
      { afterUniform s c (fun st => st.setS d.toNat (BitVec.ofNat 64 (e.2 s c l t))) with teams := readTeams s c e.1 }) ∧
  (∀ (d : BitVec 6) (s : State) (c : Ctx) (t : Thread),
    ctxOf s = some c → lowestIn (presentOf s c.st.sid c.p) t → ∃ f : Word,
    (∀ i, i < 32 → f.getLsbD i = ((5 ≤ i && i < 15 && t.fpcsr.getLsbD i) ||
      (i < 5 && (presentOf s c.st.sid c.p).any fun u => u.fpcsr.getLsbD i))) ∧
    exec (.mfsr d 0x004) s = .next (afterUniform s c fun st => st.setS d.toNat (f.setWidth 64)))) ∧
  (∀ (d : BitVec 6) (s : State) (c : Ctx), ctxOf s = some c →
    let x : Word := (c.st.getS d.toNat).setWidth 32
    let each := fun (f : Thread → Thread) =>
      mapIf (fun t => t.tid == c.tm.tid && (c.ranks s).contains t.rank) f s.threads
    exec (.mtsr d 0x004) s = .next
      { afterUniform s c id with threads := each fun t => { t with fpcsr := x &&& 0x7BFF } } ∧
    exec (.mtsr d 0x008) s = .next (afterUniform s c fun st => { st with absence := x.setWidth 16 }) ∧
    exec (.mtsr d 0x009) s = .next
      { afterUniform s c (fun st => { st with srseed := x }) with
        threads := each fun t => { t with gen := reseed t.rank x } } ∧
    (∀ i, i < 4 → exec (.mtsr d (BitVec.ofNat 12 (0x00C + i))) s =
      .next (afterUniform s c fun st => { st with qtile := sput 0 st.qtile i (x &&& 0xFFF) })) ∧
    exec (.mtsr d 0x025) s = .next (afterUniform s c fun st => { st with mstat := x &&& 0xF }))

/-! ### Uniform arithmetic (R234 to R237) and `ucap` (R156) -/

/-- R235 to R237: a uniform instruction of majors 0x01 to 0x07 writes its value to s[d] and changes nothing else but the PC.
A write of s63 is discarded, and s63 reads 0 (R234).
R94, R156: a `ucap` derivation writes k[d], and p7 in every executing thread; the copies write no predicate; the reads
give s[d]. -/
def Obligations.UniformArithmeticAndUcapGiveTheirValue : Prop :=
  ((∀ e ∈ uniformBinary, ∀ (d a b : BitVec 6) (s : State) (c : Ctx), ctxOf s = some c →
    exec (e.1 d a b) s = .next (afterUniform s c fun st => st.setS d.toNat (e.2 (c.st.getS a.toNat) (c.st.getS b.toNat)))) ∧
  (∀ e ∈ uniformUnary, ∀ (d a : BitVec 6) (s : State) (c : Ctx), ctxOf s = some c →
    exec (e.1 d a) s = .next (afterUniform s c fun st => st.setS d.toNat (e.2 (c.st.getS a.toNat)))) ∧
  (∀ e ∈ uniformImmediate, ∀ (d a : BitVec 6) (i : BitVec 12) (s : State) (c : Ctx), ctxOf s = some c →
    exec (e.1 d a i) s = .next (afterUniform s c fun st => st.setS d.toNat (e.2 (c.st.getS a.toNat) i))) ∧
  (∀ e ∈ uniformShift, ∀ (d a i : BitVec 6) (s : State) (c : Ctx), ctxOf s = some c →
    exec (e.1 d a i) s = .next (afterUniform s c fun st => st.setS d.toNat (e.2 (c.st.getS a.toNat) i.toNat))) ∧
  (∀ (d : BitVec 6) (h : BitVec 2) (i : BitVec 16) (s : State) (c : Ctx), ctxOf s = some c →
    exec (.lui d h i) s = .next (afterUniform s c fun st => st.setS d.toNat
      (dword (i.toNat * 2 ^ (16 * h.toNat) + (c.st.getS d.toNat).toNat % 2 ^ (16 * h.toNat))))) ∧
  (∀ (st : Strand) (w : DWord), st.setS 63 w = st ∧ st.getS 63 = 0)) ∧
  (∀ (s : State) (c : Ctx), ctxOf s = some c →
    (∀ e ∈ uniformDerive, ∀ (d a : BitVec 4) (b : BitVec 6),
      let r := e.2 (c.st.getK a.toNat) (c.st.getS b.toNat) (c.st.getK (b.toNat % 16))
      exec (.ucap (d.setWidth 6) (a.setWidth 6) b e.1) s = .next
        { afterUniform s c (fun st => st.setK d.toNat r) with
          threads := mapIf (fun t => t.tid == c.tm.tid && (c.ranks s).contains t.rank) (fun t => t.setP 7 (!r.tag)) s.threads }) ∧
    (∀ (d a : BitVec 4) (b : BitVec 6),
      exec (.ucap (d.setWidth 6) (a.setWidth 6) b 9) s = .next (afterUniform s c fun st => st.setK d.toNat (c.st.getK a.toNat)) ∧
      exec (.ucap (d.setWidth 6) (a.setWidth 6) b 10) s =
        .next (afterUniform s c fun st => st.setK d.toNat ⟨(c.st.getK a.toNat).bits, false⟩)) ∧
    (∀ (d : BitVec 6) (a : BitVec 4) (b : BitVec 6),
      let x := c.st.getK a.toNat
      exec (.ucap d (a.setWidth 6) b 16) s = .next (afterUniform s c fun st => st.setS d.toNat (dword x.addr)) ∧
      exec (.ucap d (a.setWidth 6) b 17) s = .next (afterUniform s c fun st => st.setS d.toNat (dword x.region.1)) ∧
      exec (.ucap d (a.setWidth 6) b 18) s = .next (afterUniform s c fun st => st.setS d.toNat
        (dword (min (x.region.2 - x.region.1) 18446744073709551615 : Nat))) ∧
      exec (.ucap d (a.setWidth 6) b 19) s = .next (afterUniform s c fun st => st.setS d.toNat (x.info.setWidth 64))))

/-! ### Control flow (R41 to R62, R132 to R137, R171, R253, R383) -/

/-- R133: branches, `call` and `loop`, in their own words. `loop` names no s63 (R133).
R135, R136: `ret` goes to s[a]; `jmpc` checks the tag, the seal and X in that order, and a capability that passes
becomes the path's code capability, with seal 0; the link is the old one, sealed as an entry at the next word. -/
def Obligations.BranchesAndJumpsSetThePc : Prop :=
  (∀ (s : State) (c : Ctx), ctxOf s = some c →
    (∀ o : BitVec 24, exec (.bra o) s = .next (afterJump s c id (target c o))) ∧
    (∀ e ∈ uniformBranch, ∀ (a : BitVec 6) (o : BitVec 15),
      exec (e.1 a o) s = .next (afterJump s c id (if e.2 (c.st.getS a.toNat).toInt then target c o else c.p.pc + 4))) ∧
    (∀ (a : BitVec 6) (o : BitVec 15), a ≠ 63 →
      let x := dword ((c.st.getS a.toNat).toNat - 1)
      exec (.loop a o) s = .next (afterJump s c (fun st => st.setS a.toNat x) (if x ≠ 0 then target c o else c.p.pc + 4))) ∧
    (markerTaken c → ∀ o : BitVec 24,
      exec (.call o) s = .next (afterJump s c (fun st => st.setS 62 (c.p.pc + 4)) (target c o)))) ∧
  (∀ (s : State) (c : Ctx), ctxOf s = some c → markerTaken c →
    (∀ a : BitVec 6, exec (.ret a) s = .next (afterJump s c id (c.st.getS a.toNat))) ∧
    (∀ (l : BitVec 2) (d a : BitVec 4), l = 0 ∨ l = 1 →
      let x := c.st.getK a.toNat
      let link : Cap := (c.p.code.withAddr (c.p.pc + 4).toNat).withSeal 1
      let stop := fun (cause : BitVec 7) => fileThreads s c.at ((c.threads s).map fun t =>
        (t, { cause := cause, addr := 0, detail := BitVec.ofNat 32 (16 + a.toNat), asid := 0 }))
      exec (.jmpc l d a) s = .next (
        if x.tag = false then stop 0x04 else if 1 < x.seal then stop 0x06 else if x.perms.getLsbD 3 = false then stop 0x05
        else afterJump s c (fun st => (if l = 1 then st.setK d.toNat link else st).updPath c.p.pid fun p =>
          { p with code := x.withSeal 0 }) (dword x.addr))))

/-- R56: `brp`. Where the executing threads agree the path goes on as a whole; where they differ a frame opens and the path
becomes two, the taken one current; with 16 frames open they are filed with cause 0x01. With compaction (R60, R61) threads
may move to other strands; no register, no buffer and no memory changes.
R57: a `join` of a home strand. The path that completes its frame goes on, merged, after the first join of the frame,
below the frame's parent; a path that does not parks at the join. -/
def Obligations.PathsDivergeAndJoin : Prop :=
  (∀ (n : BitVec 1) (p : BitVec 3) (o : BitVec 20) (s : State) (c : Ctx), ctxOf s = some c → markerTaken c →
    let ts := c.threads s
    ((∀ t ∈ ts, takes n p t = true) → exec (.brp n p o) s = .next (afterJump s c id (target c o))) ∧
    ((∀ t ∈ ts, takes n p t = false) → ts ≠ [] → exec (.brp n p o) s = .next (afterJump s c id (c.p.pc + 4))) ∧
    ((∃ t ∈ ts, takes n p t = true) → (∃ t ∈ ts, takes n p t = false) → (∀ i, i < 16 → (c.st.frame? i).isSome) →
      exec (.brp n p o) s = .next (allFiled s c 0x01)) ∧
    (∀ fid, fid < 16 → (c.st.frame? fid).isNone → (∀ i, i < fid → (c.st.frame? i).isSome) →
      (∃ t ∈ ts, takes n p t = true) → (∃ t ∈ ts, takes n p t = false) →
      (c.tm.desc.compact = false → ∃ side : BitVec 32,
        (∀ i, i < 32 → side.getLsbD i = (c.p.mask.getLsbD i && ((slotThread s c.st.sid i).map (takes n p)).getD false)) ∧
        exec (.brp n p o) s = .next { s with strands := issuingStrand s c (divergedStrand c fid side (target c o)) }) ∧
      ∃ t, exec (.brp n p o) s = .next t ∧ registersOf t = registersOf s ∧ t.mem = s.mem ∧ t.teams = s.teams)) ∧
  (∀ (s : State) (c : Ctx) (fid : Nat) (f : Frame), ctxOf s = some c → markerTaken c → c.p.fence = none → c.st.kind = .home →
    (∀ x ∈ s.strands, x.kind ≠ .straggler c.st.sid false) →
    (∀ x ∈ s.strands, x.sid = c.st.sid → x = c.st) → (c.st.paths.filter fun q => q.pid == c.p.pid) = [c.p] →
    c.p.parent = some fid → c.st.frames = [(fid, f)] → (∀ t ∈ s.threads, t.tid = c.st.tid → t.status = .present ∧ t.straggling = false) →
    f.parent = none → c.st.rootJoin = none → f.clock = none → f.lapsed = 0 →
    let here := f.arrived ||| maskOf ((presentOf s c.st.sid c.p).map (·.slot))
    (f.expected = here → here ≠ 0 → ∃ t st q, exec .join s = .next t ∧ strandOf t c.st.sid = some st ∧ st.frames = [] ∧
      st.paths = (c.st.paths.filter fun r => r.parent != some fid) ++ [q] ∧
      q.mask = f.expected ∧ q.pc = f.joinpc.getD c.p.pc + 4 ∧ q.parent = none ∧ q.state = .ready ∧
      q.code = (if f.joinpc.isSome then f.code else c.p.code) ∧ registersOf t = registersOf s ∧ t.mem = s.mem) ∧
    (f.expected &&& ~~~here ≠ 0 → ∃ t st q g, exec .join s = .next t ∧ strandOf t c.st.sid = some st ∧
      st.frames = [(fid, g)] ∧ g.arrived = here ∧ g.joinpc = some (f.joinpc.getD c.p.pc) ∧ g.expected = f.expected ∧
      st.path? c.p.pid = some q ∧ q.state = .atJoin s.run.clock.toNat ∧ q.pc = c.p.pc ∧ registersOf t = registersOf s ∧ t.mem = s.mem))

/-- R58: `exit` ends every executing thread, and no other thread of the machine; no register changes, and of memory nothing but
staged lines that a full undo log makes drain (R202).
R137, R252, R253, R171, R383: instructions that only advance, and the mode of a path. `ppoint` stops a strand that has
been asked to stop: at once, at its next instruction, where it has no result outstanding, and else at the commit that it then
takes. -/
def Obligations.ExitsAndHints : Prop :=
  (∀ (s : State) (c : Ctx), ctxOf s = some c → markerTaken c → c.handler = false →
    (∀ t ∈ s.threads, ∀ u ∈ s.threads, t.tid = u.tid → t.rank = u.rank → t = u) →
    (∀ x ∈ s.strands, x.sid ∈ (s.threads.filter fun t => t.tid == c.st.tid).map (·.sid) → x.kind ≠ .handler) →
    (∀ x ∈ s.strands, x.tid = c.st.tid → x.kind ≠ .handler) → ∃ t, exec .exit s = .next t ∧ registersOf t = registersOf s ∧
      (∀ u ∈ c.threads s, ∃ x ∈ t.threads, x.tid = u.tid ∧ x.rank = u.rank ∧ x.status = .exited) ∧
      (∀ u ∈ s.threads, (∀ x ∈ c.threads s, x.tid ≠ u.tid ∨ x.rank ≠ u.rank) →
        ∃ x ∈ t.threads, x.tid = u.tid ∧ x.rank = u.rank ∧ x.status = u.status) ∧
      ((∀ x ∈ s.teams, x.exposed = true ∨ x.staged = []) → t.mem.cells = s.mem.cells)) ∧
  (∀ (s : State) (c : Ctx), ctxOf s = some c →
    exec .nop s = .next (afterUniform s c id) ∧
    (markerTaken c → exec .yield s = .next (afterUniform s c id)) ∧
    ((∀ n, c.st.stop ≠ .requested n) → exec .ppoint s = .next (afterUniform s c id)) ∧
    (∀ n, c.st.stop = .requested n → c.st.rb = [] → ∃ t z, exec .ppoint s = .next t ∧ strandOf t c.st.sid = some z ∧
      z.stop = .stopped ∧ z.commit = none ∧ z.s = c.st.s ∧ z.k = c.st.k ∧ z.rb = [] ∧
      z.paths.map (fun p => (p.pid, p.mask, p.pc, p.state)) =
        (c.st.updPath c.p.pid Path.advanced).paths.map (fun p => (p.pid, p.mask, p.pc, p.state)) ∧
      t.threads = s.threads ∧ t.teams = s.teams ∧ t.mem = s.mem) ∧
    (∀ n, c.st.stop = .requested n → c.st.rb ≠ [] →
      exec .ppoint s = .next { s with strands := issuingStrand s c fun st => { nextWord c st with commit := some .explicit } }) ∧
    (barred s c = false → exec .lfence s = .next { afterUniform s c id with
      run := { s.run with nextEv := s.run.nextEv + 1 }
      eng := { s.eng with lfences := sput 0 s.eng.lfences c.st.sid (s.run.nextEv + 1) } }) ∧
    (c.kernel = true → markerTaken c →
      exec .soloOn s = .next (afterUniform s c fun st => st.updPath c.p.pid fun p => { p with solo := true })) ∧
    (c.p.solo = true → markerTaken c →
      exec .soloOff s = .next (afterUniform s c fun st => st.updPath c.p.pid fun p => { p with solo := false })) ∧
    (markerTaken c → c.p.solo = false → exec .soloOff s = .next (allFiled s c 0x02)) ∧
    (markerTaken c → c.kernel = false → exec .soloOn s = .next (allFiled s c 0x02)))

/-- R46 to R49: `rep` makes its repeat state current where the follower may be repeated, and is filed with cause 0x01 where
it may not; while a repeat is in progress the path goes from repetition to repetition, and to PC + 8 after the last.
R47: repetition `i` of a follower of three registers adds i times the stride to each enabled field, modulo 64, leaves
the other fields, and carries the follower's S in the last repetition alone. -/
def Obligations.RepRepeatsAndSteps : Prop :=
  ((∀ (n : BitVec 6) (x y z : BitVec 1) (k : BitVec 3) (s t : State) (c : Ctx) (w : Word), ctxOf s = some c →
    fetchAt s c (c.p.pc + 4) = (t, .ok w) →
    (followerOk (repOf n x y z k) w = true → exec (.rep n x y z k) s = .next
      { t with strands := issuingStrand t c fun st => st.updPath c.p.pid fun p =>
          { p with rep := 0x80000000, repWord := repOf n x y z k, marked := false, fromBrp := none, probe := [] } }) ∧
    (followerOk (repOf n x y z k) w = false → markerTaken c → exec (.rep n x y z k) s = .next (allFiled t c 0x01))) ∧
  (∀ (p : Path) (i : Nat), i < 64 → p.rep = 0x80000000 ||| BitVec.ofNat 32 i →
    p.advanced.rep = (if i < (p.repWord.extractLsb' 18 6).toNat then 0x80000000 ||| BitVec.ofNat 32 (i + 1) else 0) ∧
    p.advanced.pc = (if i < (p.repWord.extractLsb' 18 6).toNat then p.pc else p.pc + 8)) ∧
  (∀ p : Path, p.rep.getLsbD 31 = false → p.advanced.rep = p.rep ∧ p.advanced.pc = p.pc + 4)) ∧
  (∀ (n : BitVec 6) (x y z : BitVec 1) (k : BitVec 3) (w : Word) (i : Nat), i ≤ n.toNat →
    (1 ≤ (w.extractLsb' 20 6).toNat ∧ (w.extractLsb' 20 6).toNat ≤ 8) → w.getLsbD 31 = false →
    let r := stepWord (repOf n x y z k) w i
    let stepped := fun (on : BitVec 1) (lo : Nat) =>
      ((w.extractLsb' lo 6).toNat + (if on = 1 then i * (k.toNat + 1) else 0)) % 64
    (r.extractLsb' 14 6).toNat = stepped x 14 ∧ (r.extractLsb' 8 6).toNat = stepped y 8 ∧
    (r.extractLsb' 2 6).toNat = stepped z 2 ∧ r.extractLsb' 0 2 = w.extractLsb' 0 2 ∧
    r.extractLsb' 20 10 = w.extractLsb' 20 10 ∧ r.getLsbD 31 = false ∧
    r.getLsbD 30 = (w.getLsbD 30 && decide (i = n.toNat)))

/-- R43: an implicit marker comes first. Where the path has not taken its marker and a result is outstanding, the strand
parks at the Commit() and the instruction has no effect yet.
Log entry 40 tells what of it is the model's choice or reading. -/
def Obligations.ImplicitMarkerComesFirst : Prop :=
  ∀ (s : State) (c : Ctx), ctxOf s = some c → c.p.marked = false → c.st.rb ≠ [] →
    let parked := { s with strands := issuingStrand s c fun st => { st with commit := some (.implicit false) } }
    (∀ n p o, exec (.brp n p o) s = .next parked) ∧ (c.p.fence = none → exec .join s = .next parked) ∧
    exec .exit s = .next parked ∧ (∀ o, exec (.call o) s = .next parked) ∧ (∀ a, exec (.ret a) s = .next parked) ∧
    (∀ l d a, exec (.jmpc l d a) s = .next parked) ∧ (∀ q o, q ≠ 7 → exec (.cpYield q o) s = .next parked) ∧
    (∀ h, (barrierLoc c.tm h.toNat).isSome → barred s c = false → exec (.pinWait h) s = .next parked) ∧
    (∀ h, h ≠ 0 → (barrierLoc c.tm h.toNat).isSome → exec (.pinMeet h) s = .next parked) ∧
    (c.p.solo = true → exec .soloOff s = .next parked) ∧ exec .soloOn s = .next parked ∧
    exec .yield s = .next parked ∧ exec .trap s = .next parked ∧ exec .brk s = .next parked

/-! ### Exceptions (R38, R39, R44, R137, R157 to R185) -/

/-- R38, R39, R44, R137: `trap` and `brk` file the executing threads; so does a word that names a register outside the
team's allocation (0x01), and one without its privilege (0x02). Nothing else of the instruction happens.
Log entry 38 tells what of it is the model's choice or reading. -/
def Obligations.TrapsAndChecksFileTheThreads : Prop :=
  ∀ (s : State) (c : Ctx), ctxOf s = some c → markerTaken c →
    exec .trap s = .next (allFiled s c 0x28) ∧ exec .brk s = .next (allFiled s c 0x30) ∧
    (∀ e ∈ laneTernary, ∀ (g : Guard) (d a b : BitVec 6), c.vOk [d.toNat, a.toNat, b.toNat] = false →
      exec (e.1 g d a b) s = .next (allFiled s c 0x01)) ∧
    (∀ e ∈ laneFloat, ∀ (g : Guard) (d a b : BitVec 6), c.vOk [d.toNat, a.toNat, b.toNat] = false →
      exec (e.1 g d a b) s = .next (allFiled s c 0x01)) ∧
    (∀ e ∈ laneUnary, ∀ (g : Guard) (d a : BitVec 6), c.vOk [d.toNat, a.toNat] = false →
      exec (e.1 g d a) s = .next (allFiled s c 0x01)) ∧
    (∀ e ∈ laneDeriveOne, ∀ (g : Guard) (d a : BitVec 4), c.cOk [d.toNat, a.toNat] = false →
      exec (e.1 g d a) s = .next (allFiled s c 0x01)) ∧
    (c.p.solo = false → ∀ (d a b : BitVec 6) (k : BitVec 4),
      exec (.csrRd d a b) s = .next (allFiled s c 0x02) ∧ exec (.csrWr d a b) s = .next (allFiled s c 0x02) ∧
      exec (.tlbInv d a b) s = .next (allFiled s c 0x02) ∧ exec (.revoke d a b) s = .next (allFiled s c 0x02) ∧
      exec (.keyLoad d k b) s = .next (allFiled s c 0x02) ∧ exec (.keyKill d a) s = .next (allFiled s c 0x02) ∧
      exec (.attest d k b) s = .next (allFiled s c 0x02) ∧ exec (.halt a) s = .next (allFiled s c 0x02)) ∧
    (c.handler = false → ∀ (g : Guard) (d a i : BitVec 6), c.vOk [d.toNat, a.toNat] = true →
      exec (.sbjRd g d a) s = .next (allFiled s c 0x02) ∧ exec (.sbjWr g d a) s = .next (allFiled s c 0x02) ∧
      exec (.hcause g d i) s = .next (allFiled s c 0x02) ∧ exec (.hret g i) s = .next (allFiled s c 0x02) ∧
      exec (.hpass g a) s = .next (allFiled s c 0x02)) ∧
    (c.kernel = false → ∀ (d : BitVec 6) (k : BitVec 4),
      exec (.pushS 6 d) s = .next (allFiled s c 0x02) ∧ exec (.pushK 6 k) s = .next (allFiled s c 0x02) ∧
      exec (.popS d 7) s = .next (allFiled s c 0x02) ∧ exec (.popK k 7) s = .next (allFiled s c 0x02))

/-- R157 to R159: an ordinary thread whose cause has a handler is filed: it is frozen, its entry says where and why, and
nothing else changes. Without room in the die's share the strand parks with the entry. -/
def Obligations.FilingTakesTheException : Prop :=
  ∀ (s : State) (w : At) (t : Thread) (f : Failure) (st : Strand) (tm : Team),
    strandOf s w.sid = some st → teamOf s t.tid = some tm → st.serves = false → t.subject = none → served s tm.world f.cause →
    let e := filedEntry s w st tm t f.cause 0 0 f f.detail tm.launch
    (st.parked = [] → shareHasRoom s (dieOf st.core) f.cause → fileThread s w t f = inPillow (frozen s w t) e) ∧
    ((st.parked ≠ [] ∨ ¬ shareHasRoom s (dieOf st.core) f.cause) → fileThread s w t f = parkedFor (frozen s w t) w.sid e)

/-- R162, R344, R347: a cause without a handler ends the launch: its code, PC, team and rank are recorded, its teams stop
for good with their staged lines discarded, and no byte of memory changes.
R168, R169: a handler lane that fails a check is filed with cause 0x3F at depth 1, the cause it would have taken as
`inner`, for its subject's launch. A lane that serves cause 0x3F or 0x18 ends the launch of the first subject instead, with a
machine-check record; where that subject's team is a compensation team, it ends and fails alone (R371). -/
def Obligations.UnservedAndNestedFailuresEnd : Prop :=
  (∀ (s : State) (w : At) (t : Thread) (f : Failure) (st : Strand) (tm : Team) (l : Launch),
    strandOf s w.sid = some st → teamOf s t.tid = some tm → st.serves = false → ¬ served s tm.world f.cause →
    tm.role.compensates = false → launchOf s tm.launch = some l → l.state = .live →
    let r := fileThread s w t f
    (∃ m, launchOf r tm.launch = some m ∧ m.state = .ending f.cause.toNat ∧ m.failPc = w.pc ∧ m.failTeam = tm.key ∧
      m.failRank = BitVec.ofNat 32 t.rank) ∧
    (∀ x ∈ r.teams, x.launch = tm.launch → x.role.compensates = false → x.state = .ended ∧ x.staged = []) ∧
    (∀ x ∈ r.threads, ∀ y ∈ s.teams, y.launch = tm.launch → y.role.compensates = false → x.tid ≠ y.tid) ∧
    (∀ x ∈ r.traps.pillow, ∀ y ∈ s.teams, y.launch = tm.launch → y.role.compensates = false →
      ∀ rank, x.subject ≠ .thread y.tid rank) ∧
    r.mem.cells = s.mem.cells) ∧
  (∀ (s : State) (w : At) (t : Thread) (f : Failure) (st : Strand) (tm : Team) (own : Entry),
    strandOf s w.sid = some st → teamOf s t.tid = some tm → st.serves = true → servedEntry s t = some own →
    (st.handlerCause ≠ 0x3F → st.handlerCause ≠ 0x18 → f.cause ≠ 0x18 → (causeEntry s 0 0x3F).valid = true → st.parked = [] →
      shareHasRoom s (dieOf st.core) 0x3F →
      fileThread s w t f = inPillow (frozen s w t) (filedEntry s w st tm t 0x3F f.cause 1 f 0 own.launch)) ∧
    (st.handlerCause = 0x3F ∨ st.handlerCause = 0x18 → ∀ (lane : Thread) (e0 : Entry) (a b x y : Nat) (o : Team),
      own.subject = .thread a b → threadOf s a b = some lane → servedEntry s lane = some e0 → e0.subject = .thread x y →
      teamOf s x = some o → (∀ z ∈ s.strands, z.tid = x → z.kind ≠ .handler) →
      let r := fileThread s w t f
      r.traps.machineChecks = s.traps.machineChecks ++ [[x, y, a, b, t.tid, t.rank, st.handlerCause.toNat, f.cause.toNat]] ∧
      r.mem.cells = s.mem.cells ∧
      (∀ l, launchOf s own.launch = some l → l.state = .live → o.role.compensates = false →
        ∃ m, launchOf r own.launch = some m ∧ m.state = .ending 0x83) ∧
      (o.role.compensates = true → r.front = s.front ∧ ∃ u, teamOf r x = some u ∧ u.state = .ended ∧ u.failure = some 0x8000007F)))

/-- R160, R176, R178: what a handler lane reads of its subject: a register, the bits of a capability and its tag, and the
fields of its entry. Of a subject that is gone `sbj.rd` and `sbj.cap` give 0, and `hcause 0` has bit 18 set.
R176: what `sbj.wr` writes in the lanes' subjects; no tag is ever set, and no other thread changes.
Log entry 31 tells what of it is the model's choice or reading. -/
def Obligations.HandlersReadAndWriteTheirSubjects : Prop :=
  (∀ (g : Guard) (a : BitVec 6) (s : State) (c : Ctx), ctxOf s = some c → c.handler = true →
    (∀ d : BitVec 6, c.vOk [d.toNat, a.toNat] = true → rbRoom c →
      (∀ t ∈ c.active s g, servedEntry s t = none ∨ ∃ x, subjectThread s t = some x ∧ selectable x.2.1 (t.getV a.toNat)) →
      exec (.sbjRd g d a) s = .next (afterLong s c g fun t =>
        [.v d.toNat (((subjectThread s t).map fun x => selected x.2.2 (t.getV a.toNat)).getD 0)])) ∧
    (∀ d : BitVec 4, c.vOk [a.toNat] = true → c.cOk [d.toNat] = true → rbRoom c →
      (∀ t ∈ c.active s g, servedEntry s t = none ∨ ∃ x, subjectThread s t = some x ∧ selectorClass (t.getV a.toNat) ≤ 4 ∧
        selectorIndex (t.getV a.toNat) % 16 < x.2.1.desc.caps) →
      exec (.sbjCap g d a) s = .next (afterLong s c g fun t =>
        let x := ((subjectThread s t).map fun x => x.2.2.getC (selectorIndex (t.getV a.toNat) % 16)).getD nullCap
        [.c d.toNat ⟨x.bits, false⟩, .p 7 x.tag])) ∧
    (∀ d i : BitVec 6, c.vOk [d.toNat] = true → i.toNat ≤ 10 → ∃ v : Thread → Word,
      exec (.hcause g d i) s = .next (afterLanes s c g fun t => [.v d.toNat (v t)]) ∧
      (∀ t e, servedEntry s t = some e → v t = word (causeValue e i.toNat)) ∧
      (∀ t, servedEntry s t = none → i = 0 → (v t).getLsbD 18 = true))) ∧
  (∀ (g : Guard) (d a : BitVec 6) (s : State) (c : Ctx), ctxOf s = some c → c.handler = true →
    c.vOk [d.toNat, a.toNat] = true →
    (∀ t ∈ c.active s g, ∃ x, subjectThread s t = some x ∧ selectable x.2.1 (t.getV a.toNat)) →
    (c.active s g).Pairwise (fun t u => ∀ x y, subjectThread s t = some x → subjectThread s u = some y →
      x.2.2.tid ≠ y.2.2.tid ∨ x.2.2.rank ≠ y.2.2.rank) →
    ∃ r, exec (.sbjWr g d a) s = .next r ∧ r.strands = issuingStrand s c (nextWord c) ∧ r.mem = s.mem ∧ r.teams = s.teams ∧
      r.traps = s.traps ∧
      (∀ t ∈ c.active s g, ∀ x, subjectThread s t = some x →
        threadOf r x.2.2.tid x.2.2.rank = some (overwritten x.2.2 (t.getV a.toNat) (t.getV d.toNat))) ∧
      (∀ tid rank, (∀ t ∈ c.active s g, ∀ x, subjectThread s t = some x → x.2.2.tid ≠ tid ∨ x.2.2.rank ≠ rank) →
        threadOf r tid rank = threadOf s tid rank) ∧
      (∀ (u : Thread) (w x : Word) (n : Nat), swf nullCap u.c = true → ((overwritten u w x).getC n).tag = true → (u.getC n).tag = true))

/-- R173, R179, R180, R184: a handler strand of one lane returns its subject, or passes it on. `hret` frees the entry; the
subject is present again, with its registers, in a path of its own below the frame it left, at the instruction or at the
next one. `hpass` files the entry again under the new cause, the old one in its detail; where the share has no room for it the
handler strand parks with it, and the entry keeps its place (R159). The lane is gone.
Log entries 82 and 91 tell what of it is the model's choice or reading. -/
def Obligations.HandlersReturnTheirSubjects : Prop :=
  ∀ (g : Guard) (s : State) (c : Ctx) (t u : Thread) (e : Entry) (tm : Team) (st : Strand),
    ctxOf s = some c → markerTaken c → c.st.kind = .handler → c.active s g = [t] → t.tid = c.st.tid →
    subjectThread s t = some (e, tm, u) → u.tid ≠ c.st.tid → (∀ x ∈ s.strands, x.tid = c.st.tid → x.kind = .handler) →
    u.straggling = false → strandOf s u.sid = some st → st.sid ≠ c.st.sid → st.tid = u.tid → st.rootJoin = none →
    (∀ x ∈ s.strands, ∀ y ∈ s.strands, ∀ b, x.kind = .straggler y.sid b → y.tid ≠ c.st.tid) →
    (∀ x ∈ s.threads, x.straggling = false ∧ (x.tid = t.tid → x.sid = c.st.sid)) →
    (∀ x ∈ st.frames, x.2.expected.getLsbD u.slot = true ∧ x.2.arrived.getLsbD u.slot = false ∧ x.2.lapsed.getLsbD u.slot = false) →
    u.slot < 32 →
    (∀ i : BitVec 6, i.toNat ≤ 1 → ∃ r v z q, exec (.hret g i) s = .next r ∧ entryOf r e.eid = none ∧
      threadOf r u.tid u.rank = some v ∧ v.status = .present ∧ v.v = u.v ∧ v.p = u.p ∧ v.c = u.c ∧ v.fpcsr = u.fpcsr ∧
      strandOf r u.sid = some z ∧ q ∈ z.paths ∧ q.mask = 1#32 <<< u.slot ∧ q.pc = resumePc e (i == 1) ∧ q.state = .ready ∧
      q.code = u.leftCode ∧ q.parent = (st.paths.find? fun p => p.mask.getLsbD u.slot).bind (·.parent) ∧
      (∀ x ∈ r.threads, x.tid = t.tid → x.rank = t.rank → x.status = .exited) ∧ r.mem.cells = s.mem.cells) ∧
    (∀ a : BitVec 6, c.vOk [a.toNat] = true →
      let cause : BitVec 7 := (t.getV a.toNat).setWidth 7
      let new := { e with cause := cause, inner := if cause = 0x3F then e.inner else 0
                          detail := BitVec.ofNat 32 e.cause.toNat, stamp := s.run.clock.toNat, state := .filed }
      let room := c.st.parked = [] ∧
        shareHasRoom { s with traps := { s.traps with pillow := s.traps.pillow.filter fun x => x.eid != e.eid } } e.die cause
      cause ≠ 0 → served s e.world cause → ∃ r, exec (.hpass g a) s = .next r ∧
        (room → entryOf r e.eid = some new) ∧
        (¬ room → entryOf r e.eid = some e ∧ ∃ z, strandOf r c.st.sid = some z ∧ z.parked = c.st.parked ++ [new]) ∧
        threadOf r u.tid u.rank = some u ∧
        (∀ x ∈ r.threads, x.tid = t.tid → x.rank = t.rank → x.status = .exited) ∧ r.mem.cells = s.mem.cells)

/-! ### Memory (R88 to R100, R138 to R144, R288 to R311) -/

/-- R98, R99, R100: a lane's access is refused with the cause of the first check that fails. Checks change no register and no
buffer, and no byte of memory where no reduction is pending (R277). -/
def Obligations.AccessChecksComeInOrder : Prop :=
  ∀ (s : State) (w : Who) (a : Access), a.natural = true → a.align = 1 → a.fe = false → a.engine = false → a.buffers = true → a.kind ≠ .fetch →
    0 < a.size → s.trust.lifecycle ≠ 2 →
    let r := checkAccess s w a
    let va := a.addr.toNat
    let off := va % 2 ^ 60
    let space := va / 2 ^ 60
    (r.1.threads = s.threads ∧ r.1.strands = s.strands ∧ r.1.teams = s.teams ∧ (s.mem.redEntries = [] → r.1.mem.cells = s.mem.cells)) ∧
    (∀ cause, earlyCause a = some cause → r.2 = .error cause) ∧
    (earlyCause a = none →
      (space = 15 → w.solo = false → r.2 = .error 0x02) ∧
      (1 ≤ space ∧ space ≤ 7 ∨ space = 14 → r.2 = .error 0x05) ∧
      (∀ tm, w.tid.bind (teamOf s) = some tm →
        (space = 8 → r.2 = if off + a.size ≤ actBytes tm then .ok [(.act tm.tid off, a.size)] else .error 0x05) ∧
        (space = 9 → r.2 =
          if a.kind = .load ∧ off + a.size ≤ tm.desc.wgt then .ok [(.wgt tm.tid off, a.size)] else .error 0x05)) ∧
      (space = 0 → 2 ^ 57 < va + a.size → r.2 = .error 0x05) ∧
      (space = 0 → va + a.size ≤ 2 ^ 57 → va % 65536 + a.size ≤ 65536 →
        r.2 = match (translate s w (va / 65536)).2 with
          | none => .error 0x10
          | some l => match pageCause s w a l with
            | some cause => .error cause
            | none => .ok [(.phys (l.pa + (va - l.page * 65536)) l.key, a.size)]))

/-- R138 to R142, R288 to R294: a lane load or atomic whose checks all pass enters RB with a lane waiting for each access,
and its accesses enter their threads' issue points; no register changes, and of memory nothing but staged lines that the
team's exposure drains (R202). Accesses that leave the core, and may fail elsewhere, come first: the instruction stays at its
PC, with nothing in RB, until they are answered (R44, R289). -/
def Obligations.LoadsEnterTheReturnBuffer : Prop :=
  ∀ (g : Guard) (d b : BitVec 6) (cn : BitVec 4) (z : BitVec 3) (y : BitVec 2) (o : BitVec 7) (k : BitVec 3) (op : BitVec 4) (w : BitVec 1),
    ∀ f ∈ laneLoads g d b cn z y o k op w, ∀ (s : State) (c : Ctx), ctxOf s = some c → f.legal c = true →
    barred s c = false → rbRoom c → (∀ x ∈ (checksOf s c g f).2, x.res.toOption.isSome) → c.p.probe = [] →
    let xs := passedLanes (checksOf s c g f).2
    ∀ kind, (∀ t, (f.req t).kind = kind) →
    ((∀ x ∈ xs, atHome c kind x.2.2) → ∃ t, exec f.instr s = .next t ∧ threadsApart t = threadsApart s ∧
      t.strands = issuingStrand s c (fun st => nextWord c (pendingEntry c (xs.map fun x => (x.1.rank, x.2.1)) st)) ∧
      t.mem.events = s.mem.events ++ eventsOf s c f c.st.nextRb xs ∧ t.run.nextEv = s.run.nextEv + xs.length ∧
      (nothingHeld s → t.mem.cells = s.mem.cells)) ∧
    (leaving c kind xs ≠ [] → (∀ x ∈ s.mem.events, x.id < s.run.nextEv) → (∀ x ∈ s.strands, x.sid = c.st.sid → x = c.st) → ∃ t, exec f.instr s = .next t ∧
      threadsApart t = threadsApart s ∧
      t.strands = issuingStrand s c (fun st => st.updPath c.p.pid (askingPath s.run.nextEv (leaving c kind xs))) ∧
      t.mem.events = s.mem.events ++ (eventsOf s c f c.st.nextRb (leaving c kind xs)).map (fun e => { e with probe := true }) ∧
      (nothingHeld s → t.mem.cells = s.mem.cells))

/-- R140 to R142, R293: a lane store or reduction whose checks all pass issues its accesses, each with the bytes of its
registers, and changes no register. The bytes reach memory when the access is performed (R305), none at issue beyond
staged lines that an exposure drains. -/
def Obligations.StoresIssueTheirBytes : Prop :=
  ∀ (g : Guard) (d b : BitVec 6) (cn : BitVec 4) (z : BitVec 3) (y : BitVec 2) (o : BitVec 7) (k : BitVec 3) (op : BitVec 4),
    ∀ f ∈ laneStores g d b cn z y o k op, ∀ (s : State) (c : Ctx), ctxOf s = some c → f.legal c = true →
    barred s c = false → (∀ x ∈ (checksOf s c g f).2, x.res.toOption.isSome) → c.p.probe = [] →
    let xs := passedLanes (checksOf s c g f).2
    (∀ x ∈ xs, atHome c (f.req x.1).kind x.2.2) →
    ∃ t, exec f.instr s = .next t ∧ threadsApart t = threadsApart s ∧ t.strands = issuingStrand s c (nextWord c) ∧
      t.mem.events = s.mem.events ++ eventsOf s c f 0 xs ∧ t.run.nextEv = s.run.nextEv + xs.length ∧
      (nothingHeld s → t.mem.cells = s.mem.cells)

/-- R144, R302: a uniform access is one event of every executing thread, made through k[n]; a load is a long result of the
strand; a failure files every executing thread. -/
def Obligations.UniformAccessesAreOneEvent : Prop :=
  ∀ (d : BitVec 6) (e n : BitVec 4) (o : BitVec 11) (s : State) (c : Ctx) (t : Thread), ctxOf s = some c → barred s c = false →
    lowestIn (c.threads s) t → c.p.probe = [] →
    let ranks := (c.threads s).map (·.rank)
    let check := fun (a : Access) => checkAccess s (c.who s t.rank) a
    let capOf := c.st.getK n.toNat
    let load := fun (i : Instr) (size : Nat) (cap : Bool) (f : LoadFmt) =>
      let a := throughK c n .load 0x80 size o cap
      rbRoom c → ∀ locs, (check a).2 = .ok locs → atHome c .load locs → ∃ r, exec i s = .next r ∧ threadsApart r = threadsApart s ∧
        r.strands = issuingStrand s c (fun st => nextWord c (pendingEntry c (ranks.map fun x => (x, a.addr.toNat)) st)) ∧
        r.mem.events = s.mem.events ++ [c.event ranks .load a.addr.toNat locs .plain 0 [] none
          (cap && capOf.perms.getLsbD 5) capOf (some (c.st.nextRb, ranks.headD 0, f)) s.run.nextEv]
    let store := fun (i : Instr) (size : Nat) (bs : List Byte) (tag : Option Bool) =>
      let a := throughK c n .store (if tag = some true then 0x50 else 0x40) size o tag.isSome
      (∀ locs, (check a).2 = .ok locs → atHome c .store locs → ∃ r, exec i s = .next r ∧ threadsApart r = threadsApart s ∧
        r.strands = issuingStrand s c (nextWord c) ∧
        r.mem.events = s.mem.events ++ [c.event ranks .store a.addr.toNat locs .plain 0 bs tag false capOf none s.run.nextEv]) ∧
      (∀ cause, (check a).2 = .error cause → markerTaken c → exec i s = .next (fileThreads (check a).1 c.at
        ((c.threads (check a).1).map fun u => (u, accessFailure cause a.addr c.tm.asid (16 + n.toNat)))))
    load (.uldW d n o) 4 false (.sWord d.toNat) ∧ load (.uldD d n o) 8 false (.sDword d.toNat) ∧
    load (.uldC e n o) 16 true (.capK e.toNat) ∧
    store (.ustW d n o) 4 (bytesOfNat 4 (c.st.getS d.toNat).toNat) none ∧
    store (.ustD d n o) 8 (bytesOfNat 8 (c.st.getS d.toNat).toNat) none ∧
    store (.ustC e n o) 16 (c.st.getK e.toNat).toBytes (some (c.st.getK e.toNat).tag)

/-- R167, R177: `sbj.ld` and `sbj.st` of a handler strand of one lane act under the subject's authority: its capability, its
ASID, its world. The access is a relaxed atomic at dev scope; a check that fails files the lane with the cause as inner. -/
def Obligations.SubjectAccessesUseTheSubjectsAuthority : Prop :=
  ∀ (g : Guard) (d a : BitVec 6) (s : State) (c : Ctx) (t u : Thread) (e : Entry) (tm : Team) (store : Bool),
    ctxOf s = some c → c.handler = true → c.vOk [d.toNat, a.toNat, a.toNat + 1] = true → barred s c = false → c.p.probe = [] →
    c.active s g = [t] → subjectThread s t = some (e, tm, u) → (t.getV a.toNat).toNat / 16 % 8 ≤ 4 →
    (t.getV a.toNat).toNat % 16 < tm.desc.caps → (store = false → rbRoom c) →
    let w := (t.getV a.toNat).toNat / 16 % 8
    let acc := subjectAccess t u a store
    let i : Instr := if store then .sbjSt g d a else .sbjLd g d a
    let check := checkAccess s (subjectWho s c tm u) acc
    (∀ locs, check.2 = .ok locs → atHome c .load locs → ∃ r, exec i s = .next r ∧ threadsApart r = threadsApart s ∧
      r.strands = issuingStrand s c (fun st => nextWord c (if store then st else pendingEntryOf (some tm.asid) c [(t.rank, acc.addr.toNat)] st)) ∧
      r.mem.events = s.mem.events ++ [{ c.event [t.rank] (if store then .store else .load) acc.addr.toNat locs .rlx 5
          (if store then (bytesOfNat 4 (t.getV d.toNat).toNat).take acc.size else []) none false acc.cap
          (if store then none else some (c.st.nextRb, t.rank,
            [LoadFmt.ext d.toNat 1 false, .ext d.toNat 1 true, .ext d.toNat 2 false, .ext d.toNat 2 true, .words d.toNat 1].getD w (.words d.toNat 1)))
          s.run.nextEv with asid := tm.asid, world := tm.world }]) ∧
    (∀ cause, check.2 = .error cause → cause ≠ 0x18 → markerTaken c → threadOf s t.tid t.rank = some t → t.tid = c.st.tid →
      c.st.handlerCause ≠ 0x3F → c.st.handlerCause ≠ 0x18 → (causeEntry s 0 0x3F).valid = true → c.st.parked = [] →
      shareHasRoom s (dieOf c.st.core) 0x3F → (∀ x ∈ s.traps.pillow, x.eid < s.traps.nextEid) →
      ∃ r x, exec i s = .next r ∧ entryOf r s.traps.nextEid = some x ∧ x.cause = 0x3F ∧ x.inner = cause ∧ x.depth = 1 ∧
        x.subject = .thread t.tid t.rank ∧ x.addr = BitVec.ofInt 64 acc.addr ∧ x.faultAsid = tm.asid ∧ x.pc = c.p.pc)

/-- R143, R157: `ldo.fe` and `sto.fill` park their path with a lane for each word; a waiting lane takes its word once it is
full, and the lane's own earlier accesses to it are performed, and leaves it empty, or fills it once it is empty and leaves
it full; nothing happens before. With its last lane the path goes on. A poisoned word is taken, but its value is not written,
and the poison is consumed.
Log entry 88 tells what of it is the model's choice or reading. -/
def Obligations.FullEmptyWordsPassOneValue : Prop :=
  (∀ (g : Guard) (d : BitVec 6) (cn : BitVec 4) (k : BitVec 3) (take : Bool) (s : State) (c : Ctx), ctxOf s = some c →
    dataNamed false d 1 cn c = true → barred s c = false → markerTaken c →
    let req := fun (t : Thread) => { throughC cn (if take then .load else .store) (if take then 0x80 else 0x40) 4 0 false t with fe := true }
    let xs := passedLanes (checkLanes c cn.toNat req s (c.active s g)).2
    (∀ x ∈ (checkLanes c cn.toNat req s (c.active s g)).2, x.res.toOption.isSome) → c.active s g ≠ [] →
    ∃ r p ls, exec (if take then .ldoFe g d cn k else .stoFill g d cn k) s = .next r ∧
      (strandOf r c.st.sid).bind (fun st => st.path? c.p.pid) = some p ∧
      p.state = .waiting (if take then .feTake ls k c.at.word else .feFill ls k c.at.word) s.run.clock.toNat ∧
      ls = (xs.filterMap fun x => match x.2.2 with
        | (.act tid off, _) :: _ => some ⟨x.1.rank, tid, off, d.toNat, x.1.getV d.toNat⟩
        | _ => none) ∧ threadsApart r = threadsApart s) ∧
  (∀ (s : State) (st : Strand) (tm : Team) (th : Thread) (p : Path) (ls : List FeLane) (l : FeLane) (k : BitVec 3),
    strandOf s st.sid = some st → teamOf s l.team = some tm → tm.state ≠ .ended → swf false tm.fe = true →
    threadOf s st.tid l.rank = some th → (st.paths.filter fun q => q.pid == p.pid) = [p] →
    let rest := ls.filter fun x => x.rank != l.rank
    let full := sget false tm.fe (l.off / 4)
    let old := word (natOfBytes (sbytes tm.act l.off 4))
    let goesOn := fun (r : State) => rest = [] → ∃ q, ((strandOf r st.sid).bind fun z => z.path? p.pid) = some q ∧ q.state = .ready ∧
      q.pc = p.advanced.pc
    (feWait st l.rank = some (p, true, ls, l, k) →
      ((full = false ∨ feInOrder s st l = false) → exec (.feWaitTake st.sid l.rank) s = .next s) ∧
      (full = true → feInOrder s st l = true → bufPoison tm false l.off 4 = none → ∃ r u v, exec (.feWaitTake st.sid l.rank) s = .next r ∧
        threadOf r st.tid l.rank = some u ∧ u.v = (th.setV l.d old).v ∧ teamOf r l.team = some v ∧
        sget false v.fe (l.off / 4) = false ∧ v.act = tm.act ∧ goesOn r) ∧
      (∀ prov, full = true → feInOrder s st l = true → bufPoison tm false l.off 4 = some prov → st.serves = false → ∃ q u,
        exec (.feWaitTake st.sid l.rank) s = .next (consumePoison q st.tid p.pc l.rank prov) ∧
        threadOf q st.tid l.rank = some u ∧ u.v = th.v ∧ goesOn q)) ∧
    (feWait st l.rank = some (p, false, ls, l, k) →
      (full = true → exec (.feWaitFill st.sid l.rank) s = .next s) ∧
      (full = false → feReleased s st k l.rank = true → ∃ r v, exec (.feWaitFill st.sid l.rank) s = .next r ∧
        teamOf r l.team = some v ∧ sget false v.fe (l.off / 4) = true ∧ v.act = sputs tm.act l.off (bytesOfNat 4 l.value.toNat) ∧
        threadsApart r = threadsApart s ∧ goesOn r)))

/-- R45, R139, R301, R305 to R307: how a pending load takes its bytes: from its team's staged lines, from the core's copy of
the line, or at the point of coherence; what they are there; and what a fill and an eviction do to the core's copies.
Log entries 43 and 87 tell what of it is the model's choice or reading. -/
def Obligations.LoadsTakeTheirBytes : Prop :=
  (∀ (s : State) (e : MemEv), eventOf s e.id = some e → e.kind = .load → e.probe = false → earlierPending s e = false →
    (allStaged s e = true → ∀ s1 g, readLocs s (teamOf s e.tid) e.locs = (s1, some g) →
      ∃ r, exec (.readStaged e.id) s = .next r ∧ loadTook s1 r e g) ∧
    (allStaged s e = false → e.isRemote = false → e.early = [] → ∀ s1 g, readLocs s (teamOf s e.tid) e.locs = (s1, some g) →
      ∃ r, exec (.readPoc e.id) s = .next r ∧ loadTook s1 r e g) ∧
    (∀ x pa n, l1Allowed s e = true → l1CopyFor s e = some (x, pa, n) → ∃ r g, exec (.readL1 e.id) s = .next r ∧ loadTook s r e g ∧
      g.bytes = (x.bytes.drop (pa % 64)).take n ∧ g.poison = x.poison)) ∧
  (∀ (s : State) (pa slot n : Nat), tierAt pa = some 0 → 0 < n → pa % 64 + n ≤ 64 → (∀ x ∈ s.mem.redEntries, x.line ≠ pa / 64) →
    ∃ g, readLoc s none (.phys pa slot) n = (s, some g) ∧ g.bytes = (List.range n).map (fun i => cellGet s.mem.cells (pa + i)) ∧
      g.tag = s.mem.tags.contains (pa / 16) ∧ g.poison = poisonOf s.mem (pa / 64)) ∧
  (∀ (s : State) (tm : Team) (off n : Nat), teamOf s tm.tid = some tm → tm.state ≠ .ended →
    ∃ g, readLoc s none (.act tm.tid off) n = (s, some g) ∧ g.bytes = sbytes tm.act off n ∧ g.tag = false) ∧
  (∀ (s : State) (core line : Nat),
    (∃ r, exec (.evict core line) s = .next r ∧ r = { s with mem := { s.mem with
      l1 := s.mem.l1.filter fun x => !(x.core == core && x.line == line) } }) ∧
    (tierAt (64 * line) = some 0 → (∀ x ∈ s.mem.redEntries, x.line ≠ line) → ∃ r x, exec (.fill core line) s = .next r ∧
      r.mem.l1 = (s.mem.l1.filter fun y => !(y.core == core && y.line == line)) ++ [x] ∧ x.core = core ∧ x.line = line ∧
      x.bytes = (List.range 64).map (fun i => cellGet s.mem.cells (64 * line + i)) ∧ x.filled = s.run.tick ∧ r.mem.cells = s.mem.cells))

/-- R91, R140, R292, R294, R301, R305: a pending store whose turn it is writes its bytes and no other; a tag of its granule
is set by a tagged capability alone. An atomic writes the result of its operation and returns the old word; a `cas`
writes its new value where the old one matches.
Log entry 14 tells what of it is the model's choice or reading. -/
def Obligations.StoresAndAtomicsWriteTheirBytes : Prop :=
  ∀ (s : State) (e : MemEv) (pa slot n : Nat), eventOf s e.id = some e → e.probe = false → oneLine s e pa slot n →
    Memory.wf s.mem.cells = true →
    (e.kind = .store → e.data.length = n → applyReady s e = true → ∃ r, exec (.apply e.id) s = .next r ∧
      (∀ i, i < n → some (cellGet r.mem.cells (pa + i)) = e.data[i]?) ∧ onlyBytes s r pa n ∧ registersOf r = registersOf s ∧
      r.strands = s.strands ∧ r.mem.events = s.mem.events.filter (fun x => x.id != e.id) ∧
      (∀ q, pa / 16 ≤ q → q ≤ (pa + n - 1) / 16 → r.mem.tags.contains q = e.tag.getD false) ∧
      (∀ q, (q < pa / 16 ∨ (pa + n - 1) / 16 < q) → r.mem.tags.contains q = s.mem.tags.contains q)) ∧
    (∀ op : BitVec 4, e.kind = .red op → op.toNat < 12 → n = 4 → earlierPending s e = false → e.data.length = 4 →
      ∃ r, exec (.modify e.id) s = .next r ∧ r.mem.cells = s.mem.cells ∧ r.strands = s.strands ∧ threadsApart r = threadsApart s ∧
        onlyBytes s (drainReds r (pa / 64)) pa 4 ∧ word (natOfBytes (cellGets (drainReds r (pa / 64)).mem.cells pa 4)) =
          atomicResult op (word (natOfBytes (cellGets s.mem.cells pa 4))) (word (natOfBytes e.data))) ∧
    (∀ op : BitVec 4, e.kind = .atom op → op.toNat < 12 → n = 4 → earlierPending s e = false → e.data.length = 4 →
      let old := word (natOfBytes (cellGets s.mem.cells pa 4))
      ∃ r g s1, exec (.modify e.id) s = .next r ∧
        word (natOfBytes (cellGets r.mem.cells pa 4)) = atomicResult op old (word (natOfBytes e.data)) ∧ onlyBytes s r pa 4 ∧
        loadTook s1 r { e with keepTag := false } g ∧ s1.strands = s.strands ∧ g.bytes = cellGets s.mem.cells pa 4) ∧
    (e.kind = .cas → n = 4 ∨ n = 8 → earlierPending s e = false → e.data.length = 2 * n →
      ∃ r g s1, exec (.modify e.id) s = .next r ∧
        cellGets r.mem.cells pa n = (if cellGets s.mem.cells pa n = e.data.take n then e.data.drop n else cellGets s.mem.cells pa n) ∧
        onlyBytes s r pa n ∧ loadTook s1 r { e with keepTag := false } g ∧ s1.strands = s.strands ∧ g.bytes = cellGets s.mem.cells pa n)

/-! ### Matrix, tiles and accumulators (R84 to R86, R188, R206 to R233) -/

/-- R84, R85: one step of a product. In integer mode the exact sum modulo 2^56, and whether it left the range. In floating
mode the exact sum of the accumulator and the products, in any common unit, rounded once to nearest; an exact zero is -0
only when every term is; a NaN, or infinities of both signs, give the canonical NaN. -/
def Obligations.MatrixStepsRoundTheExactSum : Prop :=
  (∀ (acc : Nat) (xs : List Int), acc < 2 ^ 56 →
    let sum := (BitVec.ofNat 56 acc).toInt + xs.foldl (· + ·) 0
    stepInt acc (xs.map fun x => .fin (decide (x < 0)) x.natAbs 0) =
      ((BitVec.ofInt 56 sum).toNat, decide (sum < -36028797018963968) || decide (36028797018963968 ≤ sum))) ∧
  (∀ (acc : Nat) (ps : List FVal) (q : Int), (∀ v ∈ a56.decode acc :: ps, finiteFrom q v) → q ≤ 0 →
    let sum := ((a56.decode acc :: ps).map (inUnits q)).foldl (· + ·) 0
    stepA56 acc ps = if sum = 0 then (if ∀ v ∈ a56.decode acc :: ps, v.negZero = true then 0x80000000000000 else 0)
      else (a56.round .rn (decide (sum < 0)) sum.natAbs q).1) ∧
  (∀ (acc : Nat) (ps : List FVal), (∃ v ∈ a56.decode acc :: ps, v.isNan = true) → stepA56 acc ps = 0x7FF80000000000) ∧
  (∀ (acc : Nat) (ps : List FVal), (∀ v ∈ a56.decode acc :: ps, v.isNan = false) →
    let up := ∃ v ∈ a56.decode acc :: ps, v = .inf false
    let down := ∃ v ∈ a56.decode acc :: ps, v = .inf true
    (up → down → stepA56 acc ps = 0x7FF80000000000) ∧ (up → ¬ down → stepA56 acc ps = 0x7FF00000000000) ∧
    (¬ up → down → stepA56 acc ps = 0xFFF00000000000))

/-- R206 to R210, R216 to R219: a matrix instruction whose operands have its shape enters the products of the active
quarters in RB, with the poison of the words that they read (R279); a quarter whose shape is wrong is R206's.
Log entry 59 tells what of it is the model's choice or reading. -/
def Obligations.MatrixProductsEnterTheirResult : Prop :=
  ∀ (g : Guard) (d a b : BitVec 4) (keep : BitVec 1) (s : State) (c : Ctx), ctxOf s = some c → c.notFresh = true → rbRoom c →
    let qs := activeQuarters s c g
    let ta := fun q => c.tm.tile (effective c a 0 q)
    let tb := fun q => c.tm.tile (effective c b 1 q)
    let dest := effective c d 2
    let old := fun q e => if keep = 1 then c.tm.acc (dest q) e else 0
    (∀ q ∈ qs, effective c a 0 q < c.tm.desc.tiles ∧ effective c b 1 q < c.tm.desc.tiles ∧ dest q < c.tm.desc.accs) →
    let mark := fun q => lowerOf (lowerOf (c.tm.tileMark (effective c a 0 q)) (c.tm.tileMark (effective c b 1 q)))
      (if keep = 1 then c.tm.accMark (dest q) (List.range 256) else none)
    let answer := fun (cells : Nat → List (Nat × Nat × BitVec 4)) => (show State from
      { s with strands := issuingStrand s c fun st => nextWord c (quarterEntry s c g (standing qs dest) mark
          (fun q => cellWrites (dest q) (cells q)) (fun q => cellBits (cells q)) st) })
    (∀ e ∈ matrixForms, (∀ q ∈ qs, ∀ t ∈ [ta q, tb q], t.ew = e.2.size ∧ t.rows = 16 ∧ t.rb = 7) →
      exec (e.1 g d a b keep) s = .next (answer fun q =>
        productCells (decide (e.2 = .s8)) (old q) (operandRow (ta q) e.2) (operandRow (tb q) e.2))) ∧
    (∀ (v : BitVec 5) (w : BitVec 2), let base := 2 * v.toNat + 4 * w.toNat
      base + 7 < c.tm.desc.regs → (∀ q ∈ qs, ∀ t ∈ [ta q, tb q], t.ew = 0 ∧ t.rows = 16 ∧ t.win ≤ t.rb) →
      exec (.mmaKn4 g d a b v w keep) s = .next (answer fun q =>
        productCells false (old q) (kn4OperandRow s c q base 0 (ta q)) (kn4OperandRow s c q base 4 (tb q))))

/-- R223, R224: `mv.stream` of one active quarter: the record and the weight rows are read at issue through the
representative's capabilities, and the products of the rows with the vectors enter RB. A record or rows in space 0xC have been
answered before (R44).
Log entry 54 tells what of it is the model's choice or reading. -/
def Obligations.StreamsEnterTheirResult : Prop :=
  ∀ (g : Guard) (d v cn : BitVec 4) (wf n : BitVec 3) (keep : BitVec 1) (s s1 s2 s3 : State) (c : Ctx) (q : Nat) (t : Thread)
    (locs : List (Loc × Nat)) (got : Got) (k : Nat) (rows : List (List Byte)),
    ctxOf s = some c → c.notFresh = true → rbRoom c → barred s c = false → activeQuarters s c g = [q] →
    ((c.active s g).find? fun u => u.slot / 8 == q) = some t →
    effective c v 0 q < c.tm.desc.tiles → effective c d 2 q < c.tm.desc.accs → cn.toNat < c.tm.desc.caps →
    let cap := t.getC cn.toNat
    checkAccess s (c.who s t.rank) { kind := .load, cap := cap, addr := cap.addr, size := 64, perm := 0x80, natural := false
                                     whole := false, fe := false, engine := false, align := 64 } = (s1, .ok locs) →
    let s1 := exposeAccess s1 c.tm.tid cap.addr false locs
    quarterRecord s1 c t cn.toNat cap locs = (s2, some (.ok got)) → got.poison = none →
    let r := parseRecord got.bytes (got.tag && cap.perms.getLsbD 5)
    streamShape wf.toNat (n.toNat + 1) r (c.tm.tile (effective c v 0 q)) = some k →
    weightRows s2 c t cn.toNat r r.rows 0 = (s3, some (.ok (rows, none))) →
    let dest := effective c d 2 q
    let vecs := fun j => (List.range k).map fun i => (streamVec wf.toNat).value
      (natOfBytes (sbytes (c.tm.tile (effective c v 0 q)).data (128 * j + (streamVec wf.toNat).size * i) (streamVec wf.toNat).size))
    let cells := (List.range rows.length).flatMap fun i => (List.range (n.toNat + 1)).map fun j =>
      let x := dotElem (decide (wf = 4)) (if keep = 1 then c.tm.acc dest (16 * i + j) else 0)
        (weightVals wf.toNat k (rows.getD i [])) (vecs j)
      (16 * i + j, x.1, x.2)
    let mark := lowerOf (c.tm.tileMark (effective c v 0 q)) (if keep = 1 then c.tm.accMark dest (cells.map (·.1)) else none)
    ∃ u, exec (.mvStream g d v cn wf n keep) s = .next u ∧ threadsApart u = threadsApart s ∧
      u.strands = issuingStrand s c fun st => nextWord c (quarterEntry s c g [q] (fun _ => mark) (fun _ => cellWrites dest cells) (fun _ => cellBits cells) st)

/-- R206, R208, R211 to R215: `tcfg` sets the shape of its tiles; `tzero` and `ttrans` enter their bytes in RB; `tld` waits for
the rows that its lanes read, and `tst` stores the rows as they stand at issue. -/
def Obligations.TilesAreShapedAndMoved : Prop :=
  (∀ (t n : BitVec 4) (a : BitVec 6) (s : State) (c : Ctx), ctxOf s = some c → c.notFresh = true → t.toNat + n.toNat < c.tm.desc.tiles →
    swf zeroTile c.tm.tiles = true → ∃ r u, exec (.tcfg t a n) s = .next r ∧ teamOf r c.tm.tid = some u ∧
      (∀ i, u.tile i = if t.toNat ≤ i ∧ i ≤ t.toNat + n.toNat then
        { c.tm.tile i with ctl := (c.st.getS a.toNat).setWidth 32 &&& 0x3FFC } else c.tm.tile i) ∧
      { u with tiles := c.tm.tiles } = c.tm ∧ r.strands = issuingStrand s c (nextWord c) ∧ r.threads = s.threads ∧ r.mem = s.mem) ∧
  (∀ (g : Guard) (t u : BitVec 4) (s : State) (c : Ctx), ctxOf s = some c → c.notFresh = true → rbRoom c →
    let qs := activeQuarters s c g
    let dest := effective c t 0
    let src := fun q => c.tm.tile (effective c u 1 q)
    let bits := fun q => 4 * 2 ^ (src q).ew
    let answer := fun (mark : Nat → Option (BitVec 12)) (writes : Nat → List Write) => (show State from
      { s with strands := issuingStrand s c fun st => nextWord c (quarterEntry s c g (standing qs dest) mark writes (fun _ => 0) st) })
    (∀ q ∈ qs, dest q < c.tm.desc.tiles) →
    exec (.tzero g t) s = .next (answer (fun _ => none) fun q => (List.range 2048).map fun i => Write.tileByte (dest q) i 0) ∧
    ((∀ q ∈ qs, effective c u 1 q < c.tm.desc.tiles ∧ (c.tm.tile (dest q)).ew = (src q).ew ∧ (c.tm.tile (dest q)).rows = 16 ∧
        (src q).rows = 16 ∧ 2 * bits q ≤ (c.tm.tile (dest q)).rowBytes ∧ 2 * bits q ≤ (src q).rowBytes) →
      exec (.ttrans g t u) s = .next (answer (fun q => c.tm.tileMark (effective c u 1 q)) fun q => (List.range 16).flatMap fun j =>
        (List.range (2 * bits q)).map fun m => Write.tileByte (dest q) (128 * j + m) (transposedByte (src q) (bits q) j m)))) ∧
  (∀ (g : Guard) (t cn : BitVec 4) (load : Bool) (s : State) (c : Ctx), ctxOf s = some c → c.notFresh = true → rbRoom c →
    barred s c = false → c.p.probe = [] → cn.toNat < c.tm.desc.caps →
    (∀ q ∈ activeQuarters s c g, effective c t 0 q < c.tm.desc.tiles) →
    let movers := (c.active s g).filter fun u => decide (0 < rowsOfLane (laneTile c t u) u.slot)
    let checked := (checkLanes c cn.toNat (rowAccess c t cn load) s movers).2
    (∀ x ∈ checked, x.res.toOption.isSome) →
    let xs := passedLanes checked
    (∀ x ∈ xs, atHome c (if load then .load else .store) x.2.2) →
    let last := fun (u : Thread) => u.slot / 8 ∈ standing (activeQuarters s c g) (effective c t 0)
    let mark := fun (u : Thread) => c.tm.tileMark (effective c t 0 (u.slot / 8))
    ∃ r, exec (if load then .tld g t cn else .tst g t cn) s = .next r ∧ threadsApart r = threadsApart s ∧
      r.strands = issuingStrand s c (fun st => nextWord c (if load then pendingEntry c (xs.map fun x => (x.1.rank, x.2.1)) st
        else idleEntry c (xs.map fun x => (x.1.rank, [], mark x.1)) [] st)) ∧
      r.mem.events = s.mem.events ++ xs.zipIdx.map fun x =>
        let u := x.1.1
        let z := laneTile c t u
        c.event [u.rank] (if load then .load else .store) x.1.2.1 x.1.2.2 .plain 0
          (if load then [] else (List.range (rowsOfLane z u.slot)).flatMap fun i => sbytes z.data (128 * (2 * (u.slot % 8) + i)) z.rowBytes)
          none false (u.getC cn.toNat)
          (if load then some (c.st.nextRb, u.rank, .rows (effective c t 0 (u.slot / 8)) (2 * (u.slot % 8)) z.rowBytes
            (if last u then rowsOfLane z u.slot else 0)) else none) (s.run.nextEv + x.2))

/-- R227 to R233: `accmov` narrows a lane's eight elements into its registers or widens its registers into them, as a long
result; `acc.zero` and `acc.decay` write at once, and clear the poison of what they write (R279); `acc.spill` stores the elements
and `acc.fill` waits for them. Poison of the elements that are read goes with the lane's result. -/
def Obligations.AccumulatorsMoveTheirElements : Prop :=
  (∀ (g : Guard) (d : BitVec 6) (a : BitVec 4) (sat : BitVec 1) (ty : BitVec 4) (s : State) (c : Ctx), ctxOf s = some c →
    c.notFresh = true → rbRoom c → a.toNat < c.tm.desc.accs → d.toNat + movRegs ty - 1 < c.tm.desc.regs → ty ∈ [0, 6, 7, 8, 9, 10] →
    let x := fun (t : Thread) (k : Nat) => narrowA56 ty.toNat (sat == 1) (c.tm.acc a.toNat (8 * t.slot + k))
    let flags := fun (t : Thread) => (List.range 8).foldl (fun (f : Flags) k => f ||| (x t k).2.1) 0
    let per := 32 / movBits ty
    let reg := fun (t : Thread) (r : Nat) =>
      word ((List.range per).foldr (fun i (y : Nat) => y * 2 ^ movBits ty + (x t (per * r + i)).1) 0 : Nat)
    let mark := fun (t : Thread) => c.tm.accMark a.toNat ((List.range 8).map fun k => 8 * t.slot + k)
    ((∀ t ∈ c.active s g, untrapped t (flags t)) → exec (.accmovNarrow g d a sat ty) s = .next
      { s with strands := issuingStrand s c fun st => nextWord c (idleEntry c
          ((c.active s g).map fun t => (t.rank, (List.range (movRegs ty)).map (fun r => Write.v (d.toNat + r) (reg t r)) ++ [.flags (flags t)], mark t))
          (if ((c.active s g).any fun t => (List.range 8).any fun k => (x t k).2.2) = true then [.mstat 8] else []) st) }) ∧
    (let y := fun (t : Thread) (k : Nat) => (t.getV (d.toNat + k / per)).toNat / 2 ^ (movBits ty * (k % per)) % 2 ^ movBits ty
      let own := (c.active s g).flatMap fun t => (List.range 8).map fun k =>
        Write.acc a.toNat (8 * t.slot + k) (BitVec.ofNat 56 (widenA56 ty.toNat (y t k)))
      exec (.accmovWiden g d a ty) s = .next
        { s with strands := issuingStrand s c fun st => nextWord c (idleEntry c ((c.active s g).map fun t => (t.rank, [], none)) own st) })) ∧
  (∀ (g : Guard) (a : BitVec 4) (d : BitVec 6) (s : State) (c : Ctx), ctxOf s = some c → c.notFresh = true → a.toNat < c.tm.desc.accs →
    swf 0 c.tm.accs = true →
    let frame := fun (r : State) (u : Team) => teamOf r c.tm.tid = some u ∧ { u with accs := c.tm.accs, accPoison := c.tm.accPoison } = c.tm ∧
      (swf none c.tm.accPoison = true → ∀ t ∈ c.active s g, u.accMark a.toNat ((List.range 8).map fun k => 8 * t.slot + k) = none) ∧ r.threads = s.threads ∧
      r.mem = s.mem
    (∃ r u, exec (.accZero g a) s = .next r ∧ frame r u ∧ r.strands = issuingStrand s c (nextWord c) ∧ ∀ n e, e < 256 →
      u.acc n e = if n = a.toNat ∧ c.active s g ≠ [] then 0 else c.tm.acc n e) ∧
    (c.vOk [d.toNat] = true → ∃ r u, exec (.accDecay g a d) s = .next r ∧ frame r u ∧
      (∀ n e, e < 256 → (n ≠ a.toNat ∨ ∀ t ∈ c.active s g, t.slot ≠ e / 8) → u.acc n e = c.tm.acc n e) ∧
      (∀ t ∈ c.active s g, ∀ k, k < 8 → u.acc a.toNat (8 * t.slot + k) =
        decayA56 (c.tm.acc a.toNat (8 * t.slot + k)) (t.getV d.toNat).toNat % 2 ^ 56))) ∧
  (∀ (g : Guard) (a cn : BitVec 4) (load : Bool) (s : State) (c : Ctx), ctxOf s = some c → c.notFresh = true → rbRoom c →
    barred s c = false → c.p.probe = [] → a.toNat < c.tm.desc.accs → cn.toNat < c.tm.desc.caps →
    let checked := (checkLanes c cn.toNat (elementAccess cn load) s (c.active s g)).2
    (∀ x ∈ checked, x.res.toOption.isSome) →
    let xs := passedLanes checked
    (∀ x ∈ xs, atHome c (if load then .load else .store) x.2.2) →
    let mark := fun (t : Thread) => c.tm.accMark a.toNat ((List.range 8).map fun k => 8 * t.slot + k)
    ∃ r, exec (if load then .accFill g a cn else .accSpill g a cn) s = .next r ∧ threadsApart r = threadsApart s ∧
      r.strands = issuingStrand s c (fun st => nextWord c (if load then pendingEntry c (xs.map fun x => (x.1.rank, x.2.1)) st
        else idleEntry c (xs.map fun x => (x.1.rank, [], mark x.1)) [] st)) ∧
      r.mem.events = s.mem.events ++ xs.zipIdx.map fun x =>
        let u := x.1.1
        c.event [u.rank] (if load then .load else .store) x.1.2.1 x.1.2.2 .plain 0
          (if load then [] else (List.range 8).flatMap fun k => bytesOfNat 8 (c.tm.acc a.toNat (8 * u.slot + k)))
          none false (u.getC cn.toNat) (if load then some (c.st.nextRb, u.rank, .acc a.toNat u.slot) else none) (s.run.nextEv + x.2))

/-! ### Barriers, queues and fences (R189 to R203, R239 to R253) -/

/-- R197, R239 to R242: `pin.post` makes one arrival and records its handle and phase; `pin.wait` parks until the phase
leaves its target; `pin.meet` does both. The arrival that completes a phase wakes the word's waiters. A phase of handle 0
completed by `pin.meet` with every home strand of the team in it makes a checkpoint due.
Log entries 51 and 52 tell what of it is the model's choice or reading. -/
def Obligations.BarriersMeet : Prop :=
  ∀ (h : BitVec 12) (s : State) (c : Ctx), ctxOf s = some c →
    let loc := BarrierLoc.act c.tm.tid (8 * h.toNat)
    let w := handleWord c.tm h.toNat
    let x := arrivedWord w
    (mayArrive s c h → h ≠ 0 ∨ c.awayStrand = false → ∃ r, exec (.pinPost h) s = .next r ∧ arrivalAt s r c h x ∧
      r.strands = mapIf (fun st => st.sid == c.st.sid) (fun st => nextWord c { st with arrival := some (h, phaseBit w) })
        (stirredBy s loc w x)) ∧
    (h.toNat < 64 → 8 * h.toNat + 8 ≤ actBytes c.tm → c.tm.role ≠ .handler → barred s c = false → markerTaken c →
      let target := match c.st.arrival with
        | some (k, ph) => if k = h then ph else phaseBit w
        | none => phaseBit w
      exec (.pinWait h) s = .next { s with
        threads := if phaseBit w = target then s.threads else acquired s c false
        strands := issuingStrand s c (waitingOn s c loc h target false (phaseBit w = target)) }) ∧
    (mayArrive s c h → h ≠ 0 ∨ c.awayStrand = false → markerTaken c → ∃ r, exec (.pinMeet h) s = .next r ∧ registersOf r = registersOf s ∧
      (h ≠ 0 → arrivalAt s r c h x ∧ r.strands = mapIf (fun st => st.sid == c.st.sid)
        (waitingOn s c loc h (phaseBit w) true (phaseBit x = phaseBit w)) (stirredBy s loc w x)) ∧
      (h = 0 → ∃ u, teamOf r c.tm.tid = some u ∧ u.ckpt = (c.tm.ckpt || (phaseBit x != phaseBit w &&
        s.strands.all fun st => !(st.tid == c.tm.tid && st.kind == .home) || st.sid == c.st.sid || inMeet0 s st)))) ∧
    (c.awayStrand = true → markerTaken c → exec (.pinPost 0) s = .next (allFiled s c 0x01) ∧
      exec (.pinMeet 0) s = .next (allFiled s c 0x01)) ∧
    (c.tm.role = .handler → h ≠ 0 → markerTaken c → exec (.pinPost h) s = .next (allFiled s c 0x05) ∧
      exec (.pinWait h) s = .next (allFiled s c 0x05) ∧ exec (.pinMeet h) s = .next (allFiled s c 0x05))

/-- R190, R244, R245, R247, R248: `push` adds a word to the strand's partial command, and the last word hands the command to
its engine; a ninth command waits. `pop` takes the strand's oldest record, and waits where there is none. `cp.yield` takes
no record: with one its path is at the target, and otherwise it parks until one arrives.
Log entry 16 tells what of it is the model's choice or reading. -/
def Obligations.QueuesPassCommandsAndRecords : Prop :=
  ∀ (s : State) (c : Ctx), ctxOf s = some c →
    (∀ (q : BitVec 3) (a : BitVec 6) (k : BitVec 4) (useK : Bool), q ∈ [0, 2, 4, 6] → q ≠ 6 ∨ c.kernel = true → barred s c = false →
      let i : Instr := if useK then .pushK q k else .pushS q a
      let ws := grown c q (if useK then .k (c.st.getK k.toNat) else .s (c.st.getS a.toNat))
      (ws.length < commandWords q → exec i s = .next
        (afterUniform s c fun st => { st with partials := sput [] st.partials (q.toNat / 2) ws })) ∧
      (commandWords q ≤ ws.length → outstandingOf s c q < 8 → ∃ r cmd, exec i s = .next r ∧ threadsApart r = threadsApart s ∧
        r.strands = issuingStrand s c (fun st => nextWord c { st with partials := sput [] st.partials (q.toNat / 2) [] }) ∧
        r.eng.cmds = s.eng.cmds ++ [cmd] ∧ cmd.words = ws ∧ cmd.queue = q.toNat ∧ cmd.sid = c.st.sid ∧ cmd.tid = c.tm.tid ∧
        cmd.asid = c.tm.asid ∧ cmd.world = c.tm.world ∧ cmd.state = .queued ∧
        ((∀ x ∈ s.teams, x.exposed = true ∨ x.staged = []) → r.mem.cells = s.mem.cells)) ∧
      (commandWords q ≤ ws.length → 8 ≤ outstandingOf s c q → markerTaken c → exec i s = .next
        { s with strands := issuingStrand s c (parkedIn s c (.push q.toNat)) })) ∧
    (∀ (q : BitVec 3), q ∈ [1, 3, 5, 7] → q ≠ 7 ∨ c.kernel = true → barred s c = false →
      (∀ x, (c.st.records.find? fun r => r.queue == q.toNat) = some x → ∀ d : BitVec 6, ∃ r u, exec (.popS d q) s = .next r ∧
        registersOf r = registersOf s ∧ r.mem = s.mem ∧ r.eng = s.eng ∧ teamOf r c.tm.tid = some u ∧
        (x.accWrites = [] → { u with popped := c.tm.popped } = c.tm ∧ r.strands = issuingStrand s c (fun st =>
          nextWord c (pushersGo (q.toNat - 1) ({ st with records := st.records.filter fun y => y.cid != x.cid }.setS d.toNat x.word)))) ∧
        (∀ e y, x.accWrites = [.acc 0 e y] → swf 0 c.tm.accs = true → u.acc 0 e = y.toNat)) ∧
      (∀ x, (c.st.records.find? fun r => r.queue == q.toNat) = some x → q = 5 ∨ q = 7 → x.accWrites = [] → ∀ d : BitVec 4,
        ∃ r, ∃ hi : DWord, exec (.popK d q) s = .next r ∧ registersOf r = registersOf s ∧ r.mem = s.mem ∧ r.eng = s.eng ∧
        r.strands = issuingStrand s c (fun st => nextWord c (pushersGo (q.toNat - 1)
          ({ st with records := st.records.filter fun y => y.cid != x.cid }.setK d.toNat ⟨hi ++ x.word, false⟩)))) ∧
      ((c.st.records.find? fun r => r.queue == q.toNat) = none → markerTaken c → ∀ (d : BitVec 6) (k : BitVec 4),
        let parked := { s with strands := issuingStrand s c (parkedIn s c (.pop q.toNat)) }
        exec (.popS d q) s = .next parked ∧ (q = 5 ∨ q = 7 → exec (.popK k q) s = .next parked)) ∧
      (markerTaken c → ∀ o : BitVec 21, exec (.cpYield q o) s = .next
        (if (c.st.records.any fun r => r.queue == q.toNat) = true then afterJump s c id (target c o)
         else { s with strands := issuingStrand s c (parkedIn s c (.cpYield q.toNat (target c o))) })))

/-- R249 to R251: `fence` exposes the interval and, above thread scope, bars the path's later accesses until the earlier ones
are performed; `qfence` puts the strand's pending commands of its queues before those that it pushes later.
Log entry 50 tells what of it is the model's choice or reading. -/
def Obligations.FencesOrderTheStrand : Prop :=
  ∀ (s : State) (c : Ctx), ctxOf s = some c → barred s c = false →
    (∀ k : BitVec 3, k ≠ 7 → ∃ r u, exec (.fence k) s = .next r ∧ teamOf r c.tm.tid = some u ∧ u.exposed = true ∧
      threadsApart r = threadsApart s ∧ (c.tm.exposed = false → u.staged = [] ∧ u.undo = []) ∧
      ((c.tm.exposed = true ∨ c.tm.staged = []) → r.mem = s.mem) ∧
      r.strands = issuingStrand s c (fun st => nextWord c (if k = 0 then st else
        st.updPath c.p.pid fun p => { p with fence := some (k, s.run.nextEv) })) ∧
      r.run = if k = 0 then s.run else { s.run with nextEv := s.run.nextEv + 1 }) ∧
    (∀ m : BitVec 8, m ≠ 0 → m &&& 0xAA = 0 → m.getLsbD 6 = false ∨ c.kernel = true →
      let before := (s.eng.cmds.filter fun x => x.sid == c.st.sid && m.getLsbD x.queue && cmdPending s x).map (·.cid)
      ∃ r u, exec (.qfence m) s = .next r ∧ teamOf r c.tm.tid = some u ∧ u.exposed = true ∧ threadsApart r = threadsApart s ∧
        r.strands = issuingStrand s c (nextWord c) ∧ r.eng.cmds = s.eng.cmds ∧
        r.eng.qfences = s.eng.qfences ++ (if before = [] then [] else [(c.st.sid, m, before)]) ∧
        ((c.tm.exposed = true ∨ c.tm.staged = []) → r.mem = s.mem)) ∧
    (∀ (sid : Nat) (st : Strand) (p : Path) (k : BitVec 3) (n : Nat), strandOf s sid = some st → st.path? p.pid = some p →
      p.fence = some (k, n) →
      let mine := fun (tid : Nat) (ranks : List Nat) => ∃ t ∈ s.threads, t.sid = sid ∧ t.tid = tid ∧ t.status ≠ .exited ∧ t.rank ∈ ranks
      (∀ e ∈ s.mem.events, (e.sid = sid ∨ mine e.tid e.owners) → e.id < n → k ≠ 6 ∧ e.isRemote = true) →
      (k = 6 → ∀ e ∈ s.mem.events, ∀ t ∈ s.threads, t.sid = sid → acquiredRemote s t.tid [t.rank] e = false) →
      (∀ x ∈ s.eng.cmds, (x.sid = sid ∨ mine x.tid x.ranks) → x.seq < n → cmdPending s x = false) →
      (strandOf (stepFence s sid p.pid) sid).bind (fun z => z.path? p.pid) = some { p with fence := none })

/-! ### Spawning and events, seams, gates, the network queue (R360 to R382) -/

/-- R316, R342, R376, R377: `spawn` creates a team of its launch or says why not; `evt.pub` publishes slot 1 and wakes its
waiters; `evt.wait` parks until a slot is published; `evt.test` reads one.
Log entry 29 tells what of it is the model's choice or reading. -/
def Obligations.TeamsSpawnAndSignal : Prop :=
  ∀ (s : State) (c : Ctx) (l : Launch), inLaunch s c → launchOf s c.tm.launch = some l →
    let e := exposedFor s c
    (∀ d a b : BitVec 6, pathQuiet e c = true →
      let key := namedKey (c.st.getS a.toNat) (c.st.getS b.toNat)
      let slot := l.slots.find? fun k => k.kind == key.kind
      let known := l.kinds.contains key.kind && (slot.map fun k => decide (key.stage.toNat < k.stages)).getD false
      (l.state ≠ .live → exec (.spawn d a b) s = .next (answered e c d 3)) ∧
      (l.state = .live → known = false → exec (.spawn d a b) s = .next (answered e c d 2)) ∧
      (l.state = .live → known = true → key ∈ l.created → exec (.spawn d a b) s = .next (answered e c d 1)) ∧
      (l.state = .live → known = true → key ∉ l.created → ∀ k, slot = some k → ∃ r tm m, exec (.spawn d a b) s = .next r ∧
        r.teams = e.teams ++ [tm] ∧ tm.key = key ∧ tm.launch = l.num ∧ tm.desc = k.desc ∧ tm.code = k.code ∧ tm.asid = l.asid ∧
        tm.world = l.world ∧ tm.state = .created ∧ tm.place = none ∧ launchOf r c.tm.launch = some m ∧
        m.created = l.created ++ [key] ∧ { m with created := l.created, seed := l.seed } = l ∧
        r.strands = (answered e c d 0).strands ∧ r.threads = e.threads ∧ r.mem = e.mem)) ∧
    (∀ a b : BitVec 6, let x := c.st.getS a.toNat
      let y := c.st.getS b.toNat
      exec (.evtWait a b) s = .next (if slotSet l x y = true then
          { s with threads := acquired s c true, strands := issuingStrand s c (nextWord c) }
        else { s with strands := issuingStrand s c (parkedIn s c (.event (namedKey x y) (decide (y.toNat / 17592186044416 % 2 = 1)))) })) ∧
    (∀ d a b : BitVec 6, exec (.evtTest d a b) s = .next
      (if slotSet l (c.st.getS a.toNat) (c.st.getS b.toNat) = true then { answered s c d 1 with threads := acquired s c true }
       else answered s c d 0)) ∧
    (pathQuiet e c = true → c.tm.role = .field → ∃ r, exec .evtPub s = .next r ∧ registersOf r = registersOf s ∧ r.mem = e.mem ∧
      ((c.tm.key, true) ∈ l.events → r = afterUniform e c id) ∧
      ((c.tm.key, true) ∉ l.events → launchOf r c.tm.launch = some { l with events := l.events ++ [(c.tm.key, true)] } ∧
        r.strands = mapIf (fun st => st.sid == c.st.sid) (nextWord c) (s.strands.map (eventHeard s c.tm.launch c.tm.key true)))) ∧
    (c.tm.role.compensates = true → exec .evtPub s = .next (afterUniform e c id))

/-- R360 to R365, R370, R372, R378, R379: the seam instructions: the statuses in their order, and what each does to its
activity where its status is 0.
Log entries 18, 19 and 72 tell what of it is the model's choice or reading. -/
def Obligations.SeamsKeepTheirActivities : Prop :=
  ∀ (s : State) (c : Ctx), inLaunch s c → (∀ st ∈ s.strands, st.sid = c.st.sid → st.stepping = none) →
    let e := exposedFor s c
    let at' := fun (n : BitVec 6) => activity s c (c.st.getS n.toNat)
    (∀ d : BitVec 6, (65536 ≤ s.seams.entries.length → exec (.seamOpen d) s = .next (answered e c d 5)) ∧
      (s.seams.entries.length < 65536 → ∃ r x, exec (.seamOpen d) s = .next r ∧ r.seams.entries = s.seams.entries ++ [x] ∧
        (∀ y ∈ s.seams.entries, y.index ≠ x.index) ∧ x.index < 65536 ∧
        x.gen = (if sget 0 s.seams.gens x.index = 65535 then 1 else sget 0 s.seams.gens x.index + 1) ∧
        x.state = .open ∧ x.world = c.tm.world ∧ x.owner = c.tm.launch ∧ x.frames = [] ∧ x.links = [] ∧ threadsApart r = threadsApart s ∧
        r.strands = issuingStrand s c fun st => nextWord c
          ({ st with seam := if c.tm.role.compensates then st.seam else BitVec.ofNat 64 (handleOf x) }.setS d.toNat (BitVec.ofNat 64 (handleOf x))))) ∧
    (∀ (d : BitVec 6) (a b : BitVec 4), let comp := c.st.getK a.toNat
      let filed := fun (cause : BitVec 7) (detail : Word) =>
        fileThreads e c.at ((c.threads e).map fun t => (t, { cause := cause, addr := 0, detail := detail, asid := 0 }))
      (∀ cause, (if comp.tag = false then some 0x04 else if comp.seal ≠ 3 then some 0x06
          else if comp.perms.getLsbD 3 = false then some 0x05 else none) = some cause →
        exec (.seamStep d a b) s = .next (filed cause (BitVec.ofNat 32 (16 + a.toNat)))) ∧
      (comp.tag = true → comp.seal = 3 → comp.perms.getLsbD 3 = true →
        (at' d = none → exec (.seamStep d a b) s = .next (answered e c d 1)) ∧
        (∀ x, at' d = some x →
          (x.owner ≠ c.tm.launch → exec (.seamStep d a b) s = .next (answered e c d 4)) ∧
          (x.owner = c.tm.launch → x.state ≠ .open → exec (.seamStep d a b) s = .next (answered e c d 2)) ∧
          (x.owner = c.tm.launch → x.state = .open → 256 ≤ x.steps → exec (.seamStep d a b) s = .next (filed 0x39 0)) ∧
          (x.owner = c.tm.launch → x.state = .open → x.steps < 256 → pathQuiet e c = true →
            (∀ f ∈ x.frames, f.seq ≤ s.seams.seq) → (∀ y ∈ s.seams.entries, y.index = x.index → y = x) →
            ∃ r f, exec (.seamStep d a b) s = .next r ∧ r.strands = (answered e c d 0).strands ∧ threadsApart r = threadsApart s ∧
              r.seams.entries = (atSeam s x fun _ => { x with frames := x.frames ++ [f], steps := x.steps + 1 }).seams.entries ∧
              f.comp = comp ∧ f.arg = c.st.getK b.toNat ∧ f.step = x.steps + 1 ∧ f.state = 2 ∧ f.index = x.index ∧ f.seq = s.seams.seq + 1 ∧
              r.seams.seq = s.seams.seq + 1 ∧ f.die = dieOf c.st.core ∧ f.colour = c.p.code.colour ∧ f.owner = x.owner ∧
              (Memory.wf s.mem.cells = true → cellGets r.mem.cells f.place 32 = comp.toBytes ++ (c.st.getK b.toNat).toBytes ∧
                r.mem.tags.contains (f.place / 16) = true ∧ r.mem.tags.contains (f.place / 16 + 1) = (c.st.getK b.toNat).tag))))) ∧
    (∀ d : BitVec 6, (at' d = none → exec (.seamClose d) s = .next (answered e c d 1) ∧ exec (.seamDrop d) s = .next (answered e c d 1)) ∧
      (∀ x, at' d = some x →
        (x.owner ≠ c.tm.launch → exec (.seamClose d) s = .next (answered e c d 4)) ∧
        (x.state ≠ .open → exec (.seamDrop d) s = .next (answered e c d 2) ∧
          (x.owner = c.tm.launch → exec (.seamClose d) s = .next (answered e c d 2))) ∧
        (x.state = .open → stepInProgress e x = true → exec (.seamDrop d) s = .next e ∧
          (x.owner = c.tm.launch → exec (.seamClose d) s = .next e)) ∧
        (x.state = .open → stepInProgress e x = false →
          (x.owner = c.tm.launch → exec (.seamClose d) s = .next (answered { e with seams := { e.seams with
            entries := e.seams.entries.filter fun y => y.index != x.index } } c d 0)) ∧
          ((∀ y ∈ s.seams.entries, y.index = x.index → y = x) → exec (.seamDrop d) s = .next
            (answered (atSeam e x fun y => { y with state := .unpicking, runner := y.owner }) c d 0))))) ∧
    (∀ d a : BitVec 6, (at' d = none ∨ at' a = none → exec (.seamLink d a) s = .next (answered e c d 1)) ∧
      (∀ x y, at' d = some x → at' a = some y →
        (x.owner ≠ c.tm.launch → exec (.seamLink d a) s = .next (answered e c d 4)) ∧
        (x.owner = c.tm.launch → x.state ≠ .open → exec (.seamLink d a) s = .next (answered e c d 2)) ∧
        (x.owner = c.tm.launch → x.state = .open → 4 ≤ x.links.length ∨ (x.index = y.index ∧ x.gen = y.gen) ∨
            y.links = [(x.index, x.gen)] → (∀ z ∈ s.seams.entries, z.index = y.index → z = y) → exec (.seamLink d a) s = .next (answered e c d 3)) ∧
        (x.owner = c.tm.launch → x.state = .open → x.links.length < 4 → y.links = [] → (x.index, x.gen) ≠ (y.index, y.gen) →
          (∀ z ∈ s.seams.entries, z.index = y.index → z = y) → exec (.seamLink d a) s = .next (answered (atSeam e x fun z => { z with links := z.links ++ [(y.index, y.gen)] }) c d 0)))) ∧
    (∀ d a : BitVec 6, exec (.seamState d a) s = .next (answered e c d (match at' a with
      | none => 0
      | some x => (if x.state = .snagged then x.snag else 0) * 4294967296 + x.frames.length * 65536 +
          256 * (if x.state = .open then 1 else if x.state = .unpicking then 2 else if x.state = .snagged then 3 else 0)))) ∧
    (∀ d a : BitVec 6, (at' d = none → exec (.seamResume d a) s = .next (answered e c d 1)) ∧
      (∀ x, at' d = some x → x.state ≠ .snagged → exec (.seamResume d a) s = .next (answered e c d 2)) ∧
      (∀ x, at' d = some x → x.state = .snagged → ∃ r, exec (.seamResume d a) s = .next r ∧ r.strands = (answered e c d 0).strands ∧
        (∀ y ∈ r.traps.pillow, ∀ step res, y.subject ≠ .seam x.index x.gen.toNat step res) ∧
        ∃ n, r.seams.entries = (atSeam s x fun z => { z with state := .unpicking, snag := 0, runner := n
                                                             frames := if (c.st.getS a.toNat).getLsbD 0 then z.frames.dropLast else z.frames }).seams.entries))

/-- R332, R380: a gate call hands the pages of its argument over to the gate's colour and enters the gate, and the return
hands them back; a gate or an argument that is refused changes nothing of them.
Log entry 70 tells what of it is the model's choice or reading. -/
def Obligations.GatesPassPages : Prop :=
  ∀ (s : State) (c : Ctx), inLaunch s c →
    let e := exposedFor s c
    let filed := fun (cause : BitVec 7) (detail : Word) =>
      fileThreads e c.at ((c.threads e).map fun t => (t, { cause := cause, addr := 0, detail := detail, asid := 0 }))
    (∀ (a b : BitVec 4), let g := c.st.getK a.toNat
      let x := c.st.getK b.toNat
      let n := (x.region.2 - x.region.1) / 65536
      (∀ cause, (if g.tag = false then some 0x04 else if g.seal ≠ 2 then some 0x06
          else if g.perms.getLsbD 1 = false then some 0x05 else none) = some cause →
        exec (.gateCall a b) s = .next (filed cause (BitVec.ofNat 32 (16 + a.toNat)))) ∧
      (g.tag = true → g.seal = 2 → g.perms.getLsbD 1 = true → gateRecord e c.tm.asid g.addr = none →
        exec (.gateCall a b) s = .next (filed 0x3A 0)) ∧
      (g.tag = true → g.seal = 2 → g.perms.getLsbD 1 = true → ∀ rec0, gateRecord e c.tm.asid g.addr = some rec0 →
        let good := x.tag = true ∧ x.seal = 0 ∧ x.colour = rec0.fromC ∧ x.region.2 ≤ 2 ^ 57 ∧ x.region.1 % 65536 = 0 ∧ (x.region.2 - x.region.1) % 65536 = 0 ∧
          x.region.2 - x.region.1 ≤ rec0.length ∧ ∀ i, i < n → ∃ lf, pageLeaf e c.tm.asid (x.region.1 / 65536 + i) = some lf ∧
            lf.1.units = 1 ∧ lf.1.colour = rec0.fromC
        (4 ≤ c.st.gates.length ∨ ¬ good → exec (.gateCall a b) s = .next (filed 0x3A 0)) ∧
        (c.st.gates.length < 4 → good → pathQuiet e c = true →
          rangeQuiet e ⟨false, c.tm.asid, x.region.1 / 65536, x.region.2 / 65536⟩ = true → ∃ r, exec (.gateCall a b) s = .next r ∧
          threadsApart r = threadsApart s ∧ r.mem.cells = (recolour e c.tm.asid (x.region.1 / 65536) n rec0.toC).mem.cells ∧
          (∀ y ∈ r.mem.tlb, y.asid = c.tm.asid → y.page + y.units ≤ x.region.1 / 65536 ∨ x.region.2 / 65536 ≤ y.page) ∧
          r.strands = issuingStrand s c fun st => nextAt c (BitVec.ofNat 64 rec0.entry.addr)
            ({ st.setK b.toNat ((x.withColour rec0.toC).withPerms (x.perms &&& rec0.mask)) with gates := st.gates ++
              [(⟨rec0.fromC, rec0.toC, x.region.1, x.region.2 - x.region.1, c.p.pc + 4, c.p.code⟩ : GateRec)] }.updPath c.p.pid fun p =>
                { p with code := rec0.entry })))) ∧
    (c.st.gates = [] → exec .gateRet s = .next (filed 0x3A 0)) ∧
    (∀ gs rec0, c.st.gates = gs ++ [rec0] → pathQuiet e c = true →
      rangeQuiet e ⟨false, c.tm.asid, rec0.base / 65536, (rec0.base + rec0.length) / 65536⟩ = true →
      (∀ i, i < rec0.length / 65536 → ∃ lf, pageLeaf e c.tm.asid (rec0.base / 65536 + i) = some lf ∧ lf.1.units = 1 ∧ lf.1.colour = rec0.toC) →
      ∃ r, exec .gateRet s = .next r ∧ threadsApart r = threadsApart s ∧
        r.mem.cells = (recolour e c.tm.asid (rec0.base / 65536) (rec0.length / 65536) rec0.fromC).mem.cells ∧
        r.strands = issuingStrand s c fun st => nextAt c rec0.pc
          ({ st with gates := st.gates.dropLast }.updPath c.p.pid fun p => { p with code := rec0.code }))

/-- R190, R381, R382: a net instruction hands the strand's network queue a command of its registers; `net.done` takes every
record of the queue once no network command of the strand is outstanding.
Log entries 20 and 22 tell what of it is the model's choice or reading. -/
def Obligations.NetInstructionsUseTheirQueue : Prop :=
  ∀ (s : State) (c : Ctx), ctxOf s = some c → barred s c = false →
    let e := exposedFor s c
    (∀ (d : BitVec 6) (a b : BitVec 4) (n : Nat), n < 3 →
      let i : Instr := if n = 0 then .netPut d a b else if n = 1 then .netGet d a b else .netRed d a b
      (outstandingOf s c 4 < 8 → ∃ r cmd, exec i s = .next r ∧ r.eng.cmds = s.eng.cmds ++ [cmd] ∧ threadsApart r = threadsApart s ∧
        r.strands = issuingStrand s c (nextWord c) ∧ cmd.queue = 4 ∧ cmd.sid = c.st.sid ∧ cmd.tid = c.tm.tid ∧ cmd.state = .queued ∧
        cmd.words = [.k (c.st.getK a.toNat), .k (c.st.getK b.toNat), .s (c.st.getS d.toNat), .s (BitVec.ofNat 64 n)]) ∧
      (8 ≤ outstandingOf s c 4 → markerTaken c → exec i s = .next { e with strands := issuingStrand s c (parkedIn s c (.push 4)) })) ∧
    (∀ d : BitVec 6, let rs := c.st.records.filter fun r => r.queue == 5
      ((∃ x ∈ s.eng.cmds, x.sid = c.st.sid ∧ x.queue = 4) → markerTaken c →
        exec (.netDone d) s = .next { e with strands := issuingStrand s c (parkedIn s c .netDone) }) ∧
      ((∀ x ∈ s.eng.cmds, x.sid = c.st.sid → x.queue ≠ 4) → (∀ x ∈ rs, x.accWrites = []) → ∃ r, exec (.netDone d) s = .next r ∧
        registersOf r = registersOf s ∧ r.mem = e.mem ∧ r.strands = issuingStrand s c fun st => nextWord c
          ((if rs = [] then st else pushersGo 4 { st with records := st.records.filter fun y => !(rs.any fun x => x.cid == y.cid) }).setS d.toNat
            (BitVec.ofNat 64 (rs.length % 256 * 256 + oneStatus rs)))))

/-! ### Privileged instructions (R101, R161, R297 to R299, R324, R325, R333 to R335, R383 to R385) -/

/-- R161, R384: `csr.rd` gives a control register, or a part of a cause-table entry, and `csr.wr` writes the cause table alone: p7
of the solo lane says whether it was refused.
Log entries 39 and 75 tell what of it is the model's choice or reading. -/
def Obligations.ControlRegistersReadAndWrite : Prop :=
  ∀ (d a : BitVec 6) (s : State) (c : Ctx), alone s c →
    let x := c.st.getS a.toNat
    let bank := bits x 48 8
    let part := bits x 40 2
    let cause := bits x 32 7
    let e := causeEntry s bank cause
    let told := fun (r : State) (refused : Bool) =>
      ({ r with threads := mapIf (fun t => t.tid == c.tm.tid && (c.ranks s).contains t.rank) (fun t => t.setP 7 refused) s.threads
                strands := issuingStrand s c (nextWord c) } : State)
    (∀ y ∈ controlRegister, exec (.csrRd d a (BitVec.ofNat 6 y.1)) s = .next
      (afterUniform s c fun st => st.setS d.toNat (BitVec.ofNat 64 (y.2 s c x)))) ∧
    exec (.csrRd d a 4) s = .next (afterUniform s c fun st =>
      if part = 0 then st.setS d.toNat (BitVec.ofNat 64 ((if e.valid then 9223372036854775808 else 0) + e.cls.toNat * 2 ^ 56 +
        e.width.toNat * 2 ^ 48 + e.timeout.toNat * 2 ^ 32 + e.home.toNat))
      else if part = 1 then st.setK (d.toNat % 16) e.code
      else if part = 2 then st.setK (d.toNat % 16) e.data
      else st.setS d.toNat 0) ∧
    (∀ y ∈ controlRegister, exec (.csrWr d a (BitVec.ofNat 6 y.1)) s = .next (told s true)) ∧
    (match causeWritten bank cause part (c.st.getS d.toNat) (c.st.getK (d.toNat % 16)) e with
      | none => exec (.csrWr d a 4) s = .next (told s true)
      | some z => swf noCause s.traps.causeTable = true → ∃ r, exec (.csrWr d a 4) s = .next r ∧
          r = told { s with traps := { s.traps with causeTable := r.traps.causeTable } } false ∧
          causeEntry r bank cause = z ∧
          ∀ n, n ≠ 128 * bank + cause → sget noCause r.traps.causeTable n = sget noCause s.traps.causeTable n)

/-- R101, R297 to R299: `tlb.inv` and `revoke` refuse a range that breaks R297; otherwise they complete once no access that used a
translation of the range is outstanding, and no translation of it stays cached. `tlb.inv` changes no table. `revoke` raises
the version of each valid leaf of the range; a raise adds 1 to bits [111:104], modulo 256, and leaves the others.
Log entry 70 tells what of it is the model's choice or reading. -/
def Obligations.TranslationsAreDropped : Prop :=
  (∀ (d a b : BitVec 6) (s : State) (c : Ctx), alone s c →
    let ctl := c.st.getS d.toNat
    let r := rangeNamed ctl (c.st.getS a.toNat) (c.st.getS b.toNat)
    (∀ cause, rangeCause false ctl (c.st.getS a.toNat) (c.st.getS b.toNat) = some cause →
      exec (.tlbInv d a b) s = .next (allFiled s c cause)) ∧
    (∀ cause, rangeCause true ctl (c.st.getS a.toNat) (c.st.getS b.toNat) = some cause →
      exec (.revoke d a b) s = .next (allFiled s c cause)) ∧
    (rangeCause false ctl (c.st.getS a.toNat) (c.st.getS b.toNat) = none → rangeQuiet s r = false → exec (.tlbInv d a b) s = .next s) ∧
    (rangeCause true ctl (c.st.getS a.toNat) (c.st.getS b.toNat) = none → rangeQuiet s r = false → exec (.revoke d a b) s = .next s) ∧
    (rangeCause false ctl (c.st.getS a.toNat) (c.st.getS b.toNat) = none → rangeQuiet s r = true → ∃ t, exec (.tlbInv d a b) s = .next t ∧
      noneCached t r ∧ t.mem.cells = s.mem.cells ∧ t.threads = s.threads ∧ t.strands = issuingStrand s c (nextWord c) ∧
      (∀ x ∈ s.mem.tlb, x ∉ t.mem.tlb → (r.all = true ∨ x.asid = r.asid) ∧ x.page < r.hi ∧ r.lo < x.page + x.units)) ∧
    (rangeCause true ctl (c.st.getS a.toNat) (c.st.getS b.toNat) = none → rangeQuiet s r = true → ∃ t, exec (.revoke d a b) s = .next t ∧
      noneCached t r ∧ t.threads = s.threads ∧ t.strands = issuingStrand s c (nextWord c) ∧
      t.mem.cells = (raiseRange s (dieOf c.st.core) r).mem.cells)) ∧
  (∀ (s : State) (pa : Nat) (e : BitVec 128), pa % 16 = 0 → (∀ x ∈ s.mem.redEntries, x.line ≠ pa / 64) → tierAt pa = some 0 →
    Memory.wf s.mem.cells = true → let f := readEntry (raiseVersion s pa e) pa
    (f.extractLsb' 104 8).toNat = ((e.extractLsb' 104 8).toNat + 1) % 256 ∧ f.extractLsb' 0 104 = e.extractLsb' 0 104 ∧
      f.extractLsb' 112 16 = e.extractLsb' 112 16 ∧ onlyBytes s (raiseVersion s pa e) pa 16)

/-- R324, R325, R333, R334, R385: `key.load` loads a wrapped key or says why not; `key.kill` destroys a key once nothing that passed
its check is pending, with the L1 copies read under it; `attest` writes a quote and counts its signature; `halt` stops the
device with its reason.
Log entries 8, 68, 69 and 76 tell what of it is the model's choice or reading. -/
def Obligations.KeysQuotesAndHalt : Prop :=
  ∀ (s : State) (c : Ctx), alone s c →
    (∀ (d b : BitVec 6) (a : BitVec 4) (s1 s2 : State) (locs : List (Loc × Nat)) (g : Got),
      checkAccess s (c.who s ((c.ranks s).headD 0)) (soloAccess c a .load 40 8 0x80) = (s1, .ok locs) →
      readLocs s1 none locs = (s2, some g) →
      let ctl := c.st.getS b.toNat
      let n := loadStatus s2 ctl g.bytes
      let slot := bits ctl 0 16
      let old := keySlot s slot
      ∃ r, exec (.keyLoad d a b) s = .next r ∧ r.threads = s.threads ∧
        r.strands = issuingStrand s c (fun st => nextWord c (st.setS d.toNat (BitVec.ofNat 64 n))) ∧
        (n ≠ 0 → r.trust = s.trust) ∧
        (n = 0 → swf noKey s.trust.keys = true → swf 0 s.trust.meas = true → ∃ key, some key = unwrapKey (keySlot s (bits ctl 16 16)).key g.bytes ∧
          keySlot r slot = { state := 1, world := BitVec.ofNat 8 (bits ctl 40 8), colour := BitVec.ofNat 4 (bits ctl 32 4)
                             use := BitVec.ofNat 2 (bits ctl 36 2), gen := old.gen + 1, key := key, writes := 0 } ∧
          (∀ i, i ≠ slot → keySlot r i = keySlot s i) ∧
          sget 0 r.trust.meas 6 = extended (sget 0 s.trust.meas 6) (sha256 (bytesOfNat 2 slot ++
            [BitVec.ofNat 8 (bits ctl 40 8), BitVec.ofNat 8 (bits ctl 32 4)] ++ bytesOfNat 2 (old.gen + 1).toNat)) ∧
          ∀ i, i ≠ 6 → sget 0 r.trust.meas i = sget 0 s.trust.meas i)) ∧
    (∀ d a : BitVec 6, let slot := bits (c.st.getS a.toNat) 0 16
      (slot = 0 ∨ (keySlot s slot).state ≠ 1 → exec (.keyKill d a) s = .next (afterUniform s c fun st => st.setS d.toNat 1)) ∧
      (slot ≠ 0 → (keySlot s slot).state = 1 → slotPending (drainSlot s slot) slot = true →
        exec (.keyKill d a) s = .next (drainSlot s slot)) ∧
      (slot ≠ 0 → (keySlot s slot).state = 1 → slotPending (drainSlot s slot) slot = false → swf noKey s.trust.keys = true →
        ∃ r, exec (.keyKill d a) s = .next r ∧ keySlot r slot = { keySlot s slot with state := 2, key := 0 } ∧
          (∀ i, i ≠ slot → keySlot r i = keySlot s i) ∧ (∀ x ∈ r.mem.l1, x.slot = slot → (tierAt (64 * x.line)).getD 0 = 0) ∧
          threadsApart r = threadsApart s ∧ r.strands = issuingStrand s c (fun st => nextWord c (st.setS d.toNat 0)))) ∧
    (∀ (d b : BitVec 6) (a : BitVec 4) (s1 s2 s3 : State) (l1 : List (Loc × Nat)) (pa k : Nat) (g : Got),
      let who := c.who s ((c.ranks s).headD 0)
      checkAccess s who (soloAccess c a .load 5560 64 0xC0) = (s1, .ok l1) →
      checkAccess s1 who (soloAccess c a .store 5560 64 0xC0) = (s2, .ok [(.phys pa k, 5560)]) →
      (33554432 ≤ s2.trust.sigIndex → exec (.attest d a b) s = .next (afterUniform s2 c fun st => st.setS d.toNat 1)) ∧
      (s2.trust.sigIndex < 33554432 → s2.trust.unlocking = true →
        exec (.attest d a b) s = .next (afterUniform s2 c fun st => st.setS d.toNat 2)) ∧
      (s2.trust.sigIndex < 33554432 → s2.trust.unlocking = false → readLocs s2 none l1 = (s3, some g) → pa % 64 = 0 →
        tierAt pa = some 0 → s.mem.redEntries = [] → Memory.wf s.mem.cells = true → ∃ r, exec (.attest d a b) s = .next r ∧
        r.trust = { s.trust with sigIndex := s.trust.sigIndex + 1 } ∧ r.threads = s.threads ∧
        r.strands = issuingStrand s c (fun st => nextWord c (st.setS d.toNat 0)) ∧ onlyBytes s r pa 5560 ∧
        (∀ i, i < 324 → some (cellGet r.mem.cells (pa + i)) = (bytesOfNat 4 1 ++ bytesOfNat 16 s.trust.devid.toNat ++
          bytesOfNat 4 s.trust.lifecycle.toNat ++ bytesOfNat 8 s.trust.sigIndex ++ (g.bytes.drop 32).take 32 ++
          bytesOfNat 4 (bits (c.st.getS b.toNat) 0 8) ++ (List.range 8).flatMap fun n => bytesOfNat 32 (sget 0 s.trust.meas n).toNat)[i]?))) ∧
    (∀ a : BitVec 6, exec (.halt a) s = .next { s with
      run := { s.run with halted := true }
      plant := { s.plant with health := BitVec.ofNat 64 (s.plant.health.toNat / 256 * 256 + bits (c.st.getS a.toNat) 0 8) } })

/-! ### Events: strands, handlers and rollback (R41 to R45, R62, R159 to R174, R203, R295) -/

/-- R41, R43, R203: a long result returns once no lane waits; a Commit() then writes every result, oldest first, into its
lanes, and a forced one is counted; poison that it meets in an unexposed interval is not written and makes the team roll back. The
rollback gives the team its checkpoint again: threads, registers, tiles, accumulators and logged buffer lines; accesses from
before the checkpoint stay to be performed, and no byte of memory changes.
Log entry 53 tells what of it is the model's choice or reading. -/
def Obligations.CommitsAndRollbacks : Prop :=
  (∀ (s : State) (sid entry : Nat), ∃ r, exec (.longResultReturn sid entry) s = .next r ∧ r.threads = s.threads ∧ r.mem = s.mem ∧
    r.strands = mapIf (fun st => st.sid == sid) (fun st => { st with rb := st.rb.map fun e =>
      if e.id = entry ∧ ∀ l ∈ e.lanes, l.pending = false then { e with returned := true } else e }) s.strands) ∧
  (∀ (s : State) (st : Strand) (tm : Team), strandOf s st.sid = some st → teamOf s st.tid = some tm → st.serves = false →
    (¬ allReturned st → exec (.commit st.sid) s = .next s ∧ exec (.implicitMarker st.sid) s = .next s) ∧
    (allReturned st → cleanRb st → (∀ e ∈ st.rb, e.strand = []) →
      (st.commit = some .explicit → ∃ r z, exec (.commit st.sid) s = .next r ∧ r.threads = committedThreads s st ∧
        strandOf r st.sid = some z ∧ cleared st z ∧ z.implicit = st.implicit ∧ r.mem = s.mem ∧ r.teams = s.teams ∧
        (st.stop ≠ .running → z.stop = .stopped)) ∧
      (∀ counted, st.commit = some (.implicit counted) → ∃ r z, exec (.implicitMarker st.sid) s = .next r ∧
        r.threads = committedThreads s st ∧ strandOf r st.sid = some z ∧ cleared st z ∧
        z.implicit = st.implicit + (if counted then 1 else 0) ∧ r.mem = s.mem ∧ r.teams = s.teams)) ∧
    (allReturned st → st.commit = some .explicit → tm.exposed = false → tm.rollbacks ≠ 3 →
      ∀ e es prov, st.rb = e :: es → e.poison = some prov → ∃ r u, exec (.commit st.sid) s = .next r ∧ r.threads = s.threads ∧
        teamOf r st.tid = some u ∧ u.rolling = some prov ∧ r.mem = s.mem)) ∧
  (∀ (s : State) (tm : Team) (sh : Shadow) (prov : BitVec 12), teamOf s tm.tid = some tm → tm.rolling = some prov → tm.shadow = some sh →
    ((∃ x ∈ s.eng.cmds, x.tid = tm.tid ∧ sh.cmd ≤ x.cid ∧ (x.queue = 0 ∨ x.queue = 2) ∧ cmdPending s x = true) →
      exec (.rollback tm.tid) s = .next s) ∧
    ((∀ x ∈ s.eng.cmds, x.tid = tm.tid → sh.cmd ≤ x.cid → x.queue = 0 ∨ x.queue = 2 → cmdPending s x = false) →
      ∃ r u, exec (.rollback tm.tid) s = .next r ∧ r.threads = (s.threads.filter fun t => t.tid != tm.tid) ++ sh.threads ∧
        (let kept := fun (st : Strand) => (st.sid, st.s, st.k, st.paths.map (fun p => (p.pid, p.mask, p.parent, p.code)), st.frames, st.rb, st.cur);
          r.strands.map kept = ((s.strands.filter fun st => st.tid != tm.tid) ++ sh.strands).map kept) ∧
        teamOf r tm.tid = some u ∧ u.tiles = sh.tiles ∧ u.accs = sh.accs ∧ u.staged = [] ∧ u.undo = [] ∧ u.exposed = false ∧
        u.rolling = none ∧ u.rollbacks = tm.rollbacks + 1 ∧ r.mem.cells = s.mem.cells ∧
        r.mem.events = s.mem.events.filter (fun e => e.tid != tm.tid || decide (e.id < sh.ev)) ∧
        (tm.undo = [] → u.act = tm.act ∧ u.wgt = tm.wgt) ∧
        (∀ x, tm.undo = [x] → x.weight = false → x.bytes.length = 64 → swf 0 tm.act = true →
          u.wgt = tm.wgt ∧ ∀ i, sget 0 u.act i = if 64 * x.line ≤ i ∧ i < 64 * x.line + 64 then (x.bytes[i - 64 * x.line]?).getD 0 else sget 0 tm.act i)))

/-- R159, R162, R164 to R166, R180, R295: entries gather into a group, the group starts a handler strand on a core, one lane for
each entry, and a filing or an orphan that found no entry takes one once there is room; so does an entry that a handler filed
again, which then leaves its old place.
Log entry 91 tells what of it is the model's choice or reading. -/
def Obligations.HandlersGatherAndStart : Prop :=
  (∀ (s : State) (bank cause key : Nat), groupReady s bank cause key = true → ∃ r g, exec (.gatherTimeout bank cause key) s = .next r ∧
    r.traps.groups = s.traps.groups ++ [g] ∧ g.entries = gathered s bank cause key ∧ g.cause = cause ∧ g.bank = bank ∧
    r.traps.pillow = s.traps.pillow.map (fun e => if e.eid ∈ gathered s bank cause key then { e with state := .grouped g.gid } else e) ∧
    r.threads = s.threads ∧ r.strands = s.strands ∧ r.mem = s.mem) ∧
  (∀ (s : State) (bank cause key : Nat), (∀ e ∈ waiting s bank cause key, s.run.clock.toNat < e.stamp + (causeEntry s bank cause).timeout.toNat) →
    (waiting s bank cause key).length < (causeEntry s bank cause).width.toNat → exec (.gatherTimeout bank cause key) s = .next s) ∧
  (∀ (s : State) (g : Group) (core slot : Nat), (s.traps.groups.find? fun x => x.gid == g.gid) = some g → groupEntries s g ≠ [] →
    freeSlot s core = some slot → placeReady s g = true → (groupCores s g).contains core = true →
    (∀ x ∈ s.threads, x.tid < s.run.nextTid) → (∀ x ∈ s.teams, x.tid < s.run.nextTid) →
    let c := causeEntry s g.bank g.cause
    let es := groupEntries s g
    ∃ r st tm, exec (.handlerStrandPlace g.gid core) s = .next r ∧ r.strands = s.strands ++ [st] ∧ teamOf r st.tid = some tm ∧
      st.sid = s.run.nextSid ∧ st.kind = .handler ∧ st.core = core ∧ st.cslot = slot ∧ st.handlerCause = BitVec.ofNat 7 g.cause ∧
      st.handlerClass = c.cls ∧ st.getK 1 = c.data ∧ tm.world = BitVec.ofNat 8 c.home.toNat ∧
      tm.asid = (if c.home.toNat / 256 = 0xFFFF then (es.head?.map (·.asid)).getD 0 else BitVec.ofNat 16 (c.home.toNat / 256)) ∧
      (∃ p, st.paths = [p] ∧ p.pc = BitVec.ofNat 64 c.code.addr ∧ p.code.bits = (c.code.withSeal 0).bits ∧ p.state = .ready ∧
        ∀ i, i < 32 → p.mask.getLsbD i = decide (i < es.length)) ∧
      (∀ i e, i < 32 → es[i]? = some e → ∃ t, threadOf r st.tid i = some t ∧ t.sid = st.sid ∧ t.slot = i ∧ t.status = .present ∧
        t.subject = some e.eid ∧ t.getC 1 = c.data) ∧
      (∀ x ∈ r.traps.groups, x.gid ≠ g.gid) ∧ (∀ x ∈ r.traps.pillow, x.eid ∈ es.map (·.eid) → ∃ n, x.state = .served st.tid n)) ∧
  (∀ (s : State) (st : Strand) (e : Entry) (es : List Entry), strandOf s st.sid = some st → st.parked = e :: es →
    (st.passes e = false →
      (shareHasRoom s e.die e.cause → ∃ r z, exec (.pillowUnpark st.sid) s = .next r ∧ r.traps.pillow = s.traps.pillow ++ [e] ∧
        strandOf r st.sid = some z ∧ z = { st with parked := es } ∧ r.threads = s.threads ∧ r.mem = s.mem) ∧
      (¬ shareHasRoom s e.die e.cause → exec (.pillowUnpark st.sid) s = .next s)) ∧
    (st.passes e = true →
      let others := s.traps.pillow.filter fun x => x.eid != e.eid
      let without := { s with traps := { s.traps with pillow := others } }
      let goesOn := fun (r : State) => exec (.pillowUnpark st.sid) s = .next r ∧ r.mem = s.mem ∧
        ∀ z, strandOf r st.sid = some z → z = { st with parked := es }
      ((∀ x ∈ s.traps.pillow, x.eid ≠ e.eid) → ∃ r, goesOn r ∧ r.traps.pillow = s.traps.pillow) ∧
      ((∃ x ∈ s.traps.pillow, x.eid = e.eid) → shareHasRoom without e.die e.cause → ∃ r, goesOn r ∧ r.traps.pillow = others ++ [e]) ∧
      ((∃ x ∈ s.traps.pillow, x.eid = e.eid) → ¬ shareHasRoom without e.die e.cause → exec (.pillowUnpark st.sid) s = .next s))) ∧
  (∀ (s : State) (n : Nat) (o : Orphan), s.traps.heldOrphans[n]? = some o → (causeEntry s 0 0x40).valid = true → shareHasRoom s 0 0x40 →
    ∃ r e, exec (.orphanDeferredFile n) s = .next r ∧ r.traps.pillow = s.traps.pillow ++ [e] ∧ e.subject = .orphan o ∧ e.cause = 0x40 ∧
      r.traps.heldOrphans = s.traps.heldOrphans.eraseIdx n ∧ r.threads = s.threads ∧ r.strands = s.strands ∧ r.mem = s.mem)

/-- R57, R61, R62, R172, R174: what becomes of absent threads. An absence clock that has run out closes its frame without them: the arrived
threads go on after the join, the absent ones straggle. A straggler with a slot starts in a strand of its own, with its
home strand's uniform state; a fresh strand's threads go home from its matching join.
Log entries 44, 82 and 91 tell what of it is the model's choice or reading. -/
def Obligations.AbsentThreadsFollow : Prop :=
  (∀ (s : State) (st : Strand) (fid : Nat) (f : Frame) (k : AbsClock) (pc : DWord), strandOf s st.sid = some st → st.frames = [(fid, f)] →
    f.clock = some k → clocksRun s st = true → st.rootJoin = none → f.parent ≠ some fid →
    (k.len = 0 ∨ s.run.clock.toNat < k.start + k.len → exec (.absenceExpiry st.sid (some fid)) s = .next s) ∧
    (k.len ≠ 0 → k.start + k.len ≤ s.run.clock.toNat → f.joinpc = some pc → f.arrived ≠ 0 →
      f.expected &&& ~~~(f.arrived ||| absentSlots s st) = 0 → ∃ r z q, exec (.absenceExpiry st.sid (some fid)) s = .next r ∧
      strandOf r st.sid = some z ∧ z.frames = [] ∧ z.paths = (st.paths.filter fun p => p.parent != some fid) ++ [q] ∧ q.mask = f.arrived ∧
      q.pc = pc + 4 ∧ q.parent = f.parent ∧ q.state = .ready ∧ q.code = f.code ∧ r.mem = s.mem ∧ registersOf r = registersOf s ∧
      r.threads = s.threads.map (fun t => if ofStrand st t = true ∧ t.status.away = true ∧
        (f.expected &&& ~~~f.arrived).getLsbD (maskSlot st t) = true then
          { t with straggling := true, homeFrame := if st.isHome = true then none else t.homeFrame } else t))) ∧
  (∀ (s : State) (t : Thread) (pc : DWord) (code : Cap) (home st : Strand) (tm : Team) (slot : Nat), threadOf s t.tid t.rank = some t →
    t.status = .waitingSlot pc code → homeStrand? s t.tid t.rank = some home → (strandOf s t.sid).or (some home) = some st →
    teamOf s t.tid = some tm → tm.place.isSome = true →
    (freeSlot s st.core = none → exec (.stragglerStart t.tid t.rank) s = .next s) ∧
    (freeSlot s st.core = some slot → ∃ r z q u, exec (.stragglerStart t.tid t.rank) s = .next r ∧
      r.strands = (s.strands.filter fun x => !(x.sid == t.sid && !x.isHome &&
        !(s.threads.any fun y => y.sid == x.sid && y.rank != t.rank && y.status != .exited))) ++ [z] ∧
      z.kind = .straggler home.sid false ∧ z.num = home.num ∧ z.core = st.core ∧ z.cslot = slot ∧ z.s = home.s ∧ z.k = home.k ∧ z.paths = [q] ∧ q.pc = pc ∧ q.mask = 1#32 <<< (t.rank % 32) ∧ q.code = t.leftCode ∧ q.state = .ready ∧ q.rep = t.rep ∧
      threadOf r t.tid t.rank = some u ∧ u = { t with sid := z.sid, slot := t.rank % 32, status := .present } ∧ r.mem = s.mem)) ∧
  (∀ (s : State) (st : Strand) (homes : List Nat) (p : Path) (since : Nat), strandOf s st.sid = some st → st.kind = .fresh homes →
    st.paths = [p] → p.state = .waiting .freshReturn since →
    ((∃ x ∈ s.eng.cmds, x.sid = st.sid) → exec (.freshStrandReturn st.sid) s = .next s) ∧
    ((∀ x ∈ s.eng.cmds, x.sid ≠ st.sid) → (∀ t ∈ s.threads, t.sid = st.sid → t.status ≠ .exited → t ∈ presentOf s st.sid p) →
      (∀ t ∈ presentOf s st.sid p, t.tid = st.tid ∧ ∃ h, homeStrand? s t.tid t.rank = some h ∧ h.sid ≠ st.sid) → st.sid ∉ homes →
      ∃ r, exec (.freshStrandReturn st.sid) s = .next r ∧ strandOf r st.sid = none ∧ registersOf r = registersOf s ∧ r.mem = s.mem ∧
        ∀ t ∈ presentOf s st.sid p, threadOf s t.tid t.rank = some t → ∃ h u, homeStrand? s t.tid t.rank = some h ∧
          threadOf r t.tid t.rank = some u ∧ u.sid = h.sid ∧ u.slot = t.rank % 32 ∧ u.status = .present))


/-! ### Events: engines and the fabric (R189 to R195, R225, R226, R305, R314, R318, R353, R387 to R402) -/

/-- R190 to R195, R265, R314: a copy is taken once what comes before it is performed and its core's turn has come; a command that
breaks its tables ends with 8, a multicast with no peer with 9, a range that fails a check with that check's status, and nothing is
written; the peers of a multicast stand in it whatever its end. A running copy writes its destination block by block, each
block taken from its source in one step; a byte that several rows write has that of the last of them; bytes of another package
are asked for first.
Log entries 17, 56 and 57 tell what of it is the model's choice or reading. -/
def Obligations.CopiesMoveTheirRows : Prop :=
  (∀ (s : State) (c : Cmd), cmdOf s c.cid = some c → c.queue = 0 →
    (c.state = .queued → takeReady s c = false → exec (.copy c.cid) s = .next s) ∧
    (∀ x ∈ s.eng.cmds, x.cid ≠ c.cid → x.state.pending = true → sget 0 s.eng.copyTurn (c.cluster s) = x.cid + 1 →
      exec (.copy c.cid) s = .next s) ∧
    ((c.state = .queued → takeReady s c = true) → (∀ n, c.state ≠ .performed n) → sget 0 s.eng.copyTurn (c.cluster s) = 0 →
      (∀ x ∈ s.eng.cmds, x.cid ≠ c.cid → x.cluster s = c.cluster s → copyTurn s c ≤ copyTurn s x) → mayCopy s c = true)) ∧
  (∀ (s : State) (c : Cmd), cmdOf s c.cid = some c → c.queue = 0 → c.state = .queued → mayCopy s c = true →
    let w := c.sWord 2
    let direct := bits (c.sWord 3) 18 1 = 0
    ((c.malformed = true ∨ bits (c.sWord 3) 20 12 ≠ 0 ∨ bits (c.sWord 3) 13 1 ≠ 0) → copyEnds s c c.peers 8) ∧
    (copyWordsOk c → c.malformed = false → bits (c.sWord 3) 20 12 = 0 → bits (c.sWord 3) 13 1 = 0 →
      (bits (c.sWord 3) 14 4 ≠ 0 → spaceOf (c.kWord 1).addr ≠ 8 → spaceOf (c.kWord 1).addr ≠ 9 → copyEnds s c c.peers 8) ∧
      (bits (c.sWord 3) 14 4 ≠ 0 → spaceOf (c.kWord 1).addr = 8 ∨ spaceOf (c.kWord 1).addr = 9 → ∀ tm, c.team s = some tm →
        (∃ n, n < 4 ∧ (bits (c.sWord 3) 14 4).testBit n = true ∧ peerOn s tm c.core n = none) → copyEnds s c c.peers 9) ∧
      (∀ ps, copyTo s c ps →
        (direct → (copyRows w = 0 ∨ copyRowBytes w = 0) → copyEnds s c ps 8) ∧
        (direct → copyRows w ≠ 0 → copyRowBytes w ≠ 0 →
          (∀ n, rangeStatus (c.kWord 0) (copySpan w false) 0x84 = some n → copyEnds s c ps n) ∧
          (rangeCheck s c .load (c.kWord 0) (copySpan w false) = none →
            (∀ n, rangeStatus (c.kWord 1) (copySpan w true) 0x44 = some n → copyEnds s c ps n) ∧
            (rangeCheck s c .store (c.kWord 1) (copySpan w true) = none →
              ((∃ t ∈ ps, ∃ u, teamOf s t = some u ∧
                  (if spaceOf (c.kWord 1).addr = 9 then u.desc.wgt else actBytes u) < (c.kWord 1).addr % 2 ^ 60 + copySpan w true) →
                copyEnds s c ps 3) ∧
              ((∀ t ∈ ps, ∃ u, teamOf s t = some u ∧ (c.kWord 1).addr % 2 ^ 60 + copySpan w true ≤
                  (if spaceOf (c.kWord 1).addr = 9 then u.desc.wgt else actBytes u)) →
                ∃ r x, exec (.copy c.cid) s = .next r ∧ cmdOf r c.cid = some x ∧ x.state = .running 0 0 false ∧ x.peers = ps ∧
                  x.sWord 2 = w ∧ x.kWord 0 = c.kWord 0 ∧ x.kWord 1 = c.kWord 1 ∧ x.sWord 3 = c.sWord 3 ∧ r.threads = s.threads ∧
                  r.mem = s.mem ∧ r.teams = s.teams)))) ∧
        (¬ direct → ∀ l, launchOf s c.launch = some l → (bits w 16 48 ≠ 0 ∨ l.layoutCount ≤ bits w 0 16) → copyEnds s c ps 8) ∧
        (¬ direct → ∀ l tm s1 loc, launchOf s c.launch = some l → bits w 16 48 = 0 → bits w 0 16 < l.layoutCount →
          tablePlace s c (bits w 0 16) = (s1, .ok loc) → c.team s1 = some tm →
          (∀ s2, layoutRead s1 tm c.sid c.lfence l.began loc = (s2, none) → exec (.copy c.cid) s = .next s2) ∧
          (∀ s2 g, layoutRead s1 tm c.sid c.lfence l.began loc = (s2, some g) → cmdOf s2 c.cid = some c →
            let record := parseRecord g.bytes g.tag
            (g.poison ≠ none → ∃ r x, exec (.copy c.cid) s = .next r ∧ cmdOf r c.cid = some x ∧ x.state = .performed 10 ∧ x.peers = ps) ∧
            (g.poison = none → record.ok = false →
              ∃ r x, exec (.copy c.cid) s = .next r ∧ cmdOf r c.cid = some x ∧ x.state = .performed 8 ∧ x.peers = ps)))))) ∧
  (∀ (x : Shape) (src dst r j : Nat), r < x.rows → j < x.rowbytes →
    (∀ q, r < q → q < x.rows → ¬ (q * x.dstride ≤ r * x.dstride + j ∧ r * x.dstride + j < q * x.dstride + x.rowbytes)) →
    x.source src dst (dst + (r * x.dstride + j)) = some (src + r * x.sstride + j)) ∧
  (∀ (s : State) (c : Cmd) (row off : Nat) (bad : Bool) (base size : Nat) (run : CopyRun), cmdOf s c.cid = some c → c.queue = 0 →
    c.state = .running row off bad → mayCopy s c = true →
    let w := c.sWord 2
    let a := (c.kWord 1).addr + row * bits w 44 20 + off
    let to' := base + run.at'
    let s0 := takeTurn s c
    copyBlock s0 c (shapeOf w) a = (base, size, [run]) → (shapeOf w).earlier (c.kWord 1).addr base size row = false →
    let next := off + (base + size - a)
    let load := checkAccess s0 (c.who s0) (engineAccess .load (c.kWord 0) run.src run.n)
    let stops := fun n => ∃ r, exec (.copy c.cid) s = .next r ∧ cmdOf r c.cid = some { c with state := .performed n } ∧
      r.threads = s.threads ∧ r.teams = s.teams
    (∀ pkg va k, load = (s0, .ok [(.remote pkg va, k)]) → (∀ x ∈ c.replies, x.va ≠ va) →
      (packetsOf s0 c.cid = true → exec (.copy c.cid) s = .next s0) ∧
      (packetsOf s0 c.cid = false → ∃ r p, exec (.copy c.cid) s = .next r ∧ r.fabric.outbox = s.fabric.outbox ++ [p] ∧ p.ptype = .get ∧
        p.target = pkg ∧ p.addr = va ∧ p.length = run.n ∧ p.cap = c.kWord 0 ∧ r.mem = s.mem ∧ r.teams = s.teams ∧ r.threads = s.threads)) ∧
    (spaceOf run.src ≠ 0xD → spaceOf base ≠ 0xD →
      (∀ s1 e, load = (s1, .error e) → s1.teams = s.teams → s1.threads = s.threads → s1.eng = s0.eng → stops (statusOf e)) ∧
      (∀ s1 from', load = (s1, .ok from') → (∀ pkg va k, from' ≠ [(.remote pkg va, k)]) →
        let store := checkAccess s1 (c.who s1) (engineAccess .store (c.kWord 1) to' run.n)
        (∀ s2 e, store = (s2, .error e) → s2.teams = s.teams → s2.threads = s.threads → s2.eng = s0.eng → stops (statusOf e)) ∧
        (∀ s2 s3 tos g, store = (s2, .ok tos) → sourceBytes s2 c from' run.n = (s3, g) → s3.eng = s0.eng → g.bytes.length = run.n →
          g.poison = none →
          let moved := fun (r : State) => exec (.copy c.cid) s = .next r ∧ r.strands = s3.strands ∧ ∃ x, cmdOf r c.cid = some x ∧
            x = { c with replies := [], part := x.part, state := afterPiece w row next bad }
          (∀ t o, tos = [(.act t o, run.n)] →
            let ts := if c.peers = [] then [t] else c.peers
            let o' := if c.peers = [] then o else to' % 2 ^ 60
            (c.peers = [] ∨ spaceOf base = 8) → ts.Nodup →
            ∃ r, moved r ∧ ∀ tid ∈ ts, ∀ tm, teamOf s3 tid = some tm → swf 0 tm.act = true → ∃ u, teamOf r tid = some u ∧
              ∀ i, sget 0 u.act i = if o' ≤ i ∧ i < o' + run.n then (g.bytes[i - o']?).getD 0 else sget 0 tm.act i) ∧
          (∀ pa k, tos = [(.phys pa k, run.n)] → tierAt pa = some 0 → c.peers = [] → s3.mem.redEntries = [] →
            Memory.wf s3.mem.cells = true → pa % 16 = to' % 16 → pa % 16 + run.n ≤ 16 →
            ∃ r, moved r ∧ r.threads = s3.threads ∧ onlyBytes s3 r pa run.n ∧
              (∀ i, i < run.n → some (cellGet r.mem.cells (pa + i)) = g.bytes[i]?) ∧
              (from'.length = 1 → run.n = 16 → run.src % 16 = 0 → (∀ tm, c.team s3 = some tm → tm.staged = []) →
                tagAt r.mem pa = (sourceTag s3 c from' && (c.kWord 0).perms.getLsbD 5 && (c.kWord 1).perms.getLsbD 4)) ∧
              (run.n < 16 → tagAt r.mem pa = false))))))

/-- R226, R305, R315, R353: a stream command's products are held for its record; the storage port moves whole pages to and
from a drive, or says why not; a completed command signals its barrier and puts its record among its strand's; the layout
cache takes a copy of a line.
Log entries 17, 55, 58 and 94 tell what of it is the model's choice or reading. -/
def Obligations.EnginesEndTheirCommands : Prop :=
  (∀ (s : State) (c : Cmd), cmdOf s c.cid = some c → c.queue = 2 → c.state = .queued → takeReady s c = true →
    (c.malformed = true → exec (.stream c.cid) s = .next (commandNow s c (.performed 8))) ∧
    (∀ (s1 s2 s3 : State) (tm : Team) (locs : List (Loc × Nat)) (got : Got) (k : Nat) (rows : List (List Byte)),
      c.malformed = false → c.team s = some tm → streamCheck s c (c.kWord 0) (c.kWord 0).addr 64 64 = (s1, .ok locs) →
      farLocs locs = false → recordRead s1 tm c.sid c.lfence (((launchOf s1 c.launch).map (·.began)).getD 0) locs none = (s2, some got) →
      got.poison = none → c.mark = none →
      let d := c.sWord 1
      let r := parseRecord got.bytes (got.tag && (c.kWord 0).perms.getLsbD 5)
      let v := c.tile.getD zeroTile
      streamShape (bits d 10 3) (bits d 13 3 + 1) r v = some k → streamRows s2 c r r.rows 0 = (s3, some (.ok (rows, false))) →
      s3.eng.cmds = s.eng.cmds →
      let vecs := fun j => (List.range k).map fun i => (streamVec (bits d 10 3)).value
        (natOfBytes (sbytes v.data (128 * j + (streamVec (bits d 10 3)).size * i) (streamVec (bits d 10 3)).size))
      let cells := (List.range rows.length).flatMap fun i => (List.range (bits d 13 3 + 1)).map fun j =>
        let x := dotElem (decide (bits d 10 3 = 4)) (if bits d 16 1 = 1 then (sget 0 c.acc (16 * i + j)).toNat else 0)
          (weightVals (bits d 10 3) k (rows.getD i [])) (vecs j)
        (16 * i + j, x.1, x.2)
      ∃ u, exec (.stream c.cid) s = .next u ∧ u.threads = s3.threads ∧ u.strands = s3.strands ∧ u.mem = s3.mem ∧ cmdOf u c.cid = some { c with
        state := .performed 0, accWrites := cellWrites (bits d 0 4) cells ++ (if cellBits cells = 0 then [] else [.mstat (cellBits cells)]) })) ∧
  (∀ (s : State) (c : Cmd) (status : Nat) (st : Strand), cmdOf s c.cid = some c → c.state = .performed status →
    strandOf s c.sid = some st →
    ((packetsOf s c.cid = true ∨ ∃ x ∈ s.eng.cmds, x.cid < c.cid ∧ x.sid = c.sid ∧ x.queue = c.queue) →
      exec (.complete c.cid) s = .next s) ∧
    (packetsOf s c.cid = false → (∀ x ∈ s.eng.cmds, x.cid < c.cid → x.sid = c.sid → x.queue ≠ c.queue) →
      let record := fun n => (show QRecord from { queue := c.queue + 1, word := c.utag ||| BitVec.ofNat 64 n
                                                  accWrites := if n = 0 then c.accWrites else [], cid := c.cid })
      let done := fun r n => exec (.complete c.cid) s = .next r ∧ r.eng.cmds = s.eng.cmds.filter (fun x => x.cid != c.cid) ∧
        threadsApart r = threadsApart s ∧ ∃ z, strandOf r c.sid = some z ∧ z.records = st.records ++ [record n] ∧
        ∀ p ∈ st.paths, ∀ since, p.state = .waiting (.pop (c.queue + 1)) since → { p with state := .ready, marks := 0 } ∈ z.paths
      (c.queue ≠ 0 ∨ bits (c.sWord 3) 12 1 = 0 ∨ status = 8 ∨ status = 9 → ∃ r, done r status ∧ r.mem = s.mem ∧ r.teams = s.teams) ∧
      (∀ tm, c.queue = 0 → bits (c.sWord 3) 12 1 = 1 → status ≠ 8 → status ≠ 9 → c.peers = [] → spaceOf (c.kWord 1).addr ≠ 0xA →
        teamOf s c.tid = some tm → tm.state ≠ .ended → tm.role ≠ .handler → swf 0 tm.act = true →
        let h := bits (c.sWord 3) 0 12
        (64 ≤ h → (∀ x ∈ tm.handles, x.1 ≠ h) → ∃ r, done r 8 ∧ r.mem = s.mem ∧ r.teams = s.teams) ∧
        (h < 64 → 8 * h + 8 ≤ actBytes tm → ∃ r u, done r status ∧ teamOf r tm.tid = some u ∧ ∀ i, sget 0 u.act i =
          if 8 * h ≤ i ∧ i < 8 * h + 8 then BitVec.ofNat 8 (arrivedWord (handleWord tm h) / 256 ^ (i - 8 * h)) else sget 0 tm.act i)) ∧
      (c.queue = 0 → bits (c.sWord 3) 12 1 = 1 → status ≠ 8 → status ≠ 9 → c.peers ≠ [] → c.peers.Nodup →
        let h := bits (c.sWord 3) 0 12
        h < 64 → (∀ t ∈ c.peers, ∃ tm, teamOf s t = some tm ∧ tm.state ≠ .ended ∧ tm.role ≠ .handler ∧ swf 0 tm.act = true ∧
          8 * h + 8 ≤ actBytes tm) → ∃ r, done r status ∧ ∀ t ∈ c.peers, ∀ tm, teamOf s t = some tm → ∃ u, teamOf r t = some u ∧
          ∀ i, sget 0 u.act i = if 8 * h ≤ i ∧ i < 8 * h + 8 then BitVec.ofNat 8 (arrivedWord (handleWord tm h) / 256 ^ (i - 8 * h))
            else sget 0 tm.act i))) ∧
  (∀ (s : State) (line : Nat), (tierAt (64 * line)).isSome = true → s.mem.redEntries = [] → poisonOf s.mem line = none →
    (tierAt (64 * line) = some 0 ∨ lineVerifies s line (((sget none s.mem.encLines line).map (·.slot)).getD 0) = true) →
    ∃ x, exec (.layoutFill line) s = .next { s with mem := { s.mem with layout := (s.mem.layout.filter fun y => y.loc != x.loc) ++ [x] } } ∧
      (∃ k, x.loc = .phys (64 * line) k) ∧ x.bytes = cellGets s.mem.cells (64 * line) 64 ∧ x.tag = tagAt s.mem (64 * line) ∧
      x.poison = none ∧ x.filled = s.run.nextEv ∧
      ∀ e ∈ s.mem.events, e.kind.writes = true → (e.locs.any fun y => locsMeet y.1 y.2 x.loc 64) = true → (e.sid, e.id) ∈ x.stores) ∧
  (∀ (s : State) (c : Cmd) (m : Bool), cmdOf s c.cid = some c → c.queue = 6 → c.state = .queued → takeReady s c = true →
    let w := c.sWord 2
    let i : Instr := if bits w 0 2 = 2 then .storageWrite c.cid m else .storageRead c.cid m
    let ends := fun n => exec i s = .next (commandNow s c (.performed n))
    let size := 65536 * bits w 8 8
    let kind := if bits w 0 2 = 2 then AccKind.load else .store
    let keeps := c.malformed = false ∧ bits (c.sWord 1) 60 4 = 0 ∧ bits (c.sWord 1) 48 8 = 0 ∧ bits w 8 8 ≠ 0 ∧ bits w 2 6 = 0 ∧
      (bits w 0 2 = 1 ∨ bits w 0 2 = 2)
    (¬ keeps → ends 8) ∧
    (keeps →
      (∀ n, rangeStatus (c.kWord 0) size (if bits w 0 2 = 2 then 0x84 else 0x44) = some n → ends n) ∧
      (rangeCheck s c kind (c.kWord 0) size = none →
        (s.eng.drives.contains (bits (c.sWord 1) 56 8) = false → ends 13) ∧
        (s.eng.drives.contains (bits (c.sWord 1) 56 8) = true →
          let ready := (keySlot s (bits w 16 16)).state = 1 ∧ (keySlot s (bits w 16 16)).use = 0
          (bits w 0 2 = 2 ∧ ¬ ready → ends 7) ∧
          (bits w 0 2 = 1 ∨ ready → exec i s = .next (commandNow s c (.running 0 0 false))))))) ∧
  (∀ (s : State) (c : Cmd) (page : Nat), cmdOf s c.cid = some c → c.queue = 6 → c.state = .running page 0 false →
    let w := c.sWord 2
    let drive := bits (c.sWord 1) 56 8
    let block := bits (c.sWord 1) 0 48 + 16 * page
    let slot := bits w 16 16
    let addr := (c.kWord 0).addr + 65536 * page
    let next := if page + 1 < bits w 8 8 then CmdState.running (page + 1) 0 false else .performed 0
    (bits w 0 2 ≠ 2 →
      exec (.storageRead c.cid true) s = .next (commandNow s c (.performed 12)) ∧
      ((∀ p ∈ s.eng.drivePages, p.drive = drive → p.block = block → p.slot ≠ slot ∨ p.gen ≠ (keySlot s slot).gen ∨ (keySlot s slot).state ≠ 1) →
        exec (.storageRead c.cid false) s = .next (commandNow s c (.performed 11))) ∧
      (∀ p pa k, (s.eng.drivePages.find? fun p => p.drive == drive && p.block == block) = some p → p.slot = slot →
        p.gen = (keySlot s slot).gen → (keySlot s slot).state = 1 → ∀ s1,
        checkAccess s (c.who s) (portAccess .store (c.kWord 0) addr 65536) = (s1, .ok [(.phys pa k, 65536)]) → s1.eng = s.eng →
        s1.mem.redEntries = [] → Memory.wf s1.mem.cells = true → pa % 65536 = 0 → tierAt pa = some 0 →
        ∃ r, exec (.storageRead c.cid false) s = .next r ∧ cmdOf r c.cid = some { c with state := next } ∧ onlyBytes s1 r pa 65536 ∧
          r.threads = s1.threads ∧ (∀ i, i < 65536 → cellGet r.mem.cells (pa + i) = sget 0 p.data i) ∧
          ∀ i, i < 4096 → tagAt r.mem (pa + 16 * i) = p.tags.contains i)) ∧
    (bits w 0 2 = 2 →
      exec (.storageWrite c.cid true) s = .next (commandNow s c (.performed 12)) ∧
      (∀ s1 s2 locs g, swf noKey s.trust.keys = true →
        checkAccess s (c.who s) (portAccess .load (c.kWord 0) addr 65536) = (s1, .ok locs) → sourceBytes s1 c locs 65536 = (s2, g) →
        s2.eng = s.eng → s2.trust = s.trust → g.bytes.length = 65536 → g.poison = none →
        ∃ r p, exec (.storageWrite c.cid false) s = .next r ∧ cmdOf r c.cid = some { c with state := next } ∧ r.mem = s2.mem ∧
          r.threads = s2.threads ∧ (r.eng.drivePages.find? fun p => p.drive == drive && p.block == block) = some p ∧ p.slot = slot ∧
          p.gen = (keySlot s slot).gen ∧ p.counter = (keySlot s slot).writes ∧
          keySlot r slot = { keySlot s slot with writes := (keySlot s slot).writes + 1 } ∧
          p.gcm = gcmTag (keySlot s slot).key (storageNonce drive block (keySlot s slot).writes) (g.bytes ++ tagBytes p.tags) ∧
          (∀ q ∈ r.eng.drivePages, q.drive = drive → q.block = block ∨ q.block + 16 ≤ block ∨ block + 16 ≤ q.block) ∧
          ∀ i, i < 65536 → some (sget 0 p.data i) = g.bytes[i]?)))


/-- R289 to R293, R295, R296, R318, R319, R392, R393: a packet leaves its port once what it follows is done; at its target it
is checked under the import table and applied in one step, and its answer goes back; a reduction that fails there is
filed as an orphan. An answer ends its access, files its lane or gives its command a status. Accesses to a package that
cannot be reached end poisoned, or with their launch, or with status 11.
Log entries 23, 24, 71 and 84 tell what of it is the model's choice or reading. -/
def Obligations.PacketsAreAppliedAtTheirTarget : Prop :=
  (∀ (s : State) (p : Packet), (s.fabric.outbox.find? fun q => q.serial == p.serial) = some p →
    exec (.send p.serial) s = .next { s with fabric := { s.fabric with
      outbox := s.fabric.outbox.eraseP fun q => q.serial == p.serial
      flight := if p.ptype = .response ∧ p.target ≠ s.fabric.pkgNo then s.fabric.flight else s.fabric.flight ++ [p] } }) ∧
  (∀ (s : State) (e : MemEv) (pkg : BitVec 9) (va : BitVec 51) (n : Nat), eventOf s e.id = some e →
    (∀ q ∈ s.fabric.outbox, q.serial ≠ 2 * e.id) → e.locs = [(.remote pkg va, n)] → e.sent = false →
    (earlierPending s e = true → exec (.send (2 * e.id)) s = .next s) ∧
    (earlierPending s e = false → e.sem ≠ .rel ∨ releaseReady s e = true → ∃ r p, exec (.send (2 * e.id)) s = .next r ∧
      r.fabric.flight = s.fabric.flight ++ [p] ∧ p.target = pkg ∧ p.source = s.fabric.pkgNo ∧ p.addr = va ∧ p.cap = e.cap ∧
      p.world = e.world ∧ p.payload = e.data ∧ p.length = n ∧ p.serial = 2 * e.id ∧ p.rank = e.rank ∧ p.pc = e.pc ∧
      p.ptype = (match e.kind with | .load => .load | .store => .store | .atom _ => .atomic | .red _ => .red | .cas => .cas) ∧
      (∀ o, e.kind = .red o ∨ e.kind = .atom o → p.op.setWidth 4 = o) ∧ r.threads = s.threads ∧ r.strands = s.strands ∧
      r.mem.cells = s.mem.cells ∧ r.mem.events = mapIf (fun x => x.id == e.id) (fun x => { x with sent := true }) s.mem.events)) ∧
  (∀ (s : State) (p : Packet), p.target = s.fabric.pkgNo → p.source ≠ s.fabric.pkgNo →
    p.ptype ∈ [.load, .store, .atomic, .cas, .red, .put, .get] →
    let arrives := fun size => targetCheck s p (packetKind p) size
    (∀ s1 e, p.ptype ≠ .red → arrives p.length = (s1, .error e) →
      exec (.deliver p) s = .next (atPort s1 (answerTo s p e.toNat [] [] none))) ∧
    (∀ s1 s2 locs g, p.ptype = .load → arrives p.length = (s1, .ok locs) → readLocs s1 none locs = (s2, some g) →
      exec (.deliver p) s = .next (atPort s2 (answerTo s p 0 g.bytes [g.tag] g.poison))) ∧
    (∀ s1 s2 locs g, p.ptype = .get → arrives p.length = (s1, .ok locs) → readLocs s1 none locs = (s2, some g) →
      ∃ tags, exec (.deliver p) s = .next (atPort s2 (answerTo s p 0 g.bytes tags g.poison)) ∧
        ∀ pa k, locs = [(.phys pa k, p.length)] → p.addr.toNat % 16 = 0 → pa % 16 = 0 → p.length % 16 = 0 → p.cap.perms.getLsbD 5 = true →
          tags = (List.range (p.length / 16)).map fun i => tagAt s2.mem (pa + 16 * i)) ∧
    (∀ s1 pa k n, p.ptype = .store ∨ (p.ptype = .put ∧ p.op.getLsbD 15 = false) → arrives p.length = (s1, .ok [(.phys pa k, n)]) →
      plainWord s1 pa 1 → p.payload.length = n → 0 < n → ∃ r, exec (.deliver p) s = .next r ∧
      r.fabric.outbox = s1.fabric.outbox ++ [answerTo s p 0 [] [] none] ∧ r.threads = s1.threads ∧ r.strands = s1.strands ∧
      onlyBytes s1 r pa n ∧ (∀ i, i < n → some (cellGet r.mem.cells (pa + i)) = p.payload[i]?) ∧
      (n = 16 → pa % 16 = 0 → p.addr.toNat % 16 = 0 → tagAt r.mem pa = (p.tags.headD false && p.cap.perms.getLsbD 4)) ∧
      (p.serial % 2 = 1 → p.op.getLsbD 14 = true → (poisonOf r.mem (pa / 64)).isSome = true)) ∧
    (∀ s1 pa k, p.ptype = .atomic → arrives p.length = (s1, .ok [(.phys pa k, 4)]) → plainWord s1 pa 4 → p.payload.length = 4 →
      (p.op.setWidth 4).toNat < 12 → let old := cellGets s1.mem.cells pa 4
      ∃ r, exec (.deliver p) s = .next r ∧ r.fabric.outbox = s1.fabric.outbox ++ [answerTo s p 0 old [] (poisonOf s1.mem (pa / 64))] ∧
        onlyBytes s1 r pa 4 ∧ word (natOfBytes (cellGets r.mem.cells pa 4)) =
          atomicResult (p.op.setWidth 4) (word (natOfBytes old)) (word (natOfBytes p.payload))) ∧
    (∀ s1 pa k n, p.ptype = .cas → n = 4 ∨ n = 8 → arrives p.length = (s1, .ok [(.phys pa k, n)]) → plainWord s1 pa n →
      p.payload.length = 2 * n → let old := cellGets s1.mem.cells pa n
      ∃ r, exec (.deliver p) s = .next r ∧ r.fabric.outbox = s1.fabric.outbox ++ [answerTo s p 0 old [] (poisonOf s1.mem (pa / 64))] ∧
        onlyBytes s1 r pa n ∧ cellGets r.mem.cells pa n = if old = p.payload.take n then p.payload.drop n else old) ∧
    (∀ s1 pa k, p.ptype = .red → arrives 4 = (s1, .ok [(.phys pa k, 4)]) → plainWord s1 pa 4 → p.payload.length = 4 →
      (p.op.setWidth 4).toNat < 12 → ∃ r, exec (.deliver p) s = .next r ∧
        r.fabric.outbox = s1.fabric.outbox ++ [answerTo s p 0 [] [] none] ∧ r.mem.cells = s1.mem.cells ∧
        onlyBytes s1 (drainReds r (pa / 64)) pa 4 ∧ word (natOfBytes (cellGets (drainReds r (pa / 64)).mem.cells pa 4)) =
          atomicResult (p.op.setWidth 4) (word (natOfBytes (cellGets s1.mem.cells pa 4))) (word (natOfBytes p.payload))) ∧
    (∀ s1 e, p.ptype = .red → arrives 4 = (s1, .error e) →
      ((causeEntry s1 0 0x40).valid = false → ∃ q, exec (.deliver p) s = .next (atPort s1 q) ∧ q.ptype = .response ∧
        q.target = p.source ∧ q.serial = p.serial ∧ q.status = 0x85) ∧
      ((causeEntry s1 0 0x40).valid = true → shareHasRoom s1 0 0x40 → ∃ r x, exec (.deliver p) s = .next r ∧ r.fabric = s1.fabric ∧
        r.traps.pillow = s1.traps.pillow ++ [x] ∧ x.cause = 0x40 ∧ x.pc = p.pc ∧ x.word = p.word ∧ x.addr = p.addr.setWidth 64 ∧
        x.detail = e.setWidth 32 ||| (p.source.setWidth 32 <<< 8) ∧ x.launch = p.launch ∧ x.x = p.x ∧ x.y = p.y ∧ x.z = p.z ∧
        x.world = p.world ∧ x.asid = x.faultAsid) ∧
      ((causeEntry s1 0 0x40).valid = true → ¬ shareHasRoom s1 0 0x40 → ∃ o, exec (.deliver p) s = .next { s1 with
        traps := { s1.traps with heldOrphans := s1.traps.heldOrphans ++ [o] } } ∧ o.cause = e ∧ o.addr = p.addr ∧ o.serial = p.serial))) ∧
  (∀ (s : State) (p : Packet) (e : MemEv), answersOne s p → p.serial = 2 * e.id → eventOf s e.id = some e →
    let s0 := requestGone s p
    let gone := { s0 with mem := { s0.mem with events := s0.mem.events.filter fun x => x.id != e.id } }
    let poison := if p.op.getLsbD 14 = true then some (p.op.setWidth 12) else none
    (p.status = 0 → (e.kind = .store ∧ e.probe = false ∨ ∃ o, e.kind = .red o) → exec (.deliver p) s = .next gone) ∧
    (p.status = 0 → e.probe = false → (e.kind = .load ∨ e.kind = .cas ∨ ∃ o, e.kind = .atom o) → ∃ r, exec (.deliver p) s = .next r ∧
      loadTook s0 r e { bytes := p.payload, seqs := [], tag := p.tags.headD false, poison := poison }) ∧
    (p.status = 0 → e.probe = true → (∀ o, e.kind ≠ .red o) → ∃ r, exec (.deliver p) s = .next r ∧ r.mem = gone.mem ∧ r.teams = s.teams ∧
      registersOf r = registersOf s ∧ (e.kind = .store → probeTook s r e none [] false none) ∧
      (e.kind ≠ .store → probeTook s r e none p.payload (p.tags.headD false) poison)) ∧
    (p.status ≠ 0 → (∀ o, e.kind ≠ .red o) →
      (e.probe = false → exec (.deliver p) s = .next gone) ∧
      (e.probe = true → ∃ r, exec (.deliver p) s = .next r ∧ r.mem = gone.mem ∧ r.threads = s.threads ∧ r.teams = s.teams ∧
        probeTook s r e (some (BitVec.ofNat 7 p.status)) [] false none)) ∧
    (p.status ≠ 0 → (∃ o, e.kind = .red o) → ∀ l, launchOf s e.launch = some l → l.state = .live → ∃ r m, exec (.deliver p) s = .next r ∧
      launchOf r e.launch = some m ∧ m.state = .ending p.status ∧ m.failPc = e.pc ∧ r.mem.cells = s.mem.cells)) ∧
  (∀ (s : State) (p : Packet) (c : Cmd), answersOne s p → packetCid p = some c.cid → cmdOf s c.cid = some c →
    (∀ k o b, p.status ≠ 0 → c.state = .running k o b → ∃ r, exec (.deliver p) s = .next r ∧ r.threads = s.threads ∧ r.mem = s.mem ∧
      r.teams = s.teams ∧ cmdOf r c.cid = some { c with state := .performed (statusOf (BitVec.ofNat 7 p.status)) }) ∧
    (p.status = 0 → p.payload = [] → exec (.deliver p) s = .next (requestGone s p)) ∧
    (p.status = 0 → p.payload ≠ [] → c.queue ≠ 4 → ∃ r, exec (.deliver p) s = .next r ∧ r.threads = s.threads ∧ r.mem = s.mem ∧
      r.teams = s.teams ∧ cmdOf r c.cid = some { c with
        replies := c.replies ++ [⟨p.addr, p.payload, p.tags, if p.op.getLsbD 14 = true then some (p.op.setWidth 12) else none⟩] }) ∧
    (∀ s1 pa k, p.status = 0 → p.payload ≠ [] → p.op = 0 → c.queue = 4 → c.peers = [] →
      let off := (p.addr - BitVec.ofNat 51 (c.kWord 1).addr).toNat
      let dst := (c.kWord 0).addr + off
      checkAccess (requestGone s p) (c.who (requestGone s p)) (portAccess .store (c.kWord 0) dst p.payload.length) =
        (s1, .ok [(.phys pa k, p.payload.length)]) → plainWord s1 pa 1 →
      ∃ r, exec (.deliver p) s = .next r ∧ r.threads = s1.threads ∧ r.strands = s1.strands ∧ onlyBytes s1 r pa p.payload.length ∧
        (∀ i, i < p.payload.length → some (cellGet r.mem.cells (pa + i)) = p.payload[i]?) ∧
        (p.payload.length = 16 → pa % 16 = 0 → dst % 16 = 0 → p.addr.toNat % 16 = 0 →
          tagAt r.mem pa = (p.tags.headD false && (c.kWord 0).perms.getLsbD 4)))) ∧
  (∀ (s : State) (pkg : BitVec 9), (∀ e ∈ s.mem.events, ∀ x ∈ e.locs, ∀ a, x.1 ≠ .remote pkg a) →
    (∀ p ∈ s.fabric.outbox ++ s.fabric.flight, p.target = pkg → p.ptype ≠ .response → ∃ c, (packetCid p).bind (cmdOf s) = some c ∧ c.queue = 4) →
    ∃ r, exec (.targetUnreachable pkg) s = .next r ∧ r.threads = s.threads ∧ r.strands = s.strands ∧ r.mem = s.mem ∧
      r.fabric.outbox = s.fabric.outbox.filter (fun p => !(p.target == pkg && p.ptype != .response)) ∧
      r.fabric.flight = s.fabric.flight.filter (fun p => !(p.target == pkg && p.ptype != .response)) ∧
      ∀ c, cmdOf s c.cid = some c → (c.state.pending = true ∨ c.state = .performed 0) →
        cmdOf r c.cid = some (if ∃ p ∈ s.fabric.outbox ++ s.fabric.flight, p.target = pkg ∧ p.ptype ≠ .response ∧ packetCid p = some c.cid
          then { c with state := .performed 11 } else c)) ∧
  (∀ (s : State) (e : MemEv) (pkg : BitVec 9) (a : BitVec 51) (n : Nat), s.mem.events = [e] → e.locs = [(.remote pkg a, n)] →
    (∀ p ∈ s.fabric.outbox ++ s.fabric.flight, packetCid p = none) →
    (e.kind = .load ∨ e.kind = .cas ∨ (∃ o, e.kind = .atom o) → ∃ r, exec (.targetUnreachable pkg) s = .next r ∧
      ∃ prov : BitVec 12, prov.toNat / 256 = 7 ∧ (e.probe = false → ∃ g, loadTook s r e g ∧ g.poison = some prov) ∧
        (e.probe = true → r.mem.events = [] ∧ r.mem.cells = s.mem.cells ∧ registersOf r = registersOf s ∧
          probeTook s r e none e.data false (some prov))) ∧
    (e.kind = .store ∨ (∃ o, e.kind = .red o) → ∀ tm l, teamOf s e.tid = some tm → tm.role.compensates = false →
      launchOf s tm.launch = some l → l.state = .live → ∃ r m, exec (.targetUnreachable pkg) s = .next r ∧
        launchOf r tm.launch = some m ∧ m.state = .ending 0x80 ∧ m.failPc = e.pc ∧ m.provenance.toNat / 256 = 7 ∧ r.mem.events = []))

/-- R389, R391, R396 to R402: collectives of an admitted member fold the members' bytes in index order, copy the root's, or
pass together; a roster record starts an epoch, quotes admit its members, and a lost member ends what is not complete. A
lease is accepted for a term that is not lower and has no other leader; the lowest identity without a live lease claims
the next term and gives numbers; boot images are measured once. More than 8 replays within 1 ms retire a link.
Log entries 56, 73 and 74 tell what of it is the model's choice or reading. -/
def Obligations.MembersCombineAndFollowTheirLeader : Prop :=
  (∀ s : State, (∀ cid others, ∃ t, exec (.allreduce cid others) s = .next t) ∧ (∀ cid root, ∃ t, exec (.broadcast cid root) s = .next t) ∧
    (∀ cid, ∃ t, exec (.netBarrier cid) s = .next t) ∧ (∀ slot x, ∃ t, exec (.rosterWrite slot x) s = .next t) ∧
    (∀ slot m d ok, ∃ t, exec (.admission slot m d ok) s = .next t) ∧ (∀ slot m, ∃ t, exec (.memberLost slot m) s = .next t) ∧
    (∀ link, ∃ t, exec (.flitReplay link) s = .next t) ∧ (∀ l, ∃ t, exec (.leaseReceive l) s = .next t) ∧
    (∃ t, exec .leaseLost s = .next t) ∧ (∃ t, exec .leaseRenew s = .next t) ∧ (∀ ids, ∃ t, exec (.leaderClaim ids) s = .next t) ∧
    (∀ k p ok, ∃ t, exec (.imageReceive k p ok) s = .next t)) ∧
  (∀ (s : State) (c : Cmd) (r : Roster) (own : Nat) (others : List (Nat × List Byte)) (from' : List (Loc × Nat)) (g : Got) (pa k : Nat),
    let n := bits (c.sWord 2) 0 24
    let need := otherIndices r own
    collecting s c r own 4 →
    ((∃ i ∈ need, ∀ x ∈ others, x.1 ≠ i) → exec (.allreduce c.cid others) s = .next s) ∧
    ((∀ i ∈ need, ∃ x ∈ others, x.1 = i) → (∀ x ∈ others, x.2.length ≠ n) → need ≠ [] →
      exec (.allreduce c.cid others) s = .next (commandNow s c (.performed 8))) ∧
    ((∀ i ∈ need, ∃ x ∈ others, x.1 = i) → (others.map (·.1)).Nodup → (∀ x ∈ others, x.2.length = n) → n % 4 = 0 → own < r.members.length →
      bits (c.sWord 2) 36 4 < 12 → ∀ s1 s2 s3,
      checkAccess s (c.who s) (portAccess .load (c.kWord 0) (c.kWord 0).addr n) = (s1, .ok from') →
      sourceBytes s1 c from' n = (s2, g) → g.poison = none → g.bytes.length = n → c.peers = [] →
      checkAccess s2 (c.who s2) (portAccess .store (c.kWord 1) (c.kWord 1).addr n) = (s3, .ok [(.phys pa k, n)]) → plainWord s3 pa 1 →
      s3.eng = s.eng → ∃ u, exec (.allreduce c.cid others) s = .next u ∧ ended u c ∧ u.threads = s3.threads ∧ onlyBytes s3 u pa n ∧
        ∀ j, j < n / 4 → word (natOfBytes (cellGets u.mem.cells (pa + 4 * j) 4)) = foldedWord (bits (c.sWord 2) 36 4) j
            ((List.range r.members.length).filterMap fun i => if i = own then some g.bytes else
              if i ∈ need then (others.find? fun x => x.1 == i).map (·.2) else none))) ∧
  (∀ (s : State) (c : Cmd) (r : Roster) (own : Nat) (root : List Byte) (pa k : Nat), let n := bits (c.sWord 2) 0 24
    collecting s c r own 5 → bits (c.sWord 3) 32 9 ≠ own →
    (root.length ≠ n → exec (.broadcast c.cid root) s = .next (commandNow s c (.performed 8))) ∧
    (root.length = n → ∀ s1,
      checkAccess s (c.who s) (portAccess .store (c.kWord 1) (c.kWord 1).addr n) = (s1, .ok [(.phys pa k, n)]) →
      c.peers = [] → plainWord s1 pa 1 → s1.eng = s.eng → ∃ u, exec (.broadcast c.cid root) s = .next u ∧ ended u c ∧
        u.threads = s1.threads ∧ onlyBytes s1 u pa n ∧ ∀ i, i < n → some (cellGet u.mem.cells (pa + i)) = root[i]?)) ∧
  (∀ (s s1 s2 : State) (c : Cmd) (r : Roster) (own : Nat) (root : List Byte) (from' : List (Loc × Nat)) (g : Got) (pa k : Nat),
    let n := bits (c.sWord 2) 0 24
    collecting s c r own 5 → bits (c.sWord 3) 32 9 = own →
    checkAccess s (c.who s) (portAccess .load (c.kWord 0) (c.kWord 0).addr n) = (s1, .ok from') → sourceBytes s1 c from' n = (s2, g) →
    (g.poison.isSome = true → exec (.broadcast c.cid root) s = .next (commandNow s2 c (.performed 10))) ∧
    (g.poison = none → g.bytes.length = n → c.peers = [] → ∀ s3,
      checkAccess s2 (c.who s2) (portAccess .store (c.kWord 1) (c.kWord 1).addr n) = (s3, .ok [(.phys pa k, n)]) → plainWord s3 pa 1 →
      s3.eng = s.eng → ∃ u, exec (.broadcast c.cid root) s = .next u ∧ ended u c ∧ u.threads = s3.threads ∧ onlyBytes s3 u pa n ∧
        ∀ i, i < n → some (cellGet u.mem.cells (pa + i)) = g.bytes[i]?)) ∧
  (∀ (s : State) (c : Cmd) (r : Roster) (own : Nat), collecting s c r own 6 →
    exec (.netBarrier c.cid) s = .next (commandNow s c (.performed 0))) ∧
  (∀ (s : State) (slot : Nat) (x : RosterRec), slot < 256 → ∃ r y, exec (.rosterWrite slot x) s = .next r ∧ rosterOf r slot = some y ∧
    y = { slot := slot, group := x.group, epoch := ((rosterOf s slot).map (·.epoch)).getD 0 + 1, world := x.world, state := 1
          members := x.members.map (fun m => (m, false)), digest := x.digest, list := x.list, issued := 0
          asked := List.range x.members.length } ∧
    (∀ i, i ≠ slot → rosterOf r i = rosterOf s i) ∧ r.threads = s.threads ∧ r.mem = s.mem ∧
    ∀ c, cmdOf s c.cid = some c → c.queue = 4 → c.state.pending = true → c.malformed = false → bits (c.sWord 3) 16 8 = slot →
      bits (c.sWord 3) 0 4 ∈ [4, 5, 6] → cmdOf r c.cid = some { c with state := .performed 12 }) ∧
  (∀ (s : State) (slot m : Nat) (d : BitVec 256) (ok : Bool) (y : Roster), rosterOf s slot = some y → m ∈ y.asked →
    let good := ok && d == y.digest
    let asked := y.asked.filter fun i => i != m
    ∃ r z, exec (.admission slot m d ok) s = .next r ∧ rosterOf r slot = some z ∧ r.threads = s.threads ∧ r.mem = s.mem ∧ z.asked = asked ∧
      (∀ i, i ≠ m → z.members[i]? = y.members[i]?) ∧
      z.members[m]? = (y.members[m]?).map (fun x => (x.1, x.2 || good)) ∧
      z.epoch = y.epoch + (if y.state = 3 ∧ good = true then 1 else 0) ∧
      z.state = if asked = [] ∧ (y.state ≠ 3 ∨ good = true) then 2 else y.state) ∧
  (∀ (s : State) (slot m : Nat) (y : Roster), rosterOf s slot = some y → m < y.members.length → ∃ r z, exec (.memberLost slot m) s = .next r ∧
    rosterOf r slot = some z ∧ z.state = 3 ∧ z.epoch = y.epoch + 1 ∧ z.issued = 0 ∧ m ∈ z.asked ∧
    z.members[m]? = (y.members[m]?).map (fun x => (x.1, false)) ∧ (∀ i, i ≠ m → z.members[i]? = y.members[i]?) ∧ r.threads = s.threads ∧
    ∀ c own kind, kind ∈ [4, 5, 6] → c.malformed = false → collecting s c y own kind → bits (c.sWord 3) 16 8 = slot →
      cmdOf r c.cid = some { c with state := .performed 12 }) ∧
  (∀ (s : State) (link : Nat) (l : DamkaiLink), link < 16 → (s.fabric.links.find? fun x => x.number == link) = some l → ∃ r m,
    exec (.flitReplay link) s = .next r ∧ (r.fabric.links.find? fun x => x.number == link) = some m ∧
    m = (let n := if s.run.clock.toNat < l.window + 2500000 then l.replays + 1 else 1
         { l with replays := n, window := if s.run.clock.toNat < l.window + 2500000 then l.window else s.run.clock.toNat
                  retired := l.retired || decide (8 < n) }) ∧
    r = { s with fabric := { s.fabric with links := r.fabric.links } }) ∧
  (∀ (s : State) (l : Lease), s.fabric.leading = false →
    exec (.leaseReceive l) s = .next (
      if l.term < s.fabric.leaseTerm ∨ (l.term = s.fabric.leaseTerm ∧ s.fabric.leaseLeader ≠ none ∧ s.fabric.leaseLeader ≠ some l.leader) then s
      else { s with fabric := { s.fabric with leaseTerm := l.term, leaseLeader := some l.leader, leaseAt := s.run.clock.toNat
                                              pkgNo := l.recipient.setWidth 9 } })) ∧
  (∀ (s : State) (l : Lease), s.fabric.leading = true → l.leader ≠ s.trust.devid → ∃ r, exec (.leaseReceive l) s = .next r ∧
    r.fabric.leaseTerm = max s.fabric.leaseTerm l.term + 1 ∧ r.fabric.leading = decide (s.trust.devid.toNat < l.leader.toNat) ∧
    r.threads = s.threads ∧ r.mem = s.mem) ∧
  (∀ s : State, let live := s.run.clock.toNat < s.fabric.leaseAt + 5000000000
    exec .leaseLost s = .next (if s.fabric.leaseLeader = none ∨ live then s
      else { s with fabric := { s.fabric with leaseLeader := none, leading := false } }) ∧
    (∃ r, exec .leaseRenew s = .next r ∧ r.fabric.leaseTerm = s.fabric.leaseTerm ∧ r.fabric.leaseLeader = s.fabric.leaseLeader ∧
      r.fabric.leaseAt = (if s.fabric.leading = true then s.run.clock.toNat else s.fabric.leaseAt) ∧
      (s.fabric.leading = true → ∀ m ∈ s.fabric.members, m.1 ≠ s.fabric.pkgNo → ∃ p ∈ r.fabric.outbox, p.ptype = .lease ∧ p.target = m.1 ∧
        p.payload = bytesOfNat 8 s.fabric.leaseTerm ++ bytesOfNat 16 s.trust.devid.toNat ++ bytesOfNat 4 2000 ++ bytesOfNat 2 m.1.toNat ++ bytesOfNat 18 0)) ∧
    (∀ reached : List (BitVec 128),
      ((s.fabric.leaseLeader ≠ none ∧ live) ∨ (∃ x ∈ reached, x.toNat < s.trust.devid.toNat) → exec (.leaderClaim reached) s = .next s) ∧
      ((s.fabric.leaseLeader = none ∨ ¬ live) → (∀ x ∈ reached, s.trust.devid.toNat ≤ x.toNat) → ∃ r, exec (.leaderClaim reached) s = .next r ∧
        r.fabric.leaseTerm = s.fabric.leaseTerm + 1 ∧ r.fabric.leaseLeader = some s.trust.devid ∧ r.fabric.leading = true ∧
        numbersKept s.fabric.members r.fabric.members ∧ r.threads = s.threads ∧ r.mem = s.mem)) ∧
    (∀ (k p : BitVec 256) (ok : Bool),
      (¬ (s.fabric.leaseLeader ≠ none ∧ live) ∨ s.fabric.bootImage = some (k, p) ∨ (ok = false ∧ sget 0 s.trust.meas 0 ≠ 0) →
        exec (.imageReceive k p ok) s = .next s) ∧
      (s.fabric.leaseLeader ≠ none → live → s.fabric.bootImage ≠ some (k, p) → sget 0 s.trust.meas 0 = 0 → swf 0 s.trust.meas = true →
        ∃ r, exec (.imageReceive k p ok) s = .next r ∧ sget 0 r.trust.meas 0 = extended 0 Config.firmwareDigest ∧
        sget 0 r.trust.meas 3 = extended (sget 0 s.trust.meas 3) (sha256 (bytesOfNat 4 s.trust.lifecycle.toNat))) ∧
      (s.fabric.leaseLeader ≠ none → live → s.fabric.bootImage ≠ some (k, p) → ok = true → sget 0 s.trust.meas 0 ≠ 0 →
        swf 0 s.trust.meas = true →
        ∃ r, exec (.imageReceive k p ok) s = .next r ∧ r.fabric = { s.fabric with bootImage := some (k, p) } ∧
        sget 0 r.trust.meas 1 = extended (sget 0 s.trust.meas 1) k ∧ sget 0 r.trust.meas 2 = extended (sget 0 s.trust.meas 2) p ∧
        ∀ i, i ≠ 1 → i ≠ 2 → sget 0 r.trust.meas i = sget 0 s.trust.meas i)))


/-! ### Events: teams, launches and rings (R187, R254, R259, R280 to R282, R317, R336 to R352, R359, R368) -/

/-- R187, R200, R205, R259, R263, R281, R282, R317, R342, R345 to R352, R359, R368: the seed creates the field's teams in
their order; a bind record places, stops, resumes or releases a team over a link of 16 permits; a stop request stops the
teams that go together, at once or after 30,000 cycles; a saved team keeps its registers; a completed team leaves and its
event is published; compensation teams and audits follow their records; a wait past the threshold is reported. The
bytes of a stopped team go to its save area, and a compensation frame's to its pool.
Log entries 23, 25, 30, 32, 78, 79 and 81 tell what of it is the model's choice or reading. -/
def Obligations.TeamsArePlacedStoppedAndCompleted : Prop :=
  (∀ (s : State) (l : Launch) (i : Nat) (k : KindSlot), launchOf s l.num = some l → l.seed = some i → i < l.fx * l.fy * l.fz →
    (l.slots.find? fun x => x.kind == (fieldKey l i).kind) = some k → ∃ r m, exec (.seedPlace l.num) s = .next r ∧
      launchOf r l.num = some m ∧ (m.seed = some (i + 1) ∨ (m.seed = none ∧ i + 1 = l.fx * l.fy * l.fz)) ∧ r.threads = s.threads ∧
      r.strands = s.strands ∧ r.mem = s.mem ∧
      (fieldKey l i ∈ l.created → r.teams = s.teams ∧ m.created = l.created) ∧
      (fieldKey l i ∉ l.created → m.created = l.created ++ [fieldKey l i] ∧ ∃ tm, r.teams = s.teams ++ [tm] ∧
        createdFor s l k (fieldKey l i) tm)) ∧
  (∀ (s : State) (tm : Team) (l : Launch), teamOf s tm.tid = some tm → tm.role = .field → launchOf s tm.launch = some l →
    (teamOpen s tm → exec (.teamCompletion tm.tid) s = .next s) ∧
    (¬ teamOpen s tm → ∃ r m, exec (.teamCompletion tm.tid) s = .next r ∧ teamOf r tm.tid = none ∧
      (∀ t ∈ r.threads, t.tid ≠ tm.tid) ∧ launchOf r tm.launch = some m ∧
      (tm.failed = true → m.events = l.events ∧ r.strands = s.strands) ∧
      (tm.failed = false → (tm.key, false) ∉ l.events → m.events = l.events ++ [(tm.key, false)] ∧ r.strands = s.strands.map
        (eventHeard { s with teams := s.teams.filter fun x => x.tid != tm.tid } tm.launch tm.key false)) ∧
      (tm.staged = [] ∨ tm.failed = true → s.mem.redEntries = [] → tm.desc.tls = 0 → noArea s tm → r.mem.cells = s.mem.cells))) ∧
  (∀ (s : State) (x : AuditItem) (sig : DWord) (core : Nat), (s.front.audits.find? fun a => a.index == x.index) = some x →
    let rest := s.front.audits.filter fun a => a.index != x.index
    (replayCore s x core = false → exec (.auditReplay x.index sig core) s = .next s) ∧
    (replayCore s x core = true → exec (.auditReplay x.index sig core) s = .next { s with
      front := { s.front with audits := rest }
      traps := { s.traps with machineChecks := s.traps.machineChecks ++ (if sig = x.signature then [] else [[x.core, core, x.launch]]) } }) ∧
    exec (.auditReplayDrop x.index) s = .next (if s.run.clock.toNat < x.stamp + 2500000000 then s else
      { s with front := { s.front with audits := rest, auditDropped := s.front.auditDropped + 1 } })) ∧
  (∀ (s : State) (l : Launch), launchOf s l.num = some l →
    (l.state ≠ .live → exec (.hangReport l.num) s = .next s) ∧
    (l.state = .live → hangEntry s l.num = none → l.hung = false → shareHasRoom s 0 0x48 →
      ∀ (st : Strand) (tm : Team) (p : Path) (loc : BarrierLoc) (h : BitVec 12) (target meet : Bool) (since : Nat),
      st ∈ s.strands → teamOf s st.tid = some tm → tm.launch = l.num → tm.role ≠ .handler → tm.state = .running → p ∈ st.paths →
      p.state = .waiting (.barrier loc h target meet) since → since + s.front.hangThreshold < s.run.clock.toNat →
      ((causeEntry s 0 0x48).valid = true → ∃ r e ws, exec (.hangReport l.num) s = .next r ∧ r.traps.pillow = s.traps.pillow ++ [e] ∧
        e.cause = 0x48 ∧ e.launch = l.num ∧ e.asid = l.asid ∧ e.world = l.world ∧ e.subject = .hang l.num ws ∧
        word (h.toNat * 65536 + (tm.key.x.toNat + l.fx * (tm.key.y.toNat + l.fy * tm.key.z.toNat)) % 4096 * 16 + st.num % 16) ∈ ws.map (·.word) ∧
        r.threads = s.threads ∧ r.strands = s.strands ∧ r.mem = s.mem) ∧
      ((causeEntry s 0 0x48).valid = false → ∃ r m, exec (.hangReport l.num) s = .next r ∧ launchOf r l.num = some m ∧
        m.state = .ending 0x48 ∧ r.mem.cells = s.mem.cells))) ∧
  (∀ (s : State) (tm : Team), teamOf s tm.tid = some tm → (s.teams.map (·.tid)).Nodup →
    (tm.state ≠ .running ∨ tm.role = .handler → exec (.preemptRequest tm.tid) s = .next s) ∧
    (tm.state = .running → tm.role ≠ .handler → ∃ r k, exec (.preemptRequest tm.tid) s = .next r ∧ r.threads = s.threads ∧ r.mem = s.mem ∧
      r.teams.map (·.tid) = s.teams.map (·.tid) ∧
      ((∀ x ∈ s.teams, stopsWith s tm x → openSet s x = none) → k = s.run.nextOrder) ∧
      (∀ n, (∃ x ∈ s.teams, stopsWith s tm x ∧ openSet s x = some n) →
        (∀ x ∈ s.teams, stopsWith s tm x → openSet s x = none ∨ openSet s x = some n) → k = n) ∧
      (∀ x ∈ s.teams, (stopsWith s tm x → { x with state := .stopping, peerSet := some k, bound := none } ∈ r.teams) ∧
        (¬ stopsWith s tm x → (x.state ≠ .saved ∨ x.peerSet ≠ some k ∨ x.bound = none) → x ∈ r.teams)) ∧
      r.strands.map (·.sid) = s.strands.map (·.sid) ∧
      ∀ st ∈ s.strands, ∀ x ∈ s.teams, x.tid = st.tid →
        (¬ stopsWith s tm x ∨ st.stop ≠ .running → st ∈ r.strands) ∧
        (stopsWith s tm x → st.stop = .running → st.commit = none → st.stepping = none → waitsWhole st → { st with stop := .stopped } ∈ r.strands) ∧
        (stopsWith s tm x → st.stop = .running → (st.commit ≠ none ∨ st.stepping ≠ none ∨ ¬ waitsWhole st) →
          { st with stop := .requested s.run.clock.toNat } ∈ r.strands))) ∧
  (∀ (s : State) (st : Strand) (since : Nat), strandOf s st.sid = some st → st.stop = .requested since →
    let due := st.commit = none ∧ st.stepping = none ∧ (waitsWhole st ∨ since + 30000 ≤ s.run.clock.toNat)
    (¬ due → exec (.preemptTimeout st.sid) s = .next s) ∧
    (due → st.rb = [] → exec (.preemptTimeout st.sid) s = .next { s with
      strands := s.strands.map fun x => if (x.sid == st.sid) = true then { x with stop := .stopped } else x }) ∧
    (due → st.rb ≠ [] → exec (.preemptTimeout st.sid) s = .next { s with
      strands := s.strands.map fun x => if (x.sid == st.sid) = true then { x with commit := some (.implicit false) } else x })) ∧
  (∀ (s : State) (tm : Team), teamOf s tm.tid = some tm →
    let inSet := fun (tid : Nat) => ∃ x ∈ s.teams, x.tid = tid ∧ (x.tid = tm.tid ∨ (tm.peerSet ≠ none ∧ x.peerSet = tm.peerSet))
    let ready := tm.state = .stopping ∧ tm.rolling = none ∧ (∀ st ∈ s.strands, inSet st.tid → st.stop = .stopped) ∧
      (∀ c ∈ s.eng.cmds, (c.queue = 0 ∧ inSet c.tid) ∨ (c.queue = 2 ∧ c.tid = tm.tid) → cmdPending s c = false) ∧
      checkpointReady s tm.tid = true
    (¬ ready → exec (.teamSave tm.tid) s = .next s) ∧
    (∀ pa, ready → noArea s tm ∨ areaAt s tm pa → ∃ r u sh, exec (.teamSave tm.tid) s = .next r ∧ teamOf r tm.tid = some u ∧
      u.state = .saved ∧ u.shadow = some sh ∧ u.exposed = false ∧ u.undo = [] ∧ u.staged = [] ∧ u.act = tm.act ∧ u.wgt = tm.wgt ∧
      u.tiles = tm.tiles ∧ u.accs = tm.accs ∧ u.place = tm.place ∧ threadsApart r = threadsApart s ∧
      sh.threads = r.threads.filter (fun t => t.tid == tm.tid) ∧
      (noArea s tm → tm.staged = [] → r.mem = s.mem ∧ r.threads = s.threads) ∧
      (areaAt s tm pa → ∀ i, i < (areaBytes r u).length → some (cellGet r.mem.cells (pa + i)) = (areaBytes r u)[i]?))) ∧
  (∀ (s : State) (r : BindRecord),
    (1 ≤ r.op → r.op ≤ 4 → ¬ linkOpen s r → ∃ t, bindWritten s r t ∧ sameTeams s t ∧
      linkDir t r.die r.cluster false = { linkDir s r.die r.cluster false with held := (linkDir s r.die r.cluster false).held ++ [.record r] }) ∧
    (1 ≤ r.op → r.op ≤ 4 → linkOpen s r → ∃ t, bindWritten s r t ∧ linkDir t r.die r.cluster false =
        { linkDir s r.die r.cluster false with permits := (linkDir s r.die r.cluster false).permits - 1
                                               flight := (linkDir s r.die r.cluster false).flight + 1 } ∧
      (carried s r = none → sameTeams s t ∧ let up := linkDir s r.die r.cluster true
        (up.permits ≠ 0 → t.front.reports = s.front.reports ++ [.refused r]) ∧
        (up.permits = 0 → t.front.reports = s.front.reports ∧
          linkDir t r.die r.cluster true = { up with held := up.held ++ [.ack r false] })) ∧
      (∀ tm core, r.op = 1 → namesTeam s r tm .created → s.trust.unlocking = false → teamReady s tm = true → tm.desc.tls = 0 → tm.staged = [] →
        compFrame s tm = none → bindFits s tm r = some core → ∃ u, teamOf t tm.tid = some u ∧ u.state = .running ∧
          u.place = some core ∧ u.tilesAt = r.tiles ∧ u.accsAt = r.accs ∧ u.actAt = r.act ∧ u.wgtAt = r.wgt ∧ u.exposed = false ∧
          u.shadow.isSome = true ∧ handleWord u 0 = tm.desc.strands % 2 ^ 64 ∧ t.mem = s.mem ∧
          (∃ news, t.strands = s.strands ++ news ∧ news.length = tm.desc.strands ∧ ∀ h, h < tm.desc.strands → ∃ z, news[h]? = some z ∧
            z.tid = tm.tid ∧ z.num = h ∧ z.kind = .home ∧ z.core = core ∧ z.stop = .running ∧ ∃ p, z.paths = [p] ∧ p.state = .ready ∧
            p.pc = BitVec.ofNat 64 tm.code.addr ∧ p.code = tm.code ∧ p.mask = 0xFFFFFFFF) ∧
          (∃ news, t.threads = s.threads ++ news ∧ news.length = 32 * tm.desc.strands ∧ ∀ n, n < 32 * tm.desc.strands →
            ∃ z, news[n]? = some z ∧ z.tid = tm.tid ∧ z.rank = n ∧ z.slot = n % 32 ∧ z.status = .present)) ∧
      (∀ tm, r.op = 1 → namesTeam s r tm .created → (s.trust.unlocking = true ∨ teamReady s tm = false ∨ bindFits s tm r = none) →
        sameTeams s t) ∧
      (∀ tm, r.op = 2 → namesTeam s r tm .running → ∃ q, exec (.preemptRequest tm.tid) s = .next q ∧ sameTeams q t) ∧
      (∀ tm core, r.op = 3 → namesTeam s r tm .saved → tm.place = none → tm.name = none → tm.bound = none → bindFits s tm r = some core →
        s.trust.unlocking = false →
        ∃ u, teamOf t tm.tid = some u ∧ u = { tm with state := .running, place := some core, lastPlace := some core
                                                      placegen := tm.placegen + 1, tilesAt := r.tiles, accsAt := r.accs
                                                      actAt := r.act, wgtAt := r.wgt, order := s.run.nextOrder + 1
                                                      shadow := u.shadow } ∧
          (∀ sh, u.shadow = some sh → ∀ z ∈ sh.strands, (∃ x ∈ t.strands, x.tid = tm.tid ∧ x.sid = z.sid) → z.core = core) ∧
          registersOf t = registersOf s ∧ (noArea s tm → t.mem = s.mem) ∧ ∀ z ∈ t.strands, z.tid = tm.tid → z.core = core ∧ z.stop = .running) ∧
      (∀ tm, r.op = 4 → namesTeam s r tm .saved → tm.place ≠ none → t.strands = s.strands ∧ t.threads = s.threads ∧
        teamOf t tm.tid = some { tm with place := none, lastPlace := tm.place }))) ∧
  (∀ (s : State) (die cluster : Nat) (head : Bool), let d := linkDir s die cluster head
    (d.flight = 0 → exec (.linkPermitReturn die cluster head) s = .next s) ∧
    (d.flight ≠ 0 → d.held = [] → ∃ t, exec (.linkPermitReturn die cluster head) s = .next t ∧ sameTeams s t ∧
      linkDir t die cluster head = { d with flight := d.flight - 1, permits := d.permits + 1 }) ∧
    (∀ x xs, d.flight ≠ 0 → d.held = x :: xs → (∀ r, x ≠ .record r) → ∃ t, exec (.linkPermitReturn die cluster head) s = .next t ∧
      sameTeams s t ∧ linkDir t die cluster head = { d with held := xs } ∧ t.front.reports = s.front.reports ++ (match x with
        | .ack r false => [.refused r]
        | .fault d index => [.error d index]
        | _ => [])) ∧
    (∀ r xs, d.flight ≠ 0 → d.held = .record r :: xs → carried s r = none → ∃ t, exec (.linkPermitReturn die cluster head) s = .next t ∧
      sameTeams s t)) ∧
  (∀ (s : State) (a : SeamEntry) (f : SeamFrame) (fs : List SeamFrame), seamAt s a.index = some a → a.frames = fs ++ [f] →
    (a.state ≠ .unpicking ∨ f.state = 3 → exec (.compensationSpawn a.index) s = .next s) ∧
    (stepInProgress s a = true → exec (.compensationSpawn a.index) s = .next s) ∧
    (a.state = .unpicking → a.links = [] → launchLives s a.runner = true → stepInProgress s a = false → f.state ≠ 3 →
      (∀ x ∈ fs, x.seq ≠ f.seq) → Memory.wf s.mem.cells = true → ∃ r tm b,
      exec (.compensationSpawn a.index) s = .next r ∧ r.teams = s.teams ++ [tm] ∧ tm.tid = s.run.nextTid ∧ tm.launch = a.runner ∧
      tm.role = .compensation a.index a.gen.toNat f.seq f.step ∧ tm.state = .created ∧ tm.asid = a.asid ∧ tm.world = a.world ∧
      tm.code = f.comp.withSeal 0 ∧ tm.desc.strands = 1 ∧ tm.desc.regs = 64 ∧ tm.desc.caps = 16 ∧ tm.desc.tiles = 0 ∧ tm.desc.accs = 0 ∧
      seamAt r a.index = some b ∧ b.frames = fs ++ [{ f with state := 3, pend := f.state == 1 }] ∧ r.threads = s.threads ∧
      cellGets r.mem.cells f.place 64 = SeamFrame.bytes { f with state := 3, pend := f.state == 1 } ∧
      ∀ x, (∀ g ∈ a.frames, x < g.place ∨ g.place + 64 ≤ x) → cellGet r.mem.cells x = cellGet s.mem.cells x))

/-- R336 to R339, R341, R343, R344, R347: a notify moves the tail up to the ring's size and is discarded while no ring is set
or an FLR runs; a ring entry loads an image, starts, cancels or unloads, or ends with its status; an FLR ends every launch
of its function and is over once none is live; a launch whose spawn tree is empty raises its completion counter, with bit 63
set and an error record written where it ends in error.
Log entries 28, 34, 35 and 77 tell what of it is the model's choice or reading. -/
def Obligations.RingsLoadStartAndEndLaunches : Prop :=
  (∀ (s : State) (vf : Nat), let v := vcpOf s vf
    let only := fun (r : State) => r = { s with front := { s.front with vcps := r.front.vcps } } ∧ ∀ x, x ≠ vf → vcpOf r x = vcpOf s x
    (∀ tail : DWord, ∃ r, exec (.notify vf tail) s = .next r ∧ exec (.vcpRegisterWrite vf 0 tail) s = .next r ∧ only r ∧
      vcpOf r vf = (let most := v.head.toNat + 2 ^ v.ringSize.toNat
        if v.flrBusy = true ∨ v.ringSize = 0 then { v with discard := v.discard + 1 }
        else if tail.toNat ≤ most then { v with notify := tail }
        else { v with notify := BitVec.ofNat 64 most, discard := v.discard + BitVec.ofNat 64 (tail.toNat - most) })) ∧
    (∀ x : DWord, ∃ r, exec (.vcpRegisterWrite vf 0x20 x) s = .next r ∧ only r ∧
      vcpOf r vf = if v.head = v.notify then { v with ringBase := BitVec.ofNat 64 (x.toNat / 64 * 64) } else v) ∧
    (∀ x : DWord, ∃ r, exec (.vcpRegisterWrite vf 0x28 x) s = .next r ∧ only r ∧
      vcpOf r vf = if v.head = v.notify ∧ 4 ≤ bits x 0 32 ∧ bits x 0 32 ≤ 12 then { v with ringSize := BitVec.ofNat 32 (bits x 0 32) } else v) ∧
    (∀ (off : Nat) (x : DWord), off ≠ 0 → off ≠ 0x20 → off ≠ 0x28 → exec (.vcpRegisterWrite vf off x) s = .next s)) ∧
  (∀ (s : State) (vf : Nat) (img : Image), (vcpOf s vf).ringSize = 0 ∨ (vcpOf s vf).flrBusy = true ∨
      (vcpOf s vf).notify.toNat ≤ (vcpOf s vf).head.toNat →
    exec (.ringLoad vf img) s = .next s ∧ exec (.ringStart vf) s = .next s ∧ exec (.ringUnload vf) s = .next s ∧
      exec (.ringCancel vf) s = .next s) ∧
  (∀ (s : State) (vf pa : Nat) (bs : List Byte), ringHas s vf pa bs → let v := vcpOf s vf
    let handle := ringField bs 4 4
    ((∀ op, 1 ≤ op → op ≤ 4 → ¬ ringOp bs op) → entryEnds s (stepRingBad s vf) vf pa 0x0101 0) ∧
    (∀ img, ringOp bs 1 → imageAt s v.asid (ringField bs 8 8) (ringField bs 16 8) img = none → ∃ r, exec (.ringLoad vf img) s = .next r ∧
      entryEnds s r vf pa 0x0102 0 ∧ r.front.images = s.front.images) ∧
    (∀ given img h, imageRead s v.asid (ringField bs 8 8) (ringField bs 16 8) 0 64 = some h →
      imageAt s v.asid (ringField bs 8 8) (ringField bs 16 8) given = some img →
      img.magic = ringField h 0 4 ∧ img.format = ringField h 4 4 ∧ img.privileged = (ringField h 8 4).testBit 0 ∧
        img.signed = (ringField h 8 4).testBit 1 ∧ img.chunks.length = ringField h 12 4) ∧
    (∀ given img, ringOp bs 1 → imageAt s v.asid (ringField bs 8 8) (ringField bs 16 8) given = some img →
      let base := sectionBases s v.asid img
      (imageOk img (ringField bs 16 8) v.world v.asid base = false → ∃ r, exec (.ringLoad vf given) s = .next r ∧ entryEnds s r vf pa 0x0102 0 ∧
        r.front.images = s.front.images) ∧
      (imageOk img (ringField bs 16 8) v.world v.asid base = true →
        let s1 := { s with run := { s.run with nextHandle := s.run.nextHandle + 1 } }
        (loadImage s1 v img s.run.nextHandle base = none → ∃ r, exec (.ringLoad vf given) s = .next r ∧ entryEnds s r vf pa 0x0102 0) ∧
        ((loadImage s1 v img s.run.nextHandle base).isSome = true → ∃ r x, exec (.ringLoad vf given) s = .next r ∧
          r.front.images = s.front.images ++ [x] ∧ x.handle = s.run.nextHandle ∧ x.vf = vf ∧ x.world = v.world ∧ x.asid = v.asid ∧
          x.launches.length = img.launches.length ∧ r.threads = s.threads ∧ (vcpOf r vf).head = v.head + 1 ∧
          ∀ (i : Nat) (d : LaunchDecl), img.launches[i]? = some d → ∃ l, x.launches[i]? = some l ∧ l.index = i ∧ l.vf = vf ∧
            l.image = s.run.nextHandle ∧ l.world = v.world ∧ l.asid = v.asid ∧ l.priority = d.priority ∧ l.cohort = d.cohort ∧
            l.audit = d.audit ∧ l.fx = d.fx ∧ l.fy = d.fy ∧ l.fz = d.fz ∧ l.kinds = d.kinds.map (BitVec.ofNat 2) ∧
            l.completion = base .data + d.completion))) ∧
    (s.trust.unlocking = true → exec (.ringStart vf) s = .next s) ∧
    (ringOp bs 2 → s.trust.unlocking = false →
      ((∀ i ∈ s.front.images, i.handle = handle → i.vf ≠ vf) → ∃ r, exec (.ringStart vf) s = .next r ∧ entryEnds s r vf pa 0x0104 0) ∧
      (∀ i, (s.front.images.find? fun i => i.handle == handle && i.vf == vf) = some i →
        (i.launches.length ≤ ringField bs 24 8 → ∃ r, exec (.ringStart vf) s = .next r ∧ entryEnds s r vf pa 0x0104 0) ∧
        (∀ d, i.launches[ringField bs 24 8]? = some d →
          ((∀ core, core < 8 * Config.coresPerDie → coreServes s d.world.toNat core = false) →
            ∃ r, exec (.ringStart vf) s = .next r ∧ entryEnds s r vf pa 0x0201 0) ∧
          (d.cohort = false → (∃ core, core < 8 * Config.coresPerDie ∧ coreServes s d.world.toNat core = true) → ∃ r l,
            exec (.ringStart vf) s = .next r ∧ entryEnds s r vf pa 0 s.run.nextHandle ∧ r.front.launches = s.front.launches ++ [l] ∧
            l = { d with num := s.run.nextHandle, began := s.run.nextEv, seed := some 0, state := .live, pmap := l.pmap } ∧
            (∀ die, die < 8 → sget 0 l.pmap die = partitionView s d.world.toNat die) ∧ r.teams = s.teams ∧ r.threads = s.threads) ∧
          (d.cohort = true → (∃ core, core < 8 * Config.coresPerDie ∧ coreServes s d.world.toNat core = true) →
            let l := { d with num := s.run.nextHandle, began := s.run.nextEv, seed := some d.size, state := .live
                              pmap := (List.range 8).foldl (fun m i => sput 0 m i (partitionView s d.world.toNat i)) [] }
            let begun := { s with front := { s.front with launches := s.front.launches ++ [l] }
                                  run := { s.run with nextHandle := s.run.nextHandle + 1, nextEv := s.run.nextEv + 1 } }
            let keys := (List.range d.size).map (fieldKey d)
            (placeCohort s.run.nextHandle keys begun = none → ∃ r, exec (.ringStart vf) s = .next r ∧ entryEnds s r vf pa 0x0202 0) ∧
            (∀ q, placeCohort s.run.nextHandle keys begun = some q → ∃ r, exec (.ringStart vf) s = .next r ∧ r.teams = q.teams ∧
              r.strands = q.strands ∧ r.threads = q.threads))))) ∧
    (ringOp bs 3 →
      ((∀ i ∈ s.front.images, i.handle = handle → i.vf ≠ vf) → ∃ r, exec (.ringUnload vf) s = .next r ∧ entryEnds s r vf pa 0x0104 0) ∧
      (∀ i ∈ s.front.images, i.handle = handle → i.vf = vf →
        ((∃ l ∈ s.front.launches, l.image = handle ∧ l.state ≠ .ended) → ∃ r, exec (.ringUnload vf) s = .next r ∧
          entryEnds s r vf pa 0x0203 0 ∧ r.front.images = s.front.images) ∧
        ((∀ l ∈ s.front.launches, l.image = handle → l.state = .ended) → ∃ r, exec (.ringUnload vf) s = .next r ∧
          r.front.images = s.front.images.filter (fun i => i.handle != handle) ∧
          r.front.launches = s.front.launches.filter (fun l => l.image != handle) ∧ r.threads = s.threads ∧ r.teams = s.teams ∧
          (vcpOf r vf).head = v.head + 1))) ∧
    (ringOp bs 4 →
      ((∀ l ∈ s.front.launches, l.num = handle → l.vf ≠ vf) → ∃ r, exec (.ringCancel vf) s = .next r ∧ entryEnds s r vf pa 0x0104 0) ∧
      (∀ l, launchOf s handle = some l → l.vf = vf →
        (l.state ≠ .live → ∃ r, exec (.ringCancel vf) s = .next r ∧ entryEnds s r vf pa 0 0 ∧ r.front.launches = s.front.launches) ∧
        (l.state = .live → ∃ r m, exec (.ringCancel vf) s = .next r ∧ entryEnds s r vf pa 0 0 ∧ launchOf r handle = some m ∧
          m.state = .ending 0x84 ∧ m.failRank = 0xFFFFFFFF ∧
          ∀ x ∈ r.teams, x.launch = handle → x.role.compensates = false → x.state = .ended ∧ x.staged = [])))) ∧
  (∀ (s : State) (vf : Nat), ∃ r, exec (.flr vf) s = .next r ∧
    vcpOf r vf = { vcpOf s vf with flrBusy := true, ringBase := 0, ringSize := 0, head := 0, notify := 0 } ∧
    r.front.launches.map (·.num) = s.front.launches.map (·.num) ∧ r.mem.cells = s.mem.cells ∧ r.front.images = s.front.images ∧
    ((s.front.launches.map (·.num)).Nodup → ∀ l ∈ s.front.launches,
      (l.vf ≠ vf ∨ l.state = .ended → launchOf r l.num = some l) ∧
      (l.vf = vf → l.state ≠ .ended → launchOf r l.num = some { l with state := .flushing, seed := none } ∧
        ∀ x ∈ r.teams, x.launch = l.num → x.role.compensates = false → x.state = .ended ∧ x.staged = []))) ∧
  (∀ (s : State) (vf : Nat),
    ((vcpOf s vf).flrBusy = false ∨ (∃ l ∈ s.front.launches, l.vf = vf ∧ l.state ≠ .ended) → exec (.flrComplete vf) s = .next s) ∧
    ((vcpOf s vf).flrBusy = true → (∀ l ∈ s.front.launches, l.vf = vf → l.state = .ended) → ∃ r, exec (.flrComplete vf) s = .next r ∧
      vcpOf r vf = { vcpOf s vf with flrBusy := false, flrGen := (vcpOf s vf).flrGen + 1 } ∧
      r = { s with front := { s.front with vcps := r.front.vcps } })) ∧
  (∀ (s : State) (l : Launch) (pa k : Nat), launchOf s l.num = some l →
    (l.state = .ended ∨ l.seed.isSome = true ∨ (∃ tm ∈ s.teams, tm.launch = l.num ∧ tm.role ≠ .handler) → stepLaunchDone s l.num = s) ∧
    (spawnCount s l = 0 → s.mem.redEntries = [] → Memory.wf s.mem.cells = true → physOf s l.asid l.completion = some (pa, k) → pa % 8 = 0 →
      l.completion % 8 = 0 → tierAt pa = some 0 →
      let r := stepLaunchDone s l.num
      let count := natOfBytes (cellGets s.mem.cells pa 8) + 1
      (l.state ≠ .ended → ∃ m, launchOf r l.num = some m ∧ m.state = .ended) ∧
      (l.state = .live → onlyBytes s r pa 8 ∧ cellGets r.mem.cells pa 8 = bytesOfNat 8 (count % 2 ^ 64) ∧ r.front.vcps = s.front.vcps) ∧
      (l.state = .flushing → r.mem.cells = s.mem.cells ∧ r.front.vcps = s.front.vcps) ∧
      (∀ code, l.state = .ending code → onlyBytes s r pa 8 ∧
        cellGets r.mem.cells pa 8 = bytesOfNat 8 (count % 2 ^ 63 + 2 ^ 63) ∧
        (vcpOf r l.vf).errIndex = (vcpOf s l.vf).errIndex + 1 ∧
        (swf [] (vcpOf s l.vf).errRing = true →
          sget [] (vcpOf r l.vf).errRing ((vcpOf s l.vf).errIndex.toNat % 64) = errorBytes l code))))


/-! ### Events: the platform (R103, R163, R278, R282, R320, R324, R329, R330, R333, R335, R355 to R358) -/

/-- R103, R163, R278, R282, R320, R324, R330, R333, R335, R355 to R358: an error writes a record and poisons its line or word; a
self-test marks a record, or takes the unit out; gating and waking change a core's power and nothing else; the sweep takes a
stale capability's tag; a cluster passes to a world while those concerned are idle; a debug unlock ends every launch and
opens the port with no key left; a package reset leaves what reset leaves.
Log entries 10, 60, 61, 62, 63, 64, 65, 66, 67, 68 and 96 tell what of it is the model's choice or reading. -/
def Obligations.ThePlatformTestsGatesAndResets : Prop :=
  (∀ (s : State) (die : Nat) (source : BitVec 4) (site : ErrorSite),
    let i := sget 0 s.plant.errNext die
    let prov := source ++ BitVec.ofNat 8 i
    (8 ≤ source.toNat ∨ 8 ≤ die → exec (.uncorrectableError die source site) s = .next s) ∧
    (source.toNat < 8 → die < 8 → swf 0 s.plant.errNext = true → ∃ r e, exec (.uncorrectableError die source site) s = .next r ∧
      e ∈ r.plant.errors ∧ e.die = die ∧ e.index = i ∧ e.source = source ∧ e.tested = false ∧ e.stamp = s.run.clock.toNat ∧
      sget 0 r.plant.errNext die = (i + 1) % 256 ∧ r.threads = s.threads ∧ r.strands = s.strands ∧ r.mem.cells = s.mem.cells ∧
      (∀ u, site = .unit u → e.unit = u ∧ r.teams = s.teams) ∧ (∀ pa, site = .corrected pa → r.mem = s.mem ∧ r.teams = s.teams) ∧
      (∀ pa, site = .line pa → e.addr = pa ∧ r.teams = s.teams ∧ (swf none s.mem.poison = true → poisonOf s.mem (pa / 64) = none →
        poisonOf r.mem (pa / 64) = some prov ∧ ∀ l, l ≠ pa / 64 → poisonOf r.mem l = poisonOf s.mem l)) ∧
      (∀ tid off tm, site = .act tid off → teamOf s tid = some tm → tm.place ≠ none → tm.state ≠ .ended → swf none tm.actPoison = true →
        sget none tm.actPoison (off / 4) = none →
        ∃ u, teamOf r tid = some u ∧ ∀ j, sget none u.actPoison j = if j = off / 4 then some prov else sget none tm.actPoison j) ∧
      (∀ tid n w tm, site = .tile tid n w → teamOf s tid = some tm → swf none tm.tilePoison = true →
        sget none tm.tilePoison (512 * n + w % 512) = none → ∃ u, teamOf r tid = some u ∧
          ∀ j, sget none u.tilePoison j = if j = 512 * n + w % 512 then some prov else sget none tm.tilePoison j) ∧
      (∀ page, site = .counter page → tierAt (4096 * page) = some 1 ∨ tierAt (4096 * page) = some 2 → swf none s.mem.poison = true →
        (∀ i, i < 64 → poisonOf s.mem (64 * page + i) = none) →
        ∀ l, poisonOf r.mem l = if l / 64 = page then some prov else poisonOf s.mem l))) ∧
  (∀ (s : State) (die rec : Nat) (u : TestUnit) (pass : Bool), (s.teams.map (·.tid)).Nodup →
    ((∀ e, (s.plant.errors.find? fun e => e.die == die && e.index == rec && !e.tested) = some e → e.unit ≠ u) → (∀ n, u = .core n → ∀ m ∈ s.traps.machineChecks, n ∉ m.take 2) →
      exec (.targetedSelfTest die rec u pass) s = .next s) ∧
    (∀ e n tm, (s.plant.errors.find? fun e => e.die == die && e.index == rec && !e.tested) = some e → e.unit = u → u = .core n →
      (s.teams.filter fun x => x.place == some n && x.role != .handler && (x.state == .running || x.state == .stopping)) = [tm] →
      namesTeam s (teamRecord s tm 2) tm .running → linkOpen s (teamRecord s tm 2) →
      ∃ r q, exec (.targetedSelfTest die rec u pass) s = .next r ∧ exec (.preemptRequest tm.tid) s = .next q ∧ sameTeams q r ∧
        r.plant.errors = s.plant.errors) ∧
    (∀ e, (s.plant.errors.find? fun e => e.die == die && e.index == rec && !e.tested) = some e → e.unit = u →
      (∀ n, u = .core n → ∀ tm ∈ s.teams, tm.place = some n → tm.role ≠ .handler → tm.state ≠ .running ∧ tm.state ≠ .stopping) →
      let marked := s.plant.errors.map fun x => if (x.die == die && x.index == rec && !x.tested && decide (x.unit = u)) = true then { x with tested := true, transient := pass } else x
      (pass = true → exec (.targetedSelfTest die rec u pass) s = .next { s with plant := { s.plant with errors := marked } }) ∧
      (pass = false → ∃ r, exec (.targetedSelfTest die rec u pass) s = .next r ∧ r.plant.errors = marked ∧ r.plant.replace = some u ∧
        r.plant.health = s.plant.health ||| 1 ∧ r.mem.cells = s.mem.cells ∧
        (∀ n, u = .core n → coreOut r n = true ∧ (coreOut s n = false → ∀ tm l, onCore s n tm → launchOf s tm.launch = some l →
          l.state = .live → ∃ m, launchOf r tm.launch = some m ∧ m.state = .ending 0x82)) ∧
        (∀ d c, u = .clusterShared d c → (d, c) ∈ r.plant.clustersOut) ∧
        (∀ base size, u = .memory base size → r.mem.retired = s.mem.retired ++ [(base / 64, (base % 64 + size + 63) / 64, e.source ++ BitVec.ofNat 8 e.index)]) ∧
        (∀ n, u = .link n → ∃ l, (r.fabric.links.find? fun x => x.number == n) = some l ∧ l.retired = true) ∧
        (u = .fatal → r.run = { s.run with halted := true } ∧ r.plant.dumped = true ∧ r.plant.dump.isSome = true ∧
          r.threads = s.threads ∧ r.front = s.front)))) ∧
  (∀ (s : State) (n core : Nat), let x := coreRec s core
    exec (.clockStretch n) s = .next s ∧
    (∃ r, exec (.clockGate core) s = .next r ∧ coreNow s r core
      (if x.power = .on ∧ coreBusy s core = false ∧ x.idleSince + 10000 ≤ s.run.clock.toNat then { x with power := .clockGated } else x)) ∧
    (∃ r, exec (.powerGate core) s = .next r ∧ coreNow s r core
      (if x.power ≠ .powerGated ∧ coreBusy s core = false ∧ x.idleSince + 500000 ≤ s.run.clock.toNat then { x with power := .powerGated } else x)) ∧
    (∃ r, exec (.coreWake core) s = .next r ∧ coreNow s r core
      (if x.power ≠ .on ∧ coreBusy s core = true then { x with power := .on, idleSince := s.run.clock.toNat } else x)) ∧
    ((∀ st ∈ s.strands, st.core = core →
      st.commit ≠ none ∨ st.parked ≠ [] ∨ st.stop = .stopped ∨ ∀ p ∈ st.paths, ∃ w t, p.state = .waiting w t) →
      coreBusy s core = false)) ∧
  (∀ (s : State) (asid : BitVec 16) (granule : Nat) (l : Leaf) (e : BitVec 128), (∀ a ∈ s.seams.entries, a.asid ≠ asid) →
    s.mem.redEntries = [] → pageLeaf s asid (granule / 4096) = some (l, e) →
    let pa := l.pa + (16 * granule - l.page * 65536)
    let c := capOfBytes (cellGets s.mem.cells pa 16) (tagAt s.mem pa)
    (staleCap s asid c = false → exec (.sweep asid granule) s = .next s) ∧
    (staleCap s asid c = true → exec (.sweep asid granule) s = .next { s with mem := { s.mem with tags := s.mem.tags.filter fun g => g != pa / 16 } }) ∧
    ((c.tag = false ∨ c.perms.getLsbD 0 = true) → staleCap s asid c = false)) ∧
  (∀ (s : State) (die cluster world : Nat),
    (8 ≤ die ∨ 36 ≤ cluster ∨ 256 ≤ world ∨ ¬ idleWorld s world ∨ (∃ w, clusterOwner s die cluster = some w ∧ ¬ idleWorld s w) →
      exec (.partitionRecut die cluster world) s = .next s) ∧
    (die < 8 → cluster < 36 → world < 256 → idleWorld s world → (∀ w, clusterOwner s die cluster = some w → idleWorld s w) →
      swf 0 s.plant.clusterWorld = true → swf 0 s.trust.meas = true → swf 0 s.plant.ways = true → freeWay s die ≠ none →
      ∃ r, exec (.partitionRecut die cluster world) s = .next r ∧
      clusterOwner r die cluster = some world ∧ sget 0 r.plant.ways (256 * die + world) ≠ 0 ∧
      (∀ d c, d < 8 → c < 36 → (d, c) ≠ (die, cluster) → clusterOwner r d c = clusterOwner s d c) ∧
      sget 0 r.trust.meas 4 = extended (sget 0 s.trust.meas 4) (sha256 (bytesOfNat 1 die ++ bytesOfNat 1 cluster ++ bytesOfNat 1 world)) ∧
      (∀ i, i ≠ 4 → sget 0 r.trust.meas i = sget 0 s.trust.meas i) ∧ r.threads = s.threads ∧ r.teams = s.teams ∧
      r.mem = { s.mem with l1 := s.mem.l1.filter fun x => clusterOf s x.core != ⟨die, cluster⟩ } ∧
      ∀ w ∈ r.plant.clusterWords, ¬ (w.die = die ∧ w.cluster = cluster)) ∧
    (clusterOwner s die cluster = none → sget 0 s.plant.ways (256 * die + world) = 0 → freeWay s die = none →
      exec (.partitionRecut die cluster world) s = .next s)) ∧
  (∀ (s : State) (t : DebugToken), (s.front.launches.map (·.num)).Nodup →
    (s.trust.unlocking = true ∨ ¬ goodToken s t → exec (.debugUnlock t) s = .next s) ∧
    (s.trust.unlocking = false → goodToken s t → ∃ r, exec (.debugUnlock t) s = .next r ∧
      r.trust = { s.trust with unlockCounter := s.trust.unlockCounter + 1, unlocking := true, unlockDigest := t.digest } ∧
      r.mem.cells = s.mem.cells ∧ (∀ l ∈ r.front.launches, l.state ≠ .live) ∧
      ∀ l ∈ s.front.launches, l.state = .live → ∃ m, launchOf r l.num = some m ∧ m.state = .ending 0x84)) ∧
  (∀ s : State, s.trust.unlocking = true → (∀ l ∈ s.front.launches, l.state = .ended) → (∀ tm ∈ s.teams, tm.state ≠ .running ∧ tm.state ≠ .stopping) → s.eng.cmds = [] → s.mem.events = [] →
    swf 0 s.trust.meas = true → let r := stepPortOpen s
    r.trust.portOpen = true ∧ r.trust.lifecycle = 2 ∧ r.trust.unlocking = false ∧ r.mem.l1 = [] ∧ r.mem.cells = s.mem.cells ∧
      r.plant.clusterWords = [] ∧ (∀ i, (keySlot s i).state = 1 → keySlot r i = { keySlot s i with state := 2, key := 0 }) ∧
      sget 0 r.trust.meas 3 = extended (sget 0 s.trust.meas 3) (sha256 (bytesOfNat 32 s.trust.unlockDigest.toNat))) ∧
  (∀ (s : State) (lo hi : DWord), exec (.watchRangeArm lo hi) s = .next
    { s with traps := { s.traps with watch := s.traps.watch ++ (if s.trust.portOpen = true ∧ s.trust.lifecycle = 2 then [(lo, hi)] else []) } }) ∧
  (∀ s : State, ∃ r, exec .packageReset s = .next r ∧ r.threads = [] ∧ r.strands = [] ∧ r.teams = [] ∧ r.traps = State.reset.traps ∧
    r.mem = State.reset.mem ∧ r.front = State.reset.front ∧ r.seams = State.reset.seams ∧ r.fabric = State.reset.fabric ∧
    r.run = { State.reset.run with tick := s.run.tick, agenda := s.run.agenda } ∧ r.eng.cmds = [] ∧ r.eng.drives = s.eng.drives ∧
    r.trust.lifecycle = s.trust.fuseLifecycle ∧ r.trust.devid = s.trust.devid ∧ r.trust.unlockCounter = s.trust.unlockCounter ∧
    r.trust.sigIndex = s.trust.sigIndex ∧ r.trust.meas = [] ∧ r.trust.portOpen = false ∧ (∀ i, i ≠ 0 → keySlot r i = noKey) ∧
    (keySlot r 0).state = 1 ∧ r.plant.health = 0 ∧ r.plant.harvest = s.plant.harvest ∧ r.plant.dump = s.plant.dump)


/-! ### The whole machine -/

/-- R30, R38, R47, R356, R385: a step in which a strand issues runs the instruction that the fetched word decodes to, as `exec`
does, the turn passes where the path has parked, and then time goes on; under `rep` the follower's word is the stepped one, and a word that is no instruction files the
path's threads with cause 0x01. A step of the device's own agents, or the next one that the world outside calls for, is
likewise that step alone; a halted device takes none but a package reset.
Log entries 5, 7, 15, 38 and 86 tell what of it is the model's choice or reading. -/
def Obligations.StepRunsTheDecodedInstruction : Prop :=
  (∀ (s : State) (st : Strand) (c : Ctx) (s1 : State) (w : Word), choose s = some (.issue st.sid) → strandOf s st.sid = some st →
    ctxOf (issueState s st) = some c →
    fetchAt (issueState s st) c (if repActive c.p.rep = true then c.p.pc + 4 else c.p.pc) = (s1, .ok w) →
    let x := if repActive c.p.rep = true then stepWord c.p.repWord w (repIndex c.p.rep) else w
    let s2 := { s1 with run := { s1.run with curWord := x } }
    (∀ i, decodeWord? x = some i → step s = match exec i s2 with
      | .next t => .next (tickOn (issued t))
      | .fault f => .fault f
      | .refused r => .refused r) ∧
    (decodeWord? x = none → ∀ d, ctxOf s2 = some d →
      step s = .next (tickOn (issued (fileAllWith s2 d { cause := 0x01, addr := 0, detail := 0, asid := 0 }))))) ∧
  (∀ s : State, (issued s).threads = s.threads ∧ (issued s).mem = s.mem ∧ (issued s).teams = s.teams ∧
    (issued s).strands.map (fun st => (st.sid, st.rb, st.commit, st.frames, st.records, st.paths.map fun p => (p.pid, p.pc, p.mask, p.state))) =
      s.strands.map (fun st => (st.sid, st.rb, st.commit, st.frames, st.records, st.paths.map fun p => (p.pid, p.pc, p.mask, p.state))) ∧
    (∀ sid st p, s.run.issuing = some sid → strandOf s sid = some st → st.path? st.cur = some p → pathReady s sid p = true →
      issued s = { s with run := { s.run with issuing := none } })) ∧
  (∀ (s : State) (c : Ctx) (pc : DWord) (s1 s2 : State) (locs : List (Loc × Nat)) (g : Got),
    checkAccess s (c.who s (((c.threads s).head?.map (·.rank)).getD 0)) (fetchAccess c pc) = (s1, .ok locs) →
    readLocs s1 none locs = (s2, some g) → fetchAt s c pc = (s2, .ok (word (natOfBytes (g.bytes.take 4))))) ∧
  (∀ (s : State) (i : Instr) (rest : List Instr), choose s = some .agenda → s.run.agenda = i :: rest → s.run.halted = false →
    step s = match exec i { s with run := { s.run with agenda := rest } } with
      | .next t => .next (tickOn t)
      | .fault f => .fault f
      | .refused r => .refused r) ∧
  (∀ s : State, s.run.halted = true → (∀ i ∈ s.run.agenda.head?, i ≠ .packageReset) → ∃ rest, step s = .next (tickOn { s with
    run := { s.run with agenda := rest } })) ∧
  (∀ (s : State) (a : Act), choose s = some a → a ≠ .agenda → (∀ sid, a ≠ .issue sid) → step s = .next (tickOn (actState s a))) ∧
  (∀ s : State, (tickOn s).run = { s.run with tick := s.run.tick + 1, clock := s.run.clock + 1 + BitVec.ofNat 64 (Config.elapsed s.run.tick) } ∧
    registersOf (tickOn s) = registersOf s ∧ (tickOn s).mem = s.mem ∧
    ((∀ tm ∈ s.teams, tm.role = .handler ∨ tm.homes ≤ (s.strands.filter fun x => x.tid == tm.tid && x.kind = .home).length) →
      (tickOn s).threads = s.threads ∧ (tickOn s).teams = s.teams))

/-- R2, R30 to R37 and the encodings of each instruction: words written out from the tables decode to their instructions,
from their bytes in memory order as well. -/
def Obligations.DecodedWordsOfTheTable : Prop :=
  ∀ e ∈ wordsOfTheTable, decodeWord? e.1 = some e.2 ∧
    decodeBytes [e.1.extractLsb' 0 8, e.1.extractLsb' 8 8, e.1.extractLsb' 16 8, e.1.extractLsb' 24 8] = .ok (some (e.2, []))

/-- R30 to R38: the word of a well-formed instruction decodes to that instruction, every operand and its switch marker
included; and a word that is an instruction is that instruction's word: the instruction is well-formed, and no word but
the encoder's stands for it. -/
def Obligations.DecodeAndEncodeAgree : Prop :=
  (∀ (m : Bool) (i : Instr) (w : Word), i.WellFormed → encode m i = some w →
    decodeWord? w = some i ∧ decodeBytes (bytesOfWord w) = .ok (some (i, [])) ∧
      ((∀ n x y z t, i ≠ .rep n x y z t) → markerOf w = m)) ∧
  (∀ (w : Word) (i : Instr), decodeWord? w = some i → i.WellFormed ∧ encode (markerOf w) i = some w) ∧
  (∀ (w : Word) (i : Instr), decodeWord? w = some i → decodeTableWord 32 w.toNat = some i)

/-- Memory stays in its canonical form: in every state in which it has that form, so it has after a step. -/
def Obligations.MemoryCanonicalInEveryStep : Prop :=
  ∀ s t : State, MemoryCanonical s → step s = .next t → MemoryCanonical t

/-- R324, R333, R336, R339, R343: what reset leaves: no thread, strand, team, launch or image; every key slot but slot 0 empty;
the measurement registers zero; each function's ring size 0; memory in its canonical form with nothing listed, so that every
byte reads 0 (the model's choice, log entry 1). -/
def Obligations.ResetLeavesTheSpecsState : Prop :=
  let s := State.reset
  s.threads = [] ∧ s.strands = [] ∧ s.teams = [] ∧ s.front.launches = [] ∧ s.front.images = [] ∧ s.traps.pillow = [] ∧
    s.eng.cmds = [] ∧ s.seams.entries = [] ∧ s.run.clock = 0 ∧ s.run.halted = false ∧ MemoryCanonical s ∧
    (∀ a, cellGet s.mem.cells a = 0) ∧ (∀ a, tagAt s.mem a = false) ∧ (∀ l, poisonOf s.mem l = none) ∧
    (∀ i, i ≠ 0 → (keySlot s i).state = 0) ∧ (keySlot s 0).state = 1 ∧ (∀ i, sget 0 s.trust.meas i = 0) ∧
    (∀ vf, (vcpOf s vf).ringSize = 0 ∧ (vcpOf s vf).discard = 0 ∧ (vcpOf s vf).head = 0 ∧ (vcpOf s vf).notify = 0 ∧
      (vcpOf s vf).flrGen = 0) ∧ s.trust.portOpen = false

/-- No instruction and no event stops the machine: with a strand that issues, `exec` answers a next state for every
instruction and every event; and a step answers one wherever the world outside calls for events alone.
Log entry 85 tells what of it is the model's choice or reading. -/
def Obligations.NoStepStops : Prop :=
  (∀ (i : Instr) (s : State) (c : Ctx), ctxOf s = some c → ∃ t, exec i s = .next t) ∧
  (∀ (s : State), (∀ i ∈ s.run.agenda, ∀ m, encode m i = none) → ∃ t, step s = .next t)
end

