-- ==== Sys2Proof/Laws/Memory.lean ====
section
/-! SUPPORT. Laws of sparse data and of memory in its canonical form: what a read after a write gives, and that every write
keeps the form. -/

namespace Sys2Proof.Machine

/-- A key below every key of the data reads the default. -/
theorem sget_of_sAbove {α : Type} (d : α) : ∀ (m : Sparse α) (b k : Nat), sAbove b m = true → k ≤ b → sget d m k = d
  | [], _, _, _, _ => rfl
  | (j, x) :: m, b, k, h, hk => by
    simp only [sAbove, Bool.and_eq_true, decide_eq_true_eq] at h
    have h1 : k ≠ j := by omega
    have h2 : k < j := by omega
    simp [sget, h1, h2]

/-- Keys above a bound lie above a lower one. -/
theorem sAbove_mono {α : Type} : ∀ (m : Sparse α) (b c : Nat), sAbove b m = true → c ≤ b → sAbove c m = true
  | [], _, _, _, _ => rfl
  | (j, x) :: m, b, c, h, hc => by
    simp only [sAbove, Bool.and_eq_true, decide_eq_true_eq] at h ⊢
    exact ⟨by omega, sAbove_mono m b c h.2 hc⟩

/-- A write at a key above the bound leaves every key above it. -/
theorem sAbove_sput {α : Type} [DecidableEq α] (d : α) :
    ∀ (m : Sparse α) (b k : Nat) (x : α), sAbove b m = true → b < k → sAbove b (sput d m k x) = true
  | [], b, k, x, _, hk => by
    by_cases hx : x = d <;> simp [sput, hx, sAbove, hk]
  | (j, y) :: m, b, k, x, h, hk => by
    have h' := h
    simp only [sAbove, Bool.and_eq_true, decide_eq_true_eq] at h'
    by_cases h1 : k = j
    · by_cases hx : x = d
      · simp [sput, h1, hx, h'.2]
      · simp [sput, h1, hx, sAbove, h'.1, h'.2]
    · by_cases h2 : k < j
      · by_cases hx : x = d <;> simp [sput, h1, h2, hx, sAbove, h'.1, h'.2, hk]
      · simp [sput, h1, h2, sAbove, h'.1, sAbove_sput d m b k x h'.2 hk]

/-- The canonical form of the rest of the data, whose keys lie above the first. -/
theorem swf_cons {α : Type} [DecidableEq α] (d : α) (j : Nat) (x : α) (m : Sparse α) :
    swf d ((j, x) :: m) = true ↔ sAbove j m = true ∧ x ≠ d ∧ swf d m = true := by
  simp [swf, and_assoc]

/-- A write keeps the canonical form. -/
theorem swf_sput {α : Type} [DecidableEq α] (d : α) :
    ∀ (m : Sparse α) (k : Nat) (x : α), swf d m = true → swf d (sput d m k x) = true
  | [], k, x, _ => by by_cases hx : x = d <;> simp [sput, hx, swf, sAbove]
  | (j, y) :: m, k, x, h => by
    have h' := (swf_cons d j y m).1 h
    by_cases h1 : k = j
    · by_cases hx : x = d
      · simp [sput, h1, hx, h'.2.2]
      · simp [sput, h1, hx, swf_cons, h'.1, h'.2.2]
    · by_cases h2 : k < j
      · by_cases hx : x = d
        · simp [sput, h1, h2, hx, h]
        · have ha : sAbove k m = true := sAbove_mono m j k h'.1 (by omega)
          simp [sput, h1, h2, hx, swf_cons, sAbove, ha, h'.1, h'.2.1, h'.2.2]
      · have ha : sAbove j (sput d m k x) = true := sAbove_sput d m j k x h'.1 (by omega)
        simp [sput, h1, h2, swf_cons, ha, h'.2.1, swf_sput d m k x h'.2.2]

/-- A read of a written key gives what was written. -/
theorem sget_sput_same {α : Type} [DecidableEq α] (d : α) :
    ∀ (m : Sparse α) (k : Nat) (x : α), swf d m = true → sget d (sput d m k x) k = x
  | [], k, x, _ => by by_cases hx : x = d <;> simp [sput, hx, sget]
  | (j, y) :: m, k, x, h => by
    have h' := (swf_cons d j y m).1 h
    by_cases h1 : k = j
    · subst h1
      by_cases hx : x = d
      · subst hx
        simp [sput, sget_of_sAbove _ m k k h'.1 (Nat.le_refl k)]
      · simp [sput, hx, sget]
    · by_cases h2 : k < j
      · by_cases hx : x = d <;> simp [sput, h1, h2, hx, sget]
      · simp [sput, h1, h2, sget, sget_sput_same d m k x h'.2.2]

/-- A write leaves every other key alone. -/
theorem sget_sput_other {α : Type} [DecidableEq α] (d : α) :
    ∀ (m : Sparse α) (k : Nat) (x : α) (i : Nat), swf d m = true → i ≠ k → sget d (sput d m k x) i = sget d m i
  | [], k, x, i, _, hi => by by_cases hx : x = d <;> simp [sput, hx, sget, hi]
  | (j, y) :: m, k, x, i, h, hi => by
    have h' := (swf_cons d j y m).1 h
    by_cases h1 : k = j
    · subst h1
      by_cases hx : x = d
      · by_cases h3 : i < k
        · simp [sput, hx, sget, hi, h3, sget_of_sAbove d m k i h'.1 (by omega)]
        · simp [sput, hx, sget, hi, h3]
      · simp [sput, hx, sget, hi]
    · by_cases h2 : k < j
      · by_cases hx : x = d
        · simp [sput, h1, h2, hx]
        · by_cases h3 : i < k
          · have h4 : i ≠ j := by omega
            have h5 : i < j := by omega
            simp [sput, h1, h2, hx, sget, hi, h3, h4, h5]
          · simp [sput, h1, h2, hx, sget, hi, h3]
      · by_cases h3 : i = j
        · simp [sput, h1, h2, sget, h3]
        · by_cases h4 : i < j <;>
            simp [sput, h1, h2, sget, h3, h4, sget_sput_other d m k x i h'.2.2 hi]

/-- A write of one byte keeps memory in its canonical form. -/
theorem wf_cellPut (m : List Host.Cell) (a : Nat) (b : Byte) (h : Memory.wf m = true) : Memory.wf (cellPut m a b) = true :=
  swf_sput unlistedByte m a b h

/-- A write of several bytes keeps memory in its canonical form. -/
theorem wf_cellPuts : ∀ (bs : List Byte) (m : List Host.Cell) (a : Nat), Memory.wf m = true → Memory.wf (cellPuts m a bs) = true
  | [], _, _, h => h
  | b :: bs, m, a, h => wf_cellPuts bs (cellPut m a b) (a + 1) (wf_cellPut m a b h)

/-- Writes of listed bytes keep memory in its canonical form. -/
theorem wf_foldl_cellPut : ∀ (l : List (Nat × Byte)) (m : List Host.Cell), Memory.wf m = true →
    Memory.wf (l.foldl (fun c b => cellPut c b.1 b.2) m) = true
  | [], _, h => h
  | x :: l, m, h => wf_foldl_cellPut l (cellPut m x.1 x.2) (wf_cellPut m x.1 x.2 h)

/-- A byte reads as it was written. -/
theorem cellGet_cellPut_same (m : List Host.Cell) (a : Nat) (b : Byte) (h : Memory.wf m = true) : cellGet (cellPut m a b) a = b :=
  sget_sput_same unlistedByte m a b h

/-- A write of a byte leaves every other byte alone. -/
theorem cellGet_cellPut_other (m : List Host.Cell) (a i : Nat) (b : Byte) (h : Memory.wf m = true) (hi : i ≠ a) :
    cellGet (cellPut m a b) i = cellGet m i :=
  sget_sput_other unlistedByte m a b i h hi

/-- Bytes outside the written range read as before. -/
theorem cellGet_cellPuts_other : ∀ (bs : List Byte) (m : List Host.Cell) (a i : Nat), Memory.wf m = true →
    (i < a ∨ a + bs.length ≤ i) → cellGet (cellPuts m a bs) i = cellGet m i
  | [], _, _, _, _, _ => rfl
  | b :: bs, m, a, i, h, hi => by
    simp only [List.length_cons] at hi
    have h1 := cellGet_cellPuts_other bs (cellPut m a b) (a + 1) i (wf_cellPut m a b h) (by omega)
    rw [cellPuts, h1, cellGet_cellPut_other m a i b h (by omega)]

/-- A byte of the written range reads as it was written. -/
theorem cellGet_cellPuts_inside : ∀ (bs : List Byte) (m : List Host.Cell) (a i : Nat) (hi : i < bs.length),
    Memory.wf m = true → cellGet (cellPuts m a bs) (a + i) = bs[i]
  | b :: bs, m, a, 0, _, h => by
    rw [cellPuts, cellGet_cellPuts_other bs _ (a + 1) (a + 0) (wf_cellPut m a b h) (by omega)]
    simp [cellGet_cellPut_same m a b h]
  | b :: bs, m, a, i + 1, hi, h => by
    have h1 := cellGet_cellPuts_inside bs (cellPut m a b) (a + 1) i (by simpa using hi) (wf_cellPut m a b h)
    have h2 : a + (i + 1) = a + 1 + i := by omega
    rw [cellPuts, h2, h1]
    simp

end Sys2Proof.Machine
end

