-- ==== Sys2Proof/Laws/State.lean ====
section
/-! SUPPORT. What each operation over the state leaves alone, part by part. -/

namespace Sys2Proof.Machine

@[simp] theorem updStrand_run (s : State) (n : Nat) (f : Strand → Strand) :
    (updStrand s n f).run = s.run := rfl
@[simp] theorem updStrand_threads (s : State) (n : Nat) (f : Strand → Strand) :
    (updStrand s n f).threads = s.threads := rfl
@[simp] theorem updStrand_teams (s : State) (n : Nat) (f : Strand → Strand) :
    (updStrand s n f).teams = s.teams := rfl
@[simp] theorem updStrand_traps (s : State) (n : Nat) (f : Strand → Strand) :
    (updStrand s n f).traps = s.traps := rfl
@[simp] theorem updStrand_mem (s : State) (n : Nat) (f : Strand → Strand) :
    (updStrand s n f).mem = s.mem := rfl
@[simp] theorem updStrand_eng (s : State) (n : Nat) (f : Strand → Strand) :
    (updStrand s n f).eng = s.eng := rfl
@[simp] theorem updStrand_front (s : State) (n : Nat) (f : Strand → Strand) :
    (updStrand s n f).front = s.front := rfl
@[simp] theorem updStrand_seams (s : State) (n : Nat) (f : Strand → Strand) :
    (updStrand s n f).seams = s.seams := rfl
@[simp] theorem updStrand_trust (s : State) (n : Nat) (f : Strand → Strand) :
    (updStrand s n f).trust = s.trust := rfl
@[simp] theorem updStrand_plant (s : State) (n : Nat) (f : Strand → Strand) :
    (updStrand s n f).plant = s.plant := rfl
@[simp] theorem updStrand_fabric (s : State) (n : Nat) (f : Strand → Strand) :
    (updStrand s n f).fabric = s.fabric := rfl

@[simp] theorem updTeam_run (s : State) (n : Nat) (f : Team → Team) :
    (updTeam s n f).run = s.run := rfl
@[simp] theorem updTeam_threads (s : State) (n : Nat) (f : Team → Team) :
    (updTeam s n f).threads = s.threads := rfl
@[simp] theorem updTeam_strands (s : State) (n : Nat) (f : Team → Team) :
    (updTeam s n f).strands = s.strands := rfl
@[simp] theorem updTeam_traps (s : State) (n : Nat) (f : Team → Team) :
    (updTeam s n f).traps = s.traps := rfl
@[simp] theorem updTeam_mem (s : State) (n : Nat) (f : Team → Team) :
    (updTeam s n f).mem = s.mem := rfl
@[simp] theorem updTeam_eng (s : State) (n : Nat) (f : Team → Team) :
    (updTeam s n f).eng = s.eng := rfl
@[simp] theorem updTeam_front (s : State) (n : Nat) (f : Team → Team) :
    (updTeam s n f).front = s.front := rfl
@[simp] theorem updTeam_seams (s : State) (n : Nat) (f : Team → Team) :
    (updTeam s n f).seams = s.seams := rfl
@[simp] theorem updTeam_trust (s : State) (n : Nat) (f : Team → Team) :
    (updTeam s n f).trust = s.trust := rfl
@[simp] theorem updTeam_plant (s : State) (n : Nat) (f : Team → Team) :
    (updTeam s n f).plant = s.plant := rfl
@[simp] theorem updTeam_fabric (s : State) (n : Nat) (f : Team → Team) :
    (updTeam s n f).fabric = s.fabric := rfl

@[simp] theorem updThread_run (s : State) (n r : Nat) (f : Thread → Thread) :
    (updThread s n r f).run = s.run := rfl
@[simp] theorem updThread_strands (s : State) (n r : Nat) (f : Thread → Thread) :
    (updThread s n r f).strands = s.strands := rfl
@[simp] theorem updThread_teams (s : State) (n r : Nat) (f : Thread → Thread) :
    (updThread s n r f).teams = s.teams := rfl
@[simp] theorem updThread_traps (s : State) (n r : Nat) (f : Thread → Thread) :
    (updThread s n r f).traps = s.traps := rfl
@[simp] theorem updThread_mem (s : State) (n r : Nat) (f : Thread → Thread) :
    (updThread s n r f).mem = s.mem := rfl
@[simp] theorem updThread_eng (s : State) (n r : Nat) (f : Thread → Thread) :
    (updThread s n r f).eng = s.eng := rfl
@[simp] theorem updThread_front (s : State) (n r : Nat) (f : Thread → Thread) :
    (updThread s n r f).front = s.front := rfl
@[simp] theorem updThread_seams (s : State) (n r : Nat) (f : Thread → Thread) :
    (updThread s n r f).seams = s.seams := rfl
@[simp] theorem updThread_trust (s : State) (n r : Nat) (f : Thread → Thread) :
    (updThread s n r f).trust = s.trust := rfl
@[simp] theorem updThread_plant (s : State) (n r : Nat) (f : Thread → Thread) :
    (updThread s n r f).plant = s.plant := rfl
@[simp] theorem updThread_fabric (s : State) (n r : Nat) (f : Thread → Thread) :
    (updThread s n r f).fabric = s.fabric := rfl

@[simp] theorem updThreads_run (s : State) (p : Thread → Bool) (f : Thread → Thread) :
    (updThreads s p f).run = s.run := rfl
@[simp] theorem updThreads_strands (s : State) (p : Thread → Bool) (f : Thread → Thread) :
    (updThreads s p f).strands = s.strands := rfl
@[simp] theorem updThreads_teams (s : State) (p : Thread → Bool) (f : Thread → Thread) :
    (updThreads s p f).teams = s.teams := rfl
@[simp] theorem updThreads_traps (s : State) (p : Thread → Bool) (f : Thread → Thread) :
    (updThreads s p f).traps = s.traps := rfl
@[simp] theorem updThreads_mem (s : State) (p : Thread → Bool) (f : Thread → Thread) :
    (updThreads s p f).mem = s.mem := rfl
@[simp] theorem updThreads_eng (s : State) (p : Thread → Bool) (f : Thread → Thread) :
    (updThreads s p f).eng = s.eng := rfl
@[simp] theorem updThreads_front (s : State) (p : Thread → Bool) (f : Thread → Thread) :
    (updThreads s p f).front = s.front := rfl
@[simp] theorem updThreads_seams (s : State) (p : Thread → Bool) (f : Thread → Thread) :
    (updThreads s p f).seams = s.seams := rfl
@[simp] theorem updThreads_trust (s : State) (p : Thread → Bool) (f : Thread → Thread) :
    (updThreads s p f).trust = s.trust := rfl
@[simp] theorem updThreads_plant (s : State) (p : Thread → Bool) (f : Thread → Thread) :
    (updThreads s p f).plant = s.plant := rfl
@[simp] theorem updThreads_fabric (s : State) (p : Thread → Bool) (f : Thread → Thread) :
    (updThreads s p f).fabric = s.fabric := rfl

@[simp] theorem updLaunch_run (s : State) (n : Nat) (f : Launch → Launch) :
    (updLaunch s n f).run = s.run := rfl
@[simp] theorem updLaunch_threads (s : State) (n : Nat) (f : Launch → Launch) :
    (updLaunch s n f).threads = s.threads := rfl
@[simp] theorem updLaunch_strands (s : State) (n : Nat) (f : Launch → Launch) :
    (updLaunch s n f).strands = s.strands := rfl
@[simp] theorem updLaunch_teams (s : State) (n : Nat) (f : Launch → Launch) :
    (updLaunch s n f).teams = s.teams := rfl
@[simp] theorem updLaunch_traps (s : State) (n : Nat) (f : Launch → Launch) :
    (updLaunch s n f).traps = s.traps := rfl
@[simp] theorem updLaunch_mem (s : State) (n : Nat) (f : Launch → Launch) :
    (updLaunch s n f).mem = s.mem := rfl
@[simp] theorem updLaunch_eng (s : State) (n : Nat) (f : Launch → Launch) :
    (updLaunch s n f).eng = s.eng := rfl
@[simp] theorem updLaunch_seams (s : State) (n : Nat) (f : Launch → Launch) :
    (updLaunch s n f).seams = s.seams := rfl
@[simp] theorem updLaunch_trust (s : State) (n : Nat) (f : Launch → Launch) :
    (updLaunch s n f).trust = s.trust := rfl
@[simp] theorem updLaunch_plant (s : State) (n : Nat) (f : Launch → Launch) :
    (updLaunch s n f).plant = s.plant := rfl
@[simp] theorem updLaunch_fabric (s : State) (n : Nat) (f : Launch → Launch) :
    (updLaunch s n f).fabric = s.fabric := rfl

@[simp] theorem updEntry_run (s : State) (n : Nat) (f : Entry → Entry) :
    (updEntry s n f).run = s.run := rfl
@[simp] theorem updEntry_threads (s : State) (n : Nat) (f : Entry → Entry) :
    (updEntry s n f).threads = s.threads := rfl
@[simp] theorem updEntry_strands (s : State) (n : Nat) (f : Entry → Entry) :
    (updEntry s n f).strands = s.strands := rfl
@[simp] theorem updEntry_teams (s : State) (n : Nat) (f : Entry → Entry) :
    (updEntry s n f).teams = s.teams := rfl
@[simp] theorem updEntry_mem (s : State) (n : Nat) (f : Entry → Entry) :
    (updEntry s n f).mem = s.mem := rfl
@[simp] theorem updEntry_eng (s : State) (n : Nat) (f : Entry → Entry) :
    (updEntry s n f).eng = s.eng := rfl
@[simp] theorem updEntry_front (s : State) (n : Nat) (f : Entry → Entry) :
    (updEntry s n f).front = s.front := rfl
@[simp] theorem updEntry_seams (s : State) (n : Nat) (f : Entry → Entry) :
    (updEntry s n f).seams = s.seams := rfl
@[simp] theorem updEntry_trust (s : State) (n : Nat) (f : Entry → Entry) :
    (updEntry s n f).trust = s.trust := rfl
@[simp] theorem updEntry_plant (s : State) (n : Nat) (f : Entry → Entry) :
    (updEntry s n f).plant = s.plant := rfl
@[simp] theorem updEntry_fabric (s : State) (n : Nat) (f : Entry → Entry) :
    (updEntry s n f).fabric = s.fabric := rfl

@[simp] theorem updPath_run (s : State) (n p : Nat) (f : Path → Path) :
    (updPath s n p f).run = s.run := rfl
@[simp] theorem updPath_threads (s : State) (n p : Nat) (f : Path → Path) :
    (updPath s n p f).threads = s.threads := rfl
@[simp] theorem updPath_teams (s : State) (n p : Nat) (f : Path → Path) :
    (updPath s n p f).teams = s.teams := rfl
@[simp] theorem updPath_traps (s : State) (n p : Nat) (f : Path → Path) :
    (updPath s n p f).traps = s.traps := rfl
@[simp] theorem updPath_mem (s : State) (n p : Nat) (f : Path → Path) :
    (updPath s n p f).mem = s.mem := rfl
@[simp] theorem updPath_eng (s : State) (n p : Nat) (f : Path → Path) :
    (updPath s n p f).eng = s.eng := rfl
@[simp] theorem updPath_front (s : State) (n p : Nat) (f : Path → Path) :
    (updPath s n p f).front = s.front := rfl
@[simp] theorem updPath_seams (s : State) (n p : Nat) (f : Path → Path) :
    (updPath s n p f).seams = s.seams := rfl
@[simp] theorem updPath_trust (s : State) (n p : Nat) (f : Path → Path) :
    (updPath s n p f).trust = s.trust := rfl
@[simp] theorem updPath_plant (s : State) (n p : Nat) (f : Path → Path) :
    (updPath s n p f).plant = s.plant := rfl
@[simp] theorem updPath_fabric (s : State) (n p : Nat) (f : Path → Path) :
    (updPath s n p f).fabric = s.fabric := rfl

@[simp] theorem withdraw_run (s : State) (p : Entry → Bool) :
    (withdraw s p).run = s.run := rfl
@[simp] theorem withdraw_threads (s : State) (p : Entry → Bool) :
    (withdraw s p).threads = s.threads := rfl
@[simp] theorem withdraw_strands (s : State) (p : Entry → Bool) :
    (withdraw s p).strands = s.strands := rfl
@[simp] theorem withdraw_teams (s : State) (p : Entry → Bool) :
    (withdraw s p).teams = s.teams := rfl
@[simp] theorem withdraw_mem (s : State) (p : Entry → Bool) :
    (withdraw s p).mem = s.mem := rfl
@[simp] theorem withdraw_eng (s : State) (p : Entry → Bool) :
    (withdraw s p).eng = s.eng := rfl
@[simp] theorem withdraw_front (s : State) (p : Entry → Bool) :
    (withdraw s p).front = s.front := rfl
@[simp] theorem withdraw_seams (s : State) (p : Entry → Bool) :
    (withdraw s p).seams = s.seams := rfl
@[simp] theorem withdraw_trust (s : State) (p : Entry → Bool) :
    (withdraw s p).trust = s.trust := rfl
@[simp] theorem withdraw_plant (s : State) (p : Entry → Bool) :
    (withdraw s p).plant = s.plant := rfl
@[simp] theorem withdraw_fabric (s : State) (p : Entry → Bool) :
    (withdraw s p).fabric = s.fabric := rfl

@[simp] theorem onStrand_run (s : State) (c : Ctx) (f : Strand → Strand) :
    (onStrand s c f).run = s.run := rfl
@[simp] theorem onStrand_threads (s : State) (c : Ctx) (f : Strand → Strand) :
    (onStrand s c f).threads = s.threads := rfl
@[simp] theorem onStrand_teams (s : State) (c : Ctx) (f : Strand → Strand) :
    (onStrand s c f).teams = s.teams := rfl
@[simp] theorem onStrand_traps (s : State) (c : Ctx) (f : Strand → Strand) :
    (onStrand s c f).traps = s.traps := rfl
@[simp] theorem onStrand_mem (s : State) (c : Ctx) (f : Strand → Strand) :
    (onStrand s c f).mem = s.mem := rfl
@[simp] theorem onStrand_eng (s : State) (c : Ctx) (f : Strand → Strand) :
    (onStrand s c f).eng = s.eng := rfl
@[simp] theorem onStrand_front (s : State) (c : Ctx) (f : Strand → Strand) :
    (onStrand s c f).front = s.front := rfl
@[simp] theorem onStrand_seams (s : State) (c : Ctx) (f : Strand → Strand) :
    (onStrand s c f).seams = s.seams := rfl
@[simp] theorem onStrand_trust (s : State) (c : Ctx) (f : Strand → Strand) :
    (onStrand s c f).trust = s.trust := rfl
@[simp] theorem onStrand_plant (s : State) (c : Ctx) (f : Strand → Strand) :
    (onStrand s c f).plant = s.plant := rfl
@[simp] theorem onStrand_fabric (s : State) (c : Ctx) (f : Strand → Strand) :
    (onStrand s c f).fabric = s.fabric := rfl

@[simp] theorem writeLanes_run (s : State) (rs : List (Thread × LaneRes)) :
    (writeLanes s rs).run = s.run := rfl
@[simp] theorem writeLanes_strands (s : State) (rs : List (Thread × LaneRes)) :
    (writeLanes s rs).strands = s.strands := rfl
@[simp] theorem writeLanes_teams (s : State) (rs : List (Thread × LaneRes)) :
    (writeLanes s rs).teams = s.teams := rfl
@[simp] theorem writeLanes_traps (s : State) (rs : List (Thread × LaneRes)) :
    (writeLanes s rs).traps = s.traps := rfl
@[simp] theorem writeLanes_mem (s : State) (rs : List (Thread × LaneRes)) :
    (writeLanes s rs).mem = s.mem := rfl
@[simp] theorem writeLanes_eng (s : State) (rs : List (Thread × LaneRes)) :
    (writeLanes s rs).eng = s.eng := rfl
@[simp] theorem writeLanes_front (s : State) (rs : List (Thread × LaneRes)) :
    (writeLanes s rs).front = s.front := rfl
@[simp] theorem writeLanes_seams (s : State) (rs : List (Thread × LaneRes)) :
    (writeLanes s rs).seams = s.seams := rfl
@[simp] theorem writeLanes_trust (s : State) (rs : List (Thread × LaneRes)) :
    (writeLanes s rs).trust = s.trust := rfl
@[simp] theorem writeLanes_plant (s : State) (rs : List (Thread × LaneRes)) :
    (writeLanes s rs).plant = s.plant := rfl
@[simp] theorem writeLanes_fabric (s : State) (rs : List (Thread × LaneRes)) :
    (writeLanes s rs).fabric = s.fabric := rfl

@[simp] theorem pushRb_run (s : State) (c : Ctx) (l : List RBLane) (own : List Write) (r : Bool) (p : Option (BitVec 12)) :
    (pushRb s c l own r p).run = s.run := rfl
@[simp] theorem pushRb_threads (s : State) (c : Ctx) (l : List RBLane) (own : List Write) (r : Bool) (p : Option (BitVec 12)) :
    (pushRb s c l own r p).threads = s.threads := rfl
@[simp] theorem pushRb_teams (s : State) (c : Ctx) (l : List RBLane) (own : List Write) (r : Bool) (p : Option (BitVec 12)) :
    (pushRb s c l own r p).teams = s.teams := rfl
@[simp] theorem pushRb_traps (s : State) (c : Ctx) (l : List RBLane) (own : List Write) (r : Bool) (p : Option (BitVec 12)) :
    (pushRb s c l own r p).traps = s.traps := rfl
@[simp] theorem pushRb_mem (s : State) (c : Ctx) (l : List RBLane) (own : List Write) (r : Bool) (p : Option (BitVec 12)) :
    (pushRb s c l own r p).mem = s.mem := rfl
@[simp] theorem pushRb_eng (s : State) (c : Ctx) (l : List RBLane) (own : List Write) (r : Bool) (p : Option (BitVec 12)) :
    (pushRb s c l own r p).eng = s.eng := rfl
@[simp] theorem pushRb_front (s : State) (c : Ctx) (l : List RBLane) (own : List Write) (r : Bool) (p : Option (BitVec 12)) :
    (pushRb s c l own r p).front = s.front := rfl
@[simp] theorem pushRb_seams (s : State) (c : Ctx) (l : List RBLane) (own : List Write) (r : Bool) (p : Option (BitVec 12)) :
    (pushRb s c l own r p).seams = s.seams := rfl
@[simp] theorem pushRb_trust (s : State) (c : Ctx) (l : List RBLane) (own : List Write) (r : Bool) (p : Option (BitVec 12)) :
    (pushRb s c l own r p).trust = s.trust := rfl
@[simp] theorem pushRb_plant (s : State) (c : Ctx) (l : List RBLane) (own : List Write) (r : Bool) (p : Option (BitVec 12)) :
    (pushRb s c l own r p).plant = s.plant := rfl
@[simp] theorem pushRb_fabric (s : State) (c : Ctx) (l : List RBLane) (own : List Write) (r : Bool) (p : Option (BitVec 12)) :
    (pushRb s c l own r p).fabric = s.fabric := rfl

@[simp] theorem strandWrites_run (s : State) (st : Strand) (ws : List Write) :
    (strandWrites s st ws).run = s.run := rfl
@[simp] theorem strandWrites_threads (s : State) (st : Strand) (ws : List Write) :
    (strandWrites s st ws).threads = s.threads := rfl
@[simp] theorem strandWrites_traps (s : State) (st : Strand) (ws : List Write) :
    (strandWrites s st ws).traps = s.traps := rfl
@[simp] theorem strandWrites_mem (s : State) (st : Strand) (ws : List Write) :
    (strandWrites s st ws).mem = s.mem := rfl
@[simp] theorem strandWrites_eng (s : State) (st : Strand) (ws : List Write) :
    (strandWrites s st ws).eng = s.eng := rfl
@[simp] theorem strandWrites_front (s : State) (st : Strand) (ws : List Write) :
    (strandWrites s st ws).front = s.front := rfl
@[simp] theorem strandWrites_seams (s : State) (st : Strand) (ws : List Write) :
    (strandWrites s st ws).seams = s.seams := rfl
@[simp] theorem strandWrites_trust (s : State) (st : Strand) (ws : List Write) :
    (strandWrites s st ws).trust = s.trust := rfl
@[simp] theorem strandWrites_plant (s : State) (st : Strand) (ws : List Write) :
    (strandWrites s st ws).plant = s.plant := rfl
@[simp] theorem strandWrites_fabric (s : State) (st : Strand) (ws : List Write) :
    (strandWrites s st ws).fabric = s.fabric := rfl

@[simp] theorem issueEvent_threads (s : State) (mk : Nat → MemEv) :
    (issueEvent s mk).threads = s.threads := rfl
@[simp] theorem issueEvent_strands (s : State) (mk : Nat → MemEv) :
    (issueEvent s mk).strands = s.strands := rfl
@[simp] theorem issueEvent_teams (s : State) (mk : Nat → MemEv) :
    (issueEvent s mk).teams = s.teams := rfl
@[simp] theorem issueEvent_traps (s : State) (mk : Nat → MemEv) :
    (issueEvent s mk).traps = s.traps := rfl
@[simp] theorem issueEvent_eng (s : State) (mk : Nat → MemEv) :
    (issueEvent s mk).eng = s.eng := rfl
@[simp] theorem issueEvent_front (s : State) (mk : Nat → MemEv) :
    (issueEvent s mk).front = s.front := rfl
@[simp] theorem issueEvent_seams (s : State) (mk : Nat → MemEv) :
    (issueEvent s mk).seams = s.seams := rfl
@[simp] theorem issueEvent_trust (s : State) (mk : Nat → MemEv) :
    (issueEvent s mk).trust = s.trust := rfl
@[simp] theorem issueEvent_plant (s : State) (mk : Nat → MemEv) :
    (issueEvent s mk).plant = s.plant := rfl
@[simp] theorem issueEvent_fabric (s : State) (mk : Nat → MemEv) :
    (issueEvent s mk).fabric = s.fabric := rfl

@[simp] theorem dropEvent_run (s : State) (n : Nat) :
    (dropEvent s n).run = s.run := rfl
@[simp] theorem dropEvent_threads (s : State) (n : Nat) :
    (dropEvent s n).threads = s.threads := rfl
@[simp] theorem dropEvent_strands (s : State) (n : Nat) :
    (dropEvent s n).strands = s.strands := rfl
@[simp] theorem dropEvent_teams (s : State) (n : Nat) :
    (dropEvent s n).teams = s.teams := rfl
@[simp] theorem dropEvent_traps (s : State) (n : Nat) :
    (dropEvent s n).traps = s.traps := rfl
@[simp] theorem dropEvent_eng (s : State) (n : Nat) :
    (dropEvent s n).eng = s.eng := rfl
@[simp] theorem dropEvent_front (s : State) (n : Nat) :
    (dropEvent s n).front = s.front := rfl
@[simp] theorem dropEvent_seams (s : State) (n : Nat) :
    (dropEvent s n).seams = s.seams := rfl
@[simp] theorem dropEvent_trust (s : State) (n : Nat) :
    (dropEvent s n).trust = s.trust := rfl
@[simp] theorem dropEvent_plant (s : State) (n : Nat) :
    (dropEvent s n).plant = s.plant := rfl
@[simp] theorem dropEvent_fabric (s : State) (n : Nat) :
    (dropEvent s n).fabric = s.fabric := rfl

@[simp] theorem passTurn_run (s : State) (n : Nat) : (passTurn s n).run = s.run := by
  unfold passTurn; split
  · rfl
  · split <;> rfl
@[simp] theorem passTurn_threads (s : State) (n : Nat) : (passTurn s n).threads = s.threads := by
  unfold passTurn; split
  · rfl
  · split <;> rfl
@[simp] theorem passTurn_teams (s : State) (n : Nat) : (passTurn s n).teams = s.teams := by
  unfold passTurn; split
  · rfl
  · split <;> rfl
@[simp] theorem passTurn_traps (s : State) (n : Nat) : (passTurn s n).traps = s.traps := by
  unfold passTurn; split
  · rfl
  · split <;> rfl
@[simp] theorem passTurn_mem (s : State) (n : Nat) : (passTurn s n).mem = s.mem := by
  unfold passTurn; split
  · rfl
  · split <;> rfl
@[simp] theorem passTurn_eng (s : State) (n : Nat) : (passTurn s n).eng = s.eng := by
  unfold passTurn; split
  · rfl
  · split <;> rfl
@[simp] theorem passTurn_front (s : State) (n : Nat) : (passTurn s n).front = s.front := by
  unfold passTurn; split
  · rfl
  · split <;> rfl
@[simp] theorem passTurn_seams (s : State) (n : Nat) : (passTurn s n).seams = s.seams := by
  unfold passTurn; split
  · rfl
  · split <;> rfl
@[simp] theorem passTurn_trust (s : State) (n : Nat) : (passTurn s n).trust = s.trust := by
  unfold passTurn; split
  · rfl
  · split <;> rfl
@[simp] theorem passTurn_plant (s : State) (n : Nat) : (passTurn s n).plant = s.plant := by
  unfold passTurn; split
  · rfl
  · split <;> rfl
@[simp] theorem passTurn_fabric (s : State) (n : Nat) : (passTurn s n).fabric = s.fabric := by
  unfold passTurn; split
  · rfl
  · split <;> rfl
@[simp] theorem yieldIfParked_run (s : State) (n : Nat) : (yieldIfParked s n).run = s.run := by
  unfold yieldIfParked; split
  · rfl
  · split
    · split <;> simp
    · simp
@[simp] theorem yieldIfParked_threads (s : State) (n : Nat) : (yieldIfParked s n).threads = s.threads := by
  unfold yieldIfParked; split
  · rfl
  · split
    · split <;> simp
    · simp
@[simp] theorem yieldIfParked_teams (s : State) (n : Nat) : (yieldIfParked s n).teams = s.teams := by
  unfold yieldIfParked; split
  · rfl
  · split
    · split <;> simp
    · simp
@[simp] theorem yieldIfParked_traps (s : State) (n : Nat) : (yieldIfParked s n).traps = s.traps := by
  unfold yieldIfParked; split
  · rfl
  · split
    · split <;> simp
    · simp
@[simp] theorem yieldIfParked_mem (s : State) (n : Nat) : (yieldIfParked s n).mem = s.mem := by
  unfold yieldIfParked; split
  · rfl
  · split
    · split <;> simp
    · simp
@[simp] theorem yieldIfParked_eng (s : State) (n : Nat) : (yieldIfParked s n).eng = s.eng := by
  unfold yieldIfParked; split
  · rfl
  · split
    · split <;> simp
    · simp
@[simp] theorem yieldIfParked_front (s : State) (n : Nat) : (yieldIfParked s n).front = s.front := by
  unfold yieldIfParked; split
  · rfl
  · split
    · split <;> simp
    · simp
@[simp] theorem yieldIfParked_seams (s : State) (n : Nat) : (yieldIfParked s n).seams = s.seams := by
  unfold yieldIfParked; split
  · rfl
  · split
    · split <;> simp
    · simp
@[simp] theorem yieldIfParked_trust (s : State) (n : Nat) : (yieldIfParked s n).trust = s.trust := by
  unfold yieldIfParked; split
  · rfl
  · split
    · split <;> simp
    · simp
@[simp] theorem yieldIfParked_plant (s : State) (n : Nat) : (yieldIfParked s n).plant = s.plant := by
  unfold yieldIfParked; split
  · rfl
  · split
    · split <;> simp
    · simp
@[simp] theorem yieldIfParked_fabric (s : State) (n : Nat) : (yieldIfParked s n).fabric = s.fabric := by
  unfold yieldIfParked; split
  · rfl
  · split
    · split <;> simp
    · simp
@[simp] theorem issued_threads (s : State) : (issued s).threads = s.threads := by
  unfold issued; split <;> simp
@[simp] theorem issued_teams (s : State) : (issued s).teams = s.teams := by
  unfold issued; split <;> simp
@[simp] theorem issued_traps (s : State) : (issued s).traps = s.traps := by
  unfold issued; split <;> simp
@[simp] theorem issued_mem (s : State) : (issued s).mem = s.mem := by
  unfold issued; split <;> simp
@[simp] theorem issued_eng (s : State) : (issued s).eng = s.eng := by
  unfold issued; split <;> simp
@[simp] theorem issued_front (s : State) : (issued s).front = s.front := by
  unfold issued; split <;> simp
@[simp] theorem issued_seams (s : State) : (issued s).seams = s.seams := by
  unfold issued; split <;> simp
@[simp] theorem issued_trust (s : State) : (issued s).trust = s.trust := by
  unfold issued; split <;> simp
@[simp] theorem issued_plant (s : State) : (issued s).plant = s.plant := by
  unfold issued; split <;> simp
@[simp] theorem issued_fabric (s : State) : (issued s).fabric = s.fabric := by
  unfold issued; split <;> simp

@[simp] theorem putMarker_run (s : State) (c : Ctx) : (putMarker s c).run = s.run := by
  unfold putMarker; split <;> rfl
@[simp] theorem finish_run (s : State) (c : Ctx) : (finish s c).run = s.run := by simp [finish]
@[simp] theorem finishAt_run (s : State) (c : Ctx) (pc : DWord) : (finishAt s c pc).run = s.run := by simp [finishAt]
@[simp] theorem putMarker_threads (s : State) (c : Ctx) : (putMarker s c).threads = s.threads := by
  unfold putMarker; split <;> rfl
@[simp] theorem finish_threads (s : State) (c : Ctx) : (finish s c).threads = s.threads := by simp [finish]
@[simp] theorem finishAt_threads (s : State) (c : Ctx) (pc : DWord) : (finishAt s c pc).threads = s.threads := by simp [finishAt]
@[simp] theorem putMarker_teams (s : State) (c : Ctx) : (putMarker s c).teams = s.teams := by
  unfold putMarker; split <;> rfl
@[simp] theorem finish_teams (s : State) (c : Ctx) : (finish s c).teams = s.teams := by simp [finish]
@[simp] theorem finishAt_teams (s : State) (c : Ctx) (pc : DWord) : (finishAt s c pc).teams = s.teams := by simp [finishAt]
@[simp] theorem putMarker_traps (s : State) (c : Ctx) : (putMarker s c).traps = s.traps := by
  unfold putMarker; split <;> rfl
@[simp] theorem finish_traps (s : State) (c : Ctx) : (finish s c).traps = s.traps := by simp [finish]
@[simp] theorem finishAt_traps (s : State) (c : Ctx) (pc : DWord) : (finishAt s c pc).traps = s.traps := by simp [finishAt]
@[simp] theorem putMarker_mem (s : State) (c : Ctx) : (putMarker s c).mem = s.mem := by
  unfold putMarker; split <;> rfl
@[simp] theorem finish_mem (s : State) (c : Ctx) : (finish s c).mem = s.mem := by simp [finish]
@[simp] theorem finishAt_mem (s : State) (c : Ctx) (pc : DWord) : (finishAt s c pc).mem = s.mem := by simp [finishAt]
@[simp] theorem putMarker_eng (s : State) (c : Ctx) : (putMarker s c).eng = s.eng := by
  unfold putMarker; split <;> rfl
@[simp] theorem finish_eng (s : State) (c : Ctx) : (finish s c).eng = s.eng := by simp [finish]
@[simp] theorem finishAt_eng (s : State) (c : Ctx) (pc : DWord) : (finishAt s c pc).eng = s.eng := by simp [finishAt]
@[simp] theorem putMarker_front (s : State) (c : Ctx) : (putMarker s c).front = s.front := by
  unfold putMarker; split <;> rfl
@[simp] theorem finish_front (s : State) (c : Ctx) : (finish s c).front = s.front := by simp [finish]
@[simp] theorem finishAt_front (s : State) (c : Ctx) (pc : DWord) : (finishAt s c pc).front = s.front := by simp [finishAt]
@[simp] theorem putMarker_seams (s : State) (c : Ctx) : (putMarker s c).seams = s.seams := by
  unfold putMarker; split <;> rfl
@[simp] theorem finish_seams (s : State) (c : Ctx) : (finish s c).seams = s.seams := by simp [finish]
@[simp] theorem finishAt_seams (s : State) (c : Ctx) (pc : DWord) : (finishAt s c pc).seams = s.seams := by simp [finishAt]
@[simp] theorem putMarker_trust (s : State) (c : Ctx) : (putMarker s c).trust = s.trust := by
  unfold putMarker; split <;> rfl
@[simp] theorem finish_trust (s : State) (c : Ctx) : (finish s c).trust = s.trust := by simp [finish]
@[simp] theorem finishAt_trust (s : State) (c : Ctx) (pc : DWord) : (finishAt s c pc).trust = s.trust := by simp [finishAt]
@[simp] theorem putMarker_plant (s : State) (c : Ctx) : (putMarker s c).plant = s.plant := by
  unfold putMarker; split <;> rfl
@[simp] theorem finish_plant (s : State) (c : Ctx) : (finish s c).plant = s.plant := by simp [finish]
@[simp] theorem finishAt_plant (s : State) (c : Ctx) (pc : DWord) : (finishAt s c pc).plant = s.plant := by simp [finishAt]
@[simp] theorem putMarker_fabric (s : State) (c : Ctx) : (putMarker s c).fabric = s.fabric := by
  unfold putMarker; split <;> rfl
@[simp] theorem finish_fabric (s : State) (c : Ctx) : (finish s c).fabric = s.fabric := by simp [finish]
@[simp] theorem finishAt_fabric (s : State) (c : Ctx) (pc : DWord) : (finishAt s c pc).fabric = s.fabric := by simp [finishAt]

@[simp] theorem addReport_run (s : State) (x : Report) :
    (addReport s x).run = s.run := rfl
@[simp] theorem addReport_threads (s : State) (x : Report) :
    (addReport s x).threads = s.threads := rfl
@[simp] theorem addReport_strands (s : State) (x : Report) :
    (addReport s x).strands = s.strands := rfl
@[simp] theorem addReport_teams (s : State) (x : Report) :
    (addReport s x).teams = s.teams := rfl
@[simp] theorem addReport_traps (s : State) (x : Report) :
    (addReport s x).traps = s.traps := rfl
@[simp] theorem addReport_mem (s : State) (x : Report) :
    (addReport s x).mem = s.mem := rfl
@[simp] theorem addReport_eng (s : State) (x : Report) :
    (addReport s x).eng = s.eng := rfl
@[simp] theorem addReport_seams (s : State) (x : Report) :
    (addReport s x).seams = s.seams := rfl
@[simp] theorem addReport_trust (s : State) (x : Report) :
    (addReport s x).trust = s.trust := rfl
@[simp] theorem addReport_plant (s : State) (x : Report) :
    (addReport s x).plant = s.plant := rfl
@[simp] theorem addReport_fabric (s : State) (x : Report) :
    (addReport s x).fabric = s.fabric := rfl

@[simp] theorem putLink_run (s : State) (d : LinkDir) :
    (putLink s d).run = s.run := rfl
@[simp] theorem putLink_threads (s : State) (d : LinkDir) :
    (putLink s d).threads = s.threads := rfl
@[simp] theorem putLink_strands (s : State) (d : LinkDir) :
    (putLink s d).strands = s.strands := rfl
@[simp] theorem putLink_teams (s : State) (d : LinkDir) :
    (putLink s d).teams = s.teams := rfl
@[simp] theorem putLink_traps (s : State) (d : LinkDir) :
    (putLink s d).traps = s.traps := rfl
@[simp] theorem putLink_mem (s : State) (d : LinkDir) :
    (putLink s d).mem = s.mem := rfl
@[simp] theorem putLink_eng (s : State) (d : LinkDir) :
    (putLink s d).eng = s.eng := rfl
@[simp] theorem putLink_front (s : State) (d : LinkDir) :
    (putLink s d).front = s.front := rfl
@[simp] theorem putLink_seams (s : State) (d : LinkDir) :
    (putLink s d).seams = s.seams := rfl
@[simp] theorem putLink_trust (s : State) (d : LinkDir) :
    (putLink s d).trust = s.trust := rfl
@[simp] theorem putLink_fabric (s : State) (d : LinkDir) :
    (putLink s d).fabric = s.fabric := rfl

@[simp] theorem signEngine_run (s : State) (c : Cmd) (va : Nat) (bs : List Byte) :
    (signEngine s c va bs).run = s.run := rfl
@[simp] theorem signEngine_threads (s : State) (c : Cmd) (va : Nat) (bs : List Byte) :
    (signEngine s c va bs).threads = s.threads := rfl
@[simp] theorem signEngine_strands (s : State) (c : Cmd) (va : Nat) (bs : List Byte) :
    (signEngine s c va bs).strands = s.strands := rfl
@[simp] theorem signEngine_traps (s : State) (c : Cmd) (va : Nat) (bs : List Byte) :
    (signEngine s c va bs).traps = s.traps := rfl
@[simp] theorem signEngine_mem (s : State) (c : Cmd) (va : Nat) (bs : List Byte) :
    (signEngine s c va bs).mem = s.mem := rfl
@[simp] theorem signEngine_eng (s : State) (c : Cmd) (va : Nat) (bs : List Byte) :
    (signEngine s c va bs).eng = s.eng := rfl
@[simp] theorem signEngine_front (s : State) (c : Cmd) (va : Nat) (bs : List Byte) :
    (signEngine s c va bs).front = s.front := rfl
@[simp] theorem signEngine_seams (s : State) (c : Cmd) (va : Nat) (bs : List Byte) :
    (signEngine s c va bs).seams = s.seams := rfl
@[simp] theorem signEngine_trust (s : State) (c : Cmd) (va : Nat) (bs : List Byte) :
    (signEngine s c va bs).trust = s.trust := rfl
@[simp] theorem signEngine_plant (s : State) (c : Cmd) (va : Nat) (bs : List Byte) :
    (signEngine s c va bs).plant = s.plant := rfl
@[simp] theorem signEngine_fabric (s : State) (c : Cmd) (va : Nat) (bs : List Byte) :
    (signEngine s c va bs).fabric = s.fabric := rfl

@[simp] theorem updCmd_run (s : State) (n : Nat) (f : Cmd → Cmd) :
    (updCmd s n f).run = s.run := rfl
@[simp] theorem updCmd_threads (s : State) (n : Nat) (f : Cmd → Cmd) :
    (updCmd s n f).threads = s.threads := rfl
@[simp] theorem updCmd_strands (s : State) (n : Nat) (f : Cmd → Cmd) :
    (updCmd s n f).strands = s.strands := rfl
@[simp] theorem updCmd_teams (s : State) (n : Nat) (f : Cmd → Cmd) :
    (updCmd s n f).teams = s.teams := rfl
@[simp] theorem updCmd_traps (s : State) (n : Nat) (f : Cmd → Cmd) :
    (updCmd s n f).traps = s.traps := rfl
@[simp] theorem updCmd_mem (s : State) (n : Nat) (f : Cmd → Cmd) :
    (updCmd s n f).mem = s.mem := rfl
@[simp] theorem updCmd_front (s : State) (n : Nat) (f : Cmd → Cmd) :
    (updCmd s n f).front = s.front := rfl
@[simp] theorem updCmd_seams (s : State) (n : Nat) (f : Cmd → Cmd) :
    (updCmd s n f).seams = s.seams := rfl
@[simp] theorem updCmd_trust (s : State) (n : Nat) (f : Cmd → Cmd) :
    (updCmd s n f).trust = s.trust := rfl
@[simp] theorem updCmd_plant (s : State) (n : Nat) (f : Cmd → Cmd) :
    (updCmd s n f).plant = s.plant := rfl
@[simp] theorem updCmd_fabric (s : State) (n : Nat) (f : Cmd → Cmd) :
    (updCmd s n f).fabric = s.fabric := rfl

@[simp] theorem updSeam_run (s : State) (n : Nat) (f : SeamEntry → SeamEntry) :
    (updSeam s n f).run = s.run := rfl
@[simp] theorem updSeam_threads (s : State) (n : Nat) (f : SeamEntry → SeamEntry) :
    (updSeam s n f).threads = s.threads := rfl
@[simp] theorem updSeam_strands (s : State) (n : Nat) (f : SeamEntry → SeamEntry) :
    (updSeam s n f).strands = s.strands := rfl
@[simp] theorem updSeam_teams (s : State) (n : Nat) (f : SeamEntry → SeamEntry) :
    (updSeam s n f).teams = s.teams := rfl
@[simp] theorem updSeam_traps (s : State) (n : Nat) (f : SeamEntry → SeamEntry) :
    (updSeam s n f).traps = s.traps := rfl
@[simp] theorem updSeam_mem (s : State) (n : Nat) (f : SeamEntry → SeamEntry) :
    (updSeam s n f).mem = s.mem := rfl
@[simp] theorem updSeam_eng (s : State) (n : Nat) (f : SeamEntry → SeamEntry) :
    (updSeam s n f).eng = s.eng := rfl
@[simp] theorem updSeam_front (s : State) (n : Nat) (f : SeamEntry → SeamEntry) :
    (updSeam s n f).front = s.front := rfl
@[simp] theorem updSeam_trust (s : State) (n : Nat) (f : SeamEntry → SeamEntry) :
    (updSeam s n f).trust = s.trust := rfl
@[simp] theorem updSeam_plant (s : State) (n : Nat) (f : SeamEntry → SeamEntry) :
    (updSeam s n f).plant = s.plant := rfl
@[simp] theorem updSeam_fabric (s : State) (n : Nat) (f : SeamEntry → SeamEntry) :
    (updSeam s n f).fabric = s.fabric := rfl

@[simp] theorem queuePacket_run (s : State) (p : Packet) :
    (queuePacket s p).run = s.run := rfl
@[simp] theorem queuePacket_threads (s : State) (p : Packet) :
    (queuePacket s p).threads = s.threads := rfl
@[simp] theorem queuePacket_strands (s : State) (p : Packet) :
    (queuePacket s p).strands = s.strands := rfl
@[simp] theorem queuePacket_teams (s : State) (p : Packet) :
    (queuePacket s p).teams = s.teams := rfl
@[simp] theorem queuePacket_traps (s : State) (p : Packet) :
    (queuePacket s p).traps = s.traps := rfl
@[simp] theorem queuePacket_mem (s : State) (p : Packet) :
    (queuePacket s p).mem = s.mem := rfl
@[simp] theorem queuePacket_eng (s : State) (p : Packet) :
    (queuePacket s p).eng = s.eng := rfl
@[simp] theorem queuePacket_front (s : State) (p : Packet) :
    (queuePacket s p).front = s.front := rfl
@[simp] theorem queuePacket_seams (s : State) (p : Packet) :
    (queuePacket s p).seams = s.seams := rfl
@[simp] theorem queuePacket_trust (s : State) (p : Packet) :
    (queuePacket s p).trust = s.trust := rfl
@[simp] theorem queuePacket_plant (s : State) (p : Packet) :
    (queuePacket s p).plant = s.plant := rfl

@[simp] theorem haltDevice_threads (s : State) (d : Bool) :
    (haltDevice s d).threads = s.threads := rfl
@[simp] theorem haltDevice_strands (s : State) (d : Bool) :
    (haltDevice s d).strands = s.strands := rfl
@[simp] theorem haltDevice_teams (s : State) (d : Bool) :
    (haltDevice s d).teams = s.teams := rfl
@[simp] theorem haltDevice_traps (s : State) (d : Bool) :
    (haltDevice s d).traps = s.traps := rfl
@[simp] theorem haltDevice_mem (s : State) (d : Bool) :
    (haltDevice s d).mem = s.mem := rfl
@[simp] theorem haltDevice_eng (s : State) (d : Bool) :
    (haltDevice s d).eng = s.eng := rfl
@[simp] theorem haltDevice_front (s : State) (d : Bool) :
    (haltDevice s d).front = s.front := rfl
@[simp] theorem haltDevice_seams (s : State) (d : Bool) :
    (haltDevice s d).seams = s.seams := rfl
@[simp] theorem haltDevice_trust (s : State) (d : Bool) :
    (haltDevice s d).trust = s.trust := rfl
@[simp] theorem haltDevice_fabric (s : State) (d : Bool) :
    (haltDevice s d).fabric = s.fabric := rfl

/-- What a message on a link does: it takes a permit, or it waits behind the others, and nothing but the link changes. -/
theorem sendMessage_cases (s : State) (die cluster : Nat) (toHead : Bool) (m : LinkMsg) :
    (∃ d, 0 < (linkDir s die cluster toHead).permits ∧ sendMessage s die cluster toHead m = (putLink s d, true) ∧
      d.permits + 1 = (linkDir s die cluster toHead).permits ∧ d.held = (linkDir s die cluster toHead).held) ∨
    (∃ d, (linkDir s die cluster toHead).permits = 0 ∧ sendMessage s die cluster toHead m = (putLink s d, false) ∧
      d.permits = 0 ∧ d.held = (linkDir s die cluster toHead).held ++ [m]) := by
  let d := linkDir s die cluster toHead
  by_cases h : d.permits = 0
  · exact .inr ⟨{ d with held := d.held ++ [m] }, h, by simp [sendMessage, h, d], h, rfl⟩
  · exact .inl ⟨{ d with permits := d.permits - 1, flight := d.flight + 1 }, Nat.pos_of_ne_zero h,
      by simp [sendMessage, h, d], Nat.sub_add_cancel (Nat.pos_of_ne_zero h), rfl⟩

end Sys2Proof.Machine
end

