-- ==== Sys2Proof/Laws/Coherence.lean ====
section
/-! SUPPORT. Every operation that writes memory keeps it in its canonical form; the operations that only read it, or that
change tags, poison, copies or counts, leave its bytes. -/

namespace Sys2Proof.Machine

/-- Memory of a state is in its canonical form. -/
abbrev State.canonical (s : State) : Prop := Memory.wf s.mem.cells = true

/-- The memory of the reset state has the canonical form. -/
theorem canonical_reset : State.reset.canonical := rfl

/-! ### Operations that write no byte -/

@[simp] theorem setTag_cells (m : MemState) (g : Nat) (b : Bool) : (setTag m g b).cells = m.cells := rfl

@[simp] theorem addPoison_cells (m : MemState) (l : Nat) (p : BitVec 12) : (addPoison m l p).cells = m.cells := rfl

@[simp] theorem countWrite_cells (m : MemState) (l k : Nat) (g : BitVec 256) : (countWrite m l k g).cells = m.cells := by
  unfold countWrite; dsimp only; split <;> rfl

@[simp] theorem writeError_mem (s : State) (die : Nat) (src : BitVec 4) (a : Nat) : (writeError s die src a).1.mem = s.mem := rfl

@[simp] theorem verifyLine_cells (s : State) (l k : Nat) : (verifyLine s l k).mem.cells = s.mem.cells := by
  unfold verifyLine; split
  · rfl
  · simp

@[simp] theorem putTags_cells : ∀ (xs : List (Nat × Bool)) (m : MemState), (putTags m xs).cells = m.cells
  | [], _ => rfl
  | (g, b) :: xs, m => by rw [putTags, putTags_cells xs]; rfl

/-- A fold of changes that leave the bytes leaves the bytes. -/
theorem foldl_cells {α : Type} (f : MemState → α → MemState) (h : ∀ m x, (f m x).cells = m.cells) :
    ∀ (l : List α) (m : MemState), (l.foldl f m).cells = m.cells
  | [], _ => rfl
  | x :: l, m => by rw [List.foldl_cons, foldl_cells f h l, h]

/-- A fold of changes that keep a property of the state keeps it. -/
theorem foldl_keeps {α β : Type} (P : β → Prop) (f : β → α → β) (h : ∀ s x, P s → P (f s x)) :
    ∀ (l : List α) (s : β), P s → P (l.foldl f s)
  | [], _, hs => hs
  | x :: l, s, hs => foldl_keeps P f h l (f s x) (h s x hs)

/-! ### Writes at the point of coherence -/

theorem canonical_drainReds (s : State) (line : Nat) (h : s.canonical) : (drainReds s line).canonical := by
  unfold drainReds
  split
  · exact h
  · exact foldl_keeps (fun m : MemState => Memory.wf m.cells = true) _ (fun m x hm => wf_cellPuts _ _ _ hm) _ _ h

theorem canonical_writeLine (s : State) (core : Option Nat) (slot pa : Nat) (bs : List Byte) (tag : Option Bool)
    (h : s.canonical) : (writeLine s core slot pa bs tag).canonical := by
  have h1 : (drainReds s (lineOf pa)).canonical := canonical_drainReds s _ h
  unfold writeLine State.canonical
  simp only []
  split <;> split <;>
    simp only [countWrite_cells, foldl_cells (fun m g => setTag m g (tag.getD false)) (fun _ _ => rfl), verifyLine_cells] <;>
    exact wf_cellPuts _ _ _ h1

theorem canonical_writePhys (s : State) (core : Option Nat) (slot pa : Nat) (bs : List Byte) (tag : Option Bool)
    (h : s.canonical) : (writePhys s core slot pa bs tag).canonical :=
  foldl_keeps State.canonical _ (fun s x hs => canonical_writeLine s core slot x.1 x.2 tag hs) _ s h

theorem canonical_readPhys (s : State) (slot pa n : Nat) (h : s.canonical) : (readPhys s slot pa n).1.canonical :=
  foldl_keeps State.canonical _ (fun s l hs => by
    rw [State.canonical, verifyLine_cells]; exact canonical_drainReds s l hs) _ s h

theorem canonical_drainLine (s : State) (tid : Nat) (core : Option Nat) (x : StagedLine) (h : s.canonical) :
    (drainLine s tid core x).canonical := by
  have h1 : (drainReds s x.line).canonical := canonical_drainReds s _ h
  unfold drainLine State.canonical
  simp only []
  split <;> split <;> split <;>
    simp only [updThreads_mem, countWrite_cells, addPoison_cells, putTags_cells, verifyLine_cells] <;> exact wf_foldl_cellPut _ _ h1

theorem canonical_drainTeam (s : State) (tid : Nat) (h : s.canonical) : (drainTeam s tid).canonical := by
  unfold drainTeam
  split
  · exact h
  · exact foldl_keeps State.canonical _ (fun s x hs => canonical_drainLine s _ _ x hs) _ s h

theorem canonical_exposeTeam (s : State) (tid : Nat) (h : s.canonical) : (exposeTeam s tid).canonical := by
  unfold exposeTeam
  split
  · exact h
  · split
    · exact h
    · exact canonical_drainTeam s tid h

theorem canonical_logUndo (s : State) (tid : Nat) (weight : Bool) (off n : Nat) (h : s.canonical) :
    (logUndo s tid weight off n).canonical := by
  unfold logUndo
  split
  · exact h
  · split
    · exact h
    · dsimp only
      split
      · exact h
      · exact canonical_exposeTeam s tid h

theorem canonical_writeBuf (s : State) (tid : Nat) (weight : Bool) (off : Nat) (bs : List Byte) (h : s.canonical) :
    (writeBuf s tid weight off bs).canonical :=
  canonical_logUndo s tid weight off bs.length h

theorem canonical_drainRange (s : State) (pa n : Nat) (h : s.canonical) : (drainRange s pa n).canonical :=
  foldl_keeps State.canonical _ (fun s l hs => canonical_drainReds s l hs) _ s h

theorem canonical_aliasWrite (s : State) (core : Option Nat) (unit u : Nat) (bs : List Byte) (h : s.canonical) :
    (aliasWrite s core unit u bs).canonical := by
  unfold aliasWrite
  refine foldl_keeps State.canonical _ (fun s g hs => ?_) _ s h
  have h1 := canonical_drainRange s (groupAt unit g) 24 hs
  dsimp only
  split
  · rw [State.canonical]
    dsimp only
    rw [foldl_cells (fun m l => addPoison m l _) (fun _ _ => rfl)]
    exact canonical_writePhys _ core 0 _ _ none h1
  · exact canonical_writePhys _ core 0 _ _ none h1

theorem canonical_writeRoster (s : State) (slot off : Nat) (bs : List Byte) (h : s.canonical) :
    (writeRoster s slot off bs).canonical := by
  unfold writeRoster startEpoch
  dsimp only
  exact h

theorem canonical_writeLoc (s : State) (core : Option Nat) (loc : Loc) (bs : List Byte) (tag : Option Bool) (h : s.canonical) :
    (writeLoc s core loc bs tag).canonical := by
  unfold writeLoc
  split
  · exact canonical_writePhys s core _ _ bs tag h
  · exact canonical_writeBuf s _ _ _ bs h
  · exact canonical_writeBuf s _ _ _ bs h
  · exact canonical_aliasWrite s core _ _ bs h
  · split
    · exact canonical_writePhys s none 0 _ bs none h
    · split
      · exact canonical_writeRoster s _ _ bs h
      · exact h
  · exact h

theorem canonical_writeLocs (core : Option Nat) (tag : Option Bool) :
    ∀ (locs : List (Loc × Nat)) (s : State) (bs : List Byte), s.canonical → (writeLocs s core tag locs bs).canonical
  | [], _, _, h => h
  | (l, n) :: rest, s, bs, h => canonical_writeLocs core tag rest _ _ (canonical_writeLoc s core l (bs.take n) tag h)

theorem canonical_writeEntry (s : State) (pa : Nat) (e : BitVec 128) (h : s.canonical) : (writeEntry s pa e).canonical :=
  canonical_writePhys s none 0 pa _ none h

/-! ### Frames -/

/-- Keys that are dropped leave the rest above its bound. -/
theorem sAbove_sdrop {α : Type} (p : Nat → Bool) : ∀ (m : Sparse α) (b : Nat), sAbove b m = true → sAbove b (sdrop p m) = true
  | [], _, _ => rfl
  | (j, x) :: m, b, h => by
    simp only [sAbove, Bool.and_eq_true, decide_eq_true_eq] at h
    have h1 := sAbove_sdrop p m b h.2
    unfold sdrop at h1 ⊢
    by_cases hp : p j = true
    · simp [hp, h1]
    · simp [hp, sAbove, h.1, h1]

/-- Data with some keys at their default stays in canonical form. -/
theorem swf_sdrop {α : Type} [DecidableEq α] (d : α) (p : Nat → Bool) :
    ∀ (m : Sparse α), swf d m = true → swf d (sdrop p m) = true
  | [], _ => rfl
  | (j, x) :: m, h => by
    have h' := (swf_cons d j x m).1 h
    have h1 := swf_sdrop d p m h'.2.2
    have h2 := sAbove_sdrop p m j h'.1
    unfold sdrop at h1 h2 ⊢
    by_cases hp : p j = true
    · simp [hp, h1]
    · simp [hp, swf_cons, h2, h'.2.1, h1]

theorem canonical_zeroFrame (s : State) (pa slot : Nat) (h : s.canonical) : (zeroFrame s pa slot).canonical := by
  have h1 : Memory.wf (sdrop (fun a => decide (pa ≤ a) && decide (a < pa + 65536)) s.mem.cells) = true := swf_sdrop _ _ _ h
  unfold zeroFrame
  dsimp only
  split
  · exact h1
  · exact foldl_keeps (fun m : MemState => Memory.wf m.cells = true) _ (fun m l hm => by rw [countWrite_cells]; exact hm) _ _ h1

theorem canonical_copyFrame (s : State) (a b readSlot slot : Nat) (h : s.canonical) : (copyFrame s a b readSlot slot).canonical :=
  foldl_keeps (fun l : List Host.Cell => Memory.wf l = true) _ (fun l c hl => wf_cellPut l _ c.2 hl) _ _
    (canonical_zeroFrame _ b slot (canonical_readPhys s readSlot a 65536 h))

end Sys2Proof.Machine
end

