-- ==== Sys2Proof/Laws/Lanes.lean ====
section
/-! SUPPORT. What the shared lane and uniform frames do: when they answer a next state, and which. -/

namespace Sys2Proof.Machine

/-- Two changes of the same records, one after the other. -/
theorem mapIf_mapIf {α : Type} (p : α → Bool) (f g : α → α) (l : List α) (h : ∀ x, p (f x) = p x) :
    mapIf p g (mapIf p f l) = mapIf p (fun x => g (f x)) l := by
  simp only [mapIf, List.map_map]
  apply List.map_congr_left
  intro x _
  cases hx : p x <;> simp [Function.comp, hx, h x]

/-- Two changes of one strand. -/
theorem updStrand_updStrand (s : State) (n : Nat) (f g : Strand → Strand) (h : ∀ st, (f st).sid = st.sid) :
    updStrand (updStrand s n f) n g = updStrand s n fun st => g (f st) := by
  simp only [updStrand]
  rw [mapIf_mapIf]
  intro st
  simp [h st]

/-- The same change in different words. -/
theorem issuingStrand_congr {s : State} {c : Ctx} {f g : Strand → Strand} (h : ∀ st, f st = g st) :
    issuingStrand s c f = issuingStrand s c g := by
  have : f = g := funext h
  rw [this]

/-- The end of an instruction that goes on changes the issuing strand alone. -/
theorem finish_eq (s : State) (c : Ctx) : finish s c = updStrand s c.st.sid (nextWord c) := by
  unfold finish putMarker updPath
  cases h : markerOf c.word
  · rw [if_neg (by simp)]
    congr 1
    funext st
    simp [nextWord, marked, h]
  · rw [if_pos rfl, updStrand_updStrand]
    · congr 1
      funext st
      simp [nextWord, marked, h]
    · intro st; rfl

/-- The end of an instruction that sets the PC changes the issuing strand alone. -/
theorem finishAt_eq (s : State) (c : Ctx) (pc : DWord) : finishAt s c pc = updStrand s c.st.sid (nextAt c pc) := by
  unfold finishAt putMarker updPath
  cases h : markerOf c.word
  · rw [if_neg (by simp)]
    congr 1
    funext st
    simp [nextAt, marked, h]
  · rw [if_pos rfl, updStrand_updStrand]
    · congr 1
      funext st
      simp [nextAt, marked, h]
    · intro st; rfl

/-- An s register leaves the strand's number. -/
@[simp] theorem setS_sid (st : Strand) (n : Nat) (w : DWord) : (st.setS n w).sid = st.sid := by
  unfold Strand.setS; split <;> rfl

/-- A k register leaves the strand's number. -/
@[simp] theorem setK_sid (st : Strand) (n : Nat) (x : Cap) : (st.setK n x).sid = st.sid := rfl

/-- A meaning runs in the context of its path. -/
theorem inCtx_next {s : State} {c : Ctx} (h : ctxOf s = some c) (k : Ctx → State) : inCtx s k = .next (k c) := by
  simp [inCtx, h]

/-- No lane fails, so no lane is filed. -/
theorem failures_nil {f : Thread → LaneRes} : ∀ (ts : List Thread), (∀ t ∈ ts, (f t).fail = none) →
    failures (ts.map fun t => (t, f t)) = []
  | [], _ => rfl
  | t :: ts, h => by
    have h1 := h t (by simp)
    have h2 := failures_nil ts fun u hu => h u (by simp [hu])
    simp only [failures, List.map_cons, List.filterMap_cons, h1, Option.map_none] at h2 ⊢
    exact h2

/-- The writes of the lanes when every one passes. -/
theorem writeLanes_pass (s : State) (c : Ctx) (g : Guard) (f : Thread → LaneRes)
    (h : ∀ t ∈ c.active s g, (f t).fail = none) :
    writeLanes s ((c.active s g).map fun t => (t, f t)) =
      { s with threads := laneThreads s c g fun t => (f t).writes } := by
  unfold writeLanes laneThreads
  congr 1
  apply List.map_congr_left
  intro t _
  rw [List.find?_map]
  simp only [Function.comp_def]
  cases h1 : (c.active s g).find? fun a => a.tid == t.tid && a.rank == t.rank with
  | none => rfl
  | some a =>
    have h2 := h a (List.mem_of_find?_eq_some h1)
    simp [h2]

/-- Every lane passes, so none is held back from RB. -/
theorem passing_all {f : Thread → LaneRes} (ts : List Thread) (h : ∀ t ∈ ts, (f t).fail = none) :
    passing (ts.map fun t => (t, f t)) = ts.map fun t => (t, f t) := by
  unfold passing
  rw [List.filter_eq_self]
  intro x hx
  obtain ⟨t, ht, rfl⟩ := List.mem_map.1 hx
  simp [h t ht]

/-- A lane frame with no failing lane: the effect, then the next word. -/
theorem runLanes_pass (s : State) (c : Ctx) (g : Guard) (f : State → Thread → LaneRes)
    (apply : State → List (Thread × LaneRes) → State) (h : ∀ t ∈ c.active s g, (f s t).fail = none) :
    runLanes s c g f apply = finish (apply s ((c.active s g).map fun t => (t, f s t))) c := by
  have h1 : ((c.active s g).any fun t => (f s t).fail.isSome) = false := by
    rw [List.any_eq_false]
    intro t ht
    simp [h t ht]
  simp only [runLanes, h1, Bool.false_eq_true, if_false, failures_nil _ h, fileThreads]

/-- A short lane instruction whose registers exist and whose lanes all pass. -/
theorem laneShort_next {s : State} {c : Ctx} (h : ctxOf s = some c) (g : Guard) (legal : Ctx → Bool)
    (f : Ctx → State → Thread → LaneRes) (hl : legal c = true) (hp : ∀ t ∈ c.active s g, (f c s t).fail = none) :
    laneShort s g legal f = .next (afterLanes s c g fun t => (f c s t).writes) := by
  rw [laneShort, inCtx_next h]
  simp only [hl, if_true, runLanes_pass s c g (f c) writeLanes hp, writeLanes_pass s c g (f c s) hp, finish_eq]
  rfl

/-- A long lane instruction whose registers exist, with room in RB, and whose lanes all pass. -/
theorem laneLong_next {s : State} {c : Ctx} (h : ctxOf s = some c) (g : Guard) (legal : Ctx → Bool)
    (f : Ctx → State → Thread → LaneRes) (hl : legal c = true) (hr : rbRoom c)
    (hp : ∀ t ∈ c.active s g, (f c s t).fail = none) :
    laneLong s g legal f = .next (afterLong s c g fun t => (f c s t).writes) := by
  have hr' : c.st.rb.length < Config.rbSize := hr
  rw [laneLong, inCtx_next h]
  simp only [hl, if_true, afterRbRoom, hr', runLanes_pass s c g (f c) _ hp, longLanes, passing_all _ hp, finish_eq]
  rw [pushRb, updStrand_updStrand (h := by intro st; rfl)]
  simp only [List.map_map, Function.comp_def]
  rfl

/-- What a short lane instruction leaves depends on the writes in the active threads alone. -/
theorem afterLanes_congr {s : State} {c : Ctx} {g : Guard} {w w' : Thread → List Write}
    (h : ∀ t ∈ c.active s g, w t = w' t) : afterLanes s c g w = afterLanes s c g w' := by
  unfold afterLanes laneThreads
  congr 1
  apply List.map_congr_left
  intro t _
  cases h1 : (c.active s g).find? fun a => a.tid == t.tid && a.rank == t.rank with
  | none => rfl
  | some a => simp only [h a (List.mem_of_find?_eq_some h1)]

/-- What a long lane instruction leaves depends on the writes in the active threads alone. -/
theorem afterLong_congr {s : State} {c : Ctx} {g : Guard} {w w' : Thread → List Write}
    (h : ∀ t ∈ c.active s g, w t = w' t) : afterLong s c g w = afterLong s c g w' := by
  have h1 : ∀ st, longEntry s c g w st = longEntry s c g w' st := by
    intro st
    simp only [longEntry]
    congr 1
    apply List.map_congr_left
    intro t ht
    rw [h t ht]
  unfold afterLong
  simp only [h1]

/-- A register that the word names does not exist for the team: the executing threads are filed with cause 0x01. -/
theorem laneShort_illegal {s : State} {c : Ctx} (h : ctxOf s = some c) (g : Guard) (legal : Ctx → Bool)
    (f : Ctx → State → Thread → LaneRes) (hl : legal c = false) : laneShort s g legal f = .next (fileAll s c 0x01) := by
  rw [laneShort, inCtx_next h]
  simp [hl]

/-- The same of a long lane instruction. -/
theorem laneLong_illegal {s : State} {c : Ctx} (h : ctxOf s = some c) (g : Guard) (legal : Ctx → Bool)
    (f : Ctx → State → Thread → LaneRes) (hl : legal c = false) : laneLong s g legal f = .next (fileAll s c 0x01) := by
  rw [laneLong, inCtx_next h]
  simp [hl]

/-- A uniform instruction that changes its own strand alone. -/
theorem uniStrand_next {s : State} {c : Ctx} (h : ctxOf s = some c) (f : Ctx → Strand → Strand)
    (hf : ∀ st, (f c st).sid = st.sid) : (uniShort s fun c s => onStrand s c (f c)) = .next (afterUniform s c (f c)) := by
  rw [uniShort, inCtx_next h, finish_eq, onStrand, updStrand_updStrand _ _ _ _ hf]
  rfl

/-- R43: a marker that has been taken holds nothing up. -/
theorem afterMarker_taken {c : Ctx} (h : markerTaken c) (s : State) (counted : Bool) (k : State → State) :
    afterMarker s c counted k = k s := by
  simp [afterMarker, show c.p.marked = true from h]

/-- R43: with a result outstanding the strand parks at the marker, and the instruction has no effect yet. -/
theorem afterMarker_parks {c : Ctx} (h : c.p.marked = false) (hr : c.st.rb ≠ []) (s : State) (counted : Bool)
    (k : State → State) :
    afterMarker s c counted k = updStrand s c.st.sid fun st => { st with commit := some (.implicit counted) } := by
  simp [afterMarker, h, hr]

/-- R44: filing every executing thread after a marker that has been taken. -/
theorem fileAllWith_taken {c : Ctx} (h : markerTaken c) (s : State) (f : Failure) :
    fileAllWith s c f = fileThreads s c.at ((c.threads s).map fun t => (t, f)) := by
  rw [fileAllWith, afterMarker_taken h]

/-- The end of a jump of a strand that the instruction changed. -/
theorem finishAt_strand (s : State) (c : Ctx) (f : Strand → Strand) (pc : DWord) (hf : ∀ st, (f st).sid = st.sid) :
    finishAt (onStrand s c f) c pc = afterJump s c f pc := by
  rw [finishAt_eq, onStrand, updStrand_updStrand _ _ _ _ hf]
  rfl

/-- The end of an instruction that changed its strand. -/
theorem finish_strand (s : State) (c : Ctx) (f : Strand → Strand) (hf : ∀ st, (f st).sid = st.sid) :
    finish (onStrand s c f) c = afterUniform s c f := by
  rw [finish_eq, onStrand, updStrand_updStrand _ _ _ _ hf]
  rfl

/-- The end of a jump that changes nothing else. -/
theorem finishAt_plain (s : State) (c : Ctx) (pc : DWord) : finishAt s c pc = afterJump s c id pc := finishAt_eq s c pc

/-- The end of an instruction that changes nothing else. -/
theorem finish_plain (s : State) (c : Ctx) : finish s c = afterUniform s c id := finish_eq s c

end Sys2Proof.Machine
end

