-- ==== Sys2Proof/Laws/PerInstr.lean ====
section
/-! SUPPORT. What holds of the word of each instruction (R30): an event has none; an instruction has one with either marker,
bit 31 of it tells a uniform from a lane instruction, and bit 30 is the marker, but for `rep`, whose bit 30 is 0 (R46). -/

namespace Sys2Proof.Laws

/-- R30, R46: bit 30 of the word of `i` with marker `m`. -/
def TableWord.marker (m : Bool) : Instr → Bool
  | .rep _ _ _ _ _ => false
  | _ => m

/-- R30: no word, or a word for each marker, of one class, that carries the marker. -/
def TableWord.Statement (i : Instr) : Prop :=
  (∀ m, encode m i = none) ∨
    ∃ uniform : Bool, ∀ m, ∃ w, encode m i = some w ∧ w.getLsbD 31 = uniform ∧ markerOf w = TableWord.marker m i


theorem TableWord.add (g : Guard) (d : BitVec 6) (a : BitVec 6) (b : BitVec 6) : TableWord.Statement (.add g d a b) :=
  Or.inr ⟨false, fun m => ⟨_, rfl, by simp only [BitVec.getLsbD_append]; rfl, by cases m <;> simp only [markerOf, BitVec.getLsbD_append] <;> rfl⟩⟩

theorem TableWord.sub (g : Guard) (d : BitVec 6) (a : BitVec 6) (b : BitVec 6) : TableWord.Statement (.sub g d a b) :=
  Or.inr ⟨false, fun m => ⟨_, rfl, by simp only [BitVec.getLsbD_append]; rfl, by cases m <;> simp only [markerOf, BitVec.getLsbD_append] <;> rfl⟩⟩

theorem TableWord.addSatS32 (g : Guard) (d : BitVec 6) (a : BitVec 6) (b : BitVec 6) : TableWord.Statement (.addSatS32 g d a b) :=
  Or.inr ⟨false, fun m => ⟨_, rfl, by simp only [BitVec.getLsbD_append]; rfl, by cases m <;> simp only [markerOf, BitVec.getLsbD_append] <;> rfl⟩⟩

theorem TableWord.subSatS32 (g : Guard) (d : BitVec 6) (a : BitVec 6) (b : BitVec 6) : TableWord.Statement (.subSatS32 g d a b) :=
  Or.inr ⟨false, fun m => ⟨_, rfl, by simp only [BitVec.getLsbD_append]; rfl, by cases m <;> simp only [markerOf, BitVec.getLsbD_append] <;> rfl⟩⟩

theorem TableWord.minS32 (g : Guard) (d : BitVec 6) (a : BitVec 6) (b : BitVec 6) : TableWord.Statement (.minS32 g d a b) :=
  Or.inr ⟨false, fun m => ⟨_, rfl, by simp only [BitVec.getLsbD_append]; rfl, by cases m <;> simp only [markerOf, BitVec.getLsbD_append] <;> rfl⟩⟩

theorem TableWord.maxS32 (g : Guard) (d : BitVec 6) (a : BitVec 6) (b : BitVec 6) : TableWord.Statement (.maxS32 g d a b) :=
  Or.inr ⟨false, fun m => ⟨_, rfl, by simp only [BitVec.getLsbD_append]; rfl, by cases m <;> simp only [markerOf, BitVec.getLsbD_append] <;> rfl⟩⟩

theorem TableWord.minN32 (g : Guard) (d : BitVec 6) (a : BitVec 6) (b : BitVec 6) : TableWord.Statement (.minN32 g d a b) :=
  Or.inr ⟨false, fun m => ⟨_, rfl, by simp only [BitVec.getLsbD_append]; rfl, by cases m <;> simp only [markerOf, BitVec.getLsbD_append] <;> rfl⟩⟩

theorem TableWord.maxN32 (g : Guard) (d : BitVec 6) (a : BitVec 6) (b : BitVec 6) : TableWord.Statement (.maxN32 g d a b) :=
  Or.inr ⟨false, fun m => ⟨_, rfl, by simp only [BitVec.getLsbD_append]; rfl, by cases m <;> simp only [markerOf, BitVec.getLsbD_append] <;> rfl⟩⟩

theorem TableWord.mulLo (g : Guard) (d : BitVec 6) (a : BitVec 6) (b : BitVec 6) : TableWord.Statement (.mulLo g d a b) :=
  Or.inr ⟨false, fun m => ⟨_, rfl, by simp only [BitVec.getLsbD_append]; rfl, by cases m <;> simp only [markerOf, BitVec.getLsbD_append] <;> rfl⟩⟩

theorem TableWord.mulHiS32 (g : Guard) (d : BitVec 6) (a : BitVec 6) (b : BitVec 6) : TableWord.Statement (.mulHiS32 g d a b) :=
  Or.inr ⟨false, fun m => ⟨_, rfl, by simp only [BitVec.getLsbD_append]; rfl, by cases m <;> simp only [markerOf, BitVec.getLsbD_append] <;> rfl⟩⟩

theorem TableWord.mulHiN32 (g : Guard) (d : BitVec 6) (a : BitVec 6) (b : BitVec 6) : TableWord.Statement (.mulHiN32 g d a b) :=
  Or.inr ⟨false, fun m => ⟨_, rfl, by simp only [BitVec.getLsbD_append]; rfl, by cases m <;> simp only [markerOf, BitVec.getLsbD_append] <;> rfl⟩⟩

theorem TableWord.madLo (g : Guard) (d : BitVec 6) (a : BitVec 6) (b : BitVec 6) : TableWord.Statement (.madLo g d a b) :=
  Or.inr ⟨false, fun m => ⟨_, rfl, by simp only [BitVec.getLsbD_append]; rfl, by cases m <;> simp only [markerOf, BitVec.getLsbD_append] <;> rfl⟩⟩

theorem TableWord.and (g : Guard) (d : BitVec 6) (a : BitVec 6) (b : BitVec 6) : TableWord.Statement (.and g d a b) :=
  Or.inr ⟨false, fun m => ⟨_, rfl, by simp only [BitVec.getLsbD_append]; rfl, by cases m <;> simp only [markerOf, BitVec.getLsbD_append] <;> rfl⟩⟩

theorem TableWord.or (g : Guard) (d : BitVec 6) (a : BitVec 6) (b : BitVec 6) : TableWord.Statement (.or g d a b) :=
  Or.inr ⟨false, fun m => ⟨_, rfl, by simp only [BitVec.getLsbD_append]; rfl, by cases m <;> simp only [markerOf, BitVec.getLsbD_append] <;> rfl⟩⟩

theorem TableWord.xor (g : Guard) (d : BitVec 6) (a : BitVec 6) (b : BitVec 6) : TableWord.Statement (.xor g d a b) :=
  Or.inr ⟨false, fun m => ⟨_, rfl, by simp only [BitVec.getLsbD_append]; rfl, by cases m <;> simp only [markerOf, BitVec.getLsbD_append] <;> rfl⟩⟩

theorem TableWord.andn (g : Guard) (d : BitVec 6) (a : BitVec 6) (b : BitVec 6) : TableWord.Statement (.andn g d a b) :=
  Or.inr ⟨false, fun m => ⟨_, rfl, by simp only [BitVec.getLsbD_append]; rfl, by cases m <;> simp only [markerOf, BitVec.getLsbD_append] <;> rfl⟩⟩

theorem TableWord.shl (g : Guard) (d : BitVec 6) (a : BitVec 6) (b : BitVec 6) : TableWord.Statement (.shl g d a b) :=
  Or.inr ⟨false, fun m => ⟨_, rfl, by simp only [BitVec.getLsbD_append]; rfl, by cases m <;> simp only [markerOf, BitVec.getLsbD_append] <;> rfl⟩⟩

theorem TableWord.shr (g : Guard) (d : BitVec 6) (a : BitVec 6) (b : BitVec 6) : TableWord.Statement (.shr g d a b) :=
  Or.inr ⟨false, fun m => ⟨_, rfl, by simp only [BitVec.getLsbD_append]; rfl, by cases m <;> simp only [markerOf, BitVec.getLsbD_append] <;> rfl⟩⟩

theorem TableWord.sar (g : Guard) (d : BitVec 6) (a : BitVec 6) (b : BitVec 6) : TableWord.Statement (.sar g d a b) :=
  Or.inr ⟨false, fun m => ⟨_, rfl, by simp only [BitVec.getLsbD_append]; rfl, by cases m <;> simp only [markerOf, BitVec.getLsbD_append] <;> rfl⟩⟩

theorem TableWord.rot (g : Guard) (d : BitVec 6) (a : BitVec 6) (b : BitVec 6) : TableWord.Statement (.rot g d a b) :=
  Or.inr ⟨false, fun m => ⟨_, rfl, by simp only [BitVec.getLsbD_append]; rfl, by cases m <;> simp only [markerOf, BitVec.getLsbD_append] <;> rfl⟩⟩

theorem TableWord.popc (g : Guard) (d : BitVec 6) (a : BitVec 6) : TableWord.Statement (.popc g d a) :=
  Or.inr ⟨false, fun m => ⟨_, rfl, by simp only [BitVec.getLsbD_append]; rfl, by cases m <;> simp only [markerOf, BitVec.getLsbD_append] <;> rfl⟩⟩

theorem TableWord.clz (g : Guard) (d : BitVec 6) (a : BitVec 6) : TableWord.Statement (.clz g d a) :=
  Or.inr ⟨false, fun m => ⟨_, rfl, by simp only [BitVec.getLsbD_append]; rfl, by cases m <;> simp only [markerOf, BitVec.getLsbD_append] <;> rfl⟩⟩

theorem TableWord.ctz (g : Guard) (d : BitVec 6) (a : BitVec 6) : TableWord.Statement (.ctz g d a) :=
  Or.inr ⟨false, fun m => ⟨_, rfl, by simp only [BitVec.getLsbD_append]; rfl, by cases m <;> simp only [markerOf, BitVec.getLsbD_append] <;> rfl⟩⟩

theorem TableWord.brev (g : Guard) (d : BitVec 6) (a : BitVec 6) : TableWord.Statement (.brev g d a) :=
  Or.inr ⟨false, fun m => ⟨_, rfl, by simp only [BitVec.getLsbD_append]; rfl, by cases m <;> simp only [markerOf, BitVec.getLsbD_append] <;> rfl⟩⟩

theorem TableWord.divS32 (g : Guard) (d : BitVec 6) (a : BitVec 6) (b : BitVec 6) : TableWord.Statement (.divS32 g d a b) :=
  Or.inr ⟨false, fun m => ⟨_, rfl, by simp only [BitVec.getLsbD_append]; rfl, by cases m <;> simp only [markerOf, BitVec.getLsbD_append] <;> rfl⟩⟩

theorem TableWord.divN32 (g : Guard) (d : BitVec 6) (a : BitVec 6) (b : BitVec 6) : TableWord.Statement (.divN32 g d a b) :=
  Or.inr ⟨false, fun m => ⟨_, rfl, by simp only [BitVec.getLsbD_append]; rfl, by cases m <;> simp only [markerOf, BitVec.getLsbD_append] <;> rfl⟩⟩

theorem TableWord.remS32 (g : Guard) (d : BitVec 6) (a : BitVec 6) (b : BitVec 6) : TableWord.Statement (.remS32 g d a b) :=
  Or.inr ⟨false, fun m => ⟨_, rfl, by simp only [BitVec.getLsbD_append]; rfl, by cases m <;> simp only [markerOf, BitVec.getLsbD_append] <;> rfl⟩⟩

theorem TableWord.remN32 (g : Guard) (d : BitVec 6) (a : BitVec 6) (b : BitVec 6) : TableWord.Statement (.remN32 g d a b) :=
  Or.inr ⟨false, fun m => ⟨_, rfl, by simp only [BitVec.getLsbD_append]; rfl, by cases m <;> simp only [markerOf, BitVec.getLsbD_append] <;> rfl⟩⟩

theorem TableWord.bfxN32 (g : Guard) (d : BitVec 6) (a : BitVec 6) (b : BitVec 6) : TableWord.Statement (.bfxN32 g d a b) :=
  Or.inr ⟨false, fun m => ⟨_, rfl, by simp only [BitVec.getLsbD_append]; rfl, by cases m <;> simp only [markerOf, BitVec.getLsbD_append] <;> rfl⟩⟩

theorem TableWord.bfxS32 (g : Guard) (d : BitVec 6) (a : BitVec 6) (b : BitVec 6) : TableWord.Statement (.bfxS32 g d a b) :=
  Or.inr ⟨false, fun m => ⟨_, rfl, by simp only [BitVec.getLsbD_append]; rfl, by cases m <;> simp only [markerOf, BitVec.getLsbD_append] <;> rfl⟩⟩

theorem TableWord.bfi (g : Guard) (d : BitVec 6) (a : BitVec 6) (b : BitVec 6) : TableWord.Statement (.bfi g d a b) :=
  Or.inr ⟨false, fun m => ⟨_, rfl, by simp only [BitVec.getLsbD_append]; rfl, by cases m <;> simp only [markerOf, BitVec.getLsbD_append] <;> rfl⟩⟩

theorem TableWord.absS32 (g : Guard) (d : BitVec 6) (a : BitVec 6) : TableWord.Statement (.absS32 g d a) :=
  Or.inr ⟨false, fun m => ⟨_, rfl, by simp only [BitVec.getLsbD_append]; rfl, by cases m <;> simp only [markerOf, BitVec.getLsbD_append] <;> rfl⟩⟩

theorem TableWord.addi (g : Guard) (d : BitVec 6) (a : BitVec 6) (i : BitVec 8) : TableWord.Statement (.addi g d a i) :=
  Or.inr ⟨false, fun m => ⟨_, rfl, by simp only [BitVec.getLsbD_append]; rfl, by cases m <;> simp only [markerOf, BitVec.getLsbD_append] <;> rfl⟩⟩

theorem TableWord.andi (g : Guard) (d : BitVec 6) (a : BitVec 6) (i : BitVec 8) : TableWord.Statement (.andi g d a i) :=
  Or.inr ⟨false, fun m => ⟨_, rfl, by simp only [BitVec.getLsbD_append]; rfl, by cases m <;> simp only [markerOf, BitVec.getLsbD_append] <;> rfl⟩⟩

theorem TableWord.ori (g : Guard) (d : BitVec 6) (a : BitVec 6) (i : BitVec 8) : TableWord.Statement (.ori g d a i) :=
  Or.inr ⟨false, fun m => ⟨_, rfl, by simp only [BitVec.getLsbD_append]; rfl, by cases m <;> simp only [markerOf, BitVec.getLsbD_append] <;> rfl⟩⟩

theorem TableWord.xori (g : Guard) (d : BitVec 6) (a : BitVec 6) (i : BitVec 8) : TableWord.Statement (.xori g d a i) :=
  Or.inr ⟨false, fun m => ⟨_, rfl, by simp only [BitVec.getLsbD_append]; rfl, by cases m <;> simp only [markerOf, BitVec.getLsbD_append] <;> rfl⟩⟩

theorem TableWord.shlImm (g : Guard) (d : BitVec 6) (a : BitVec 6) (i : BitVec 5) : TableWord.Statement (.shlImm g d a i) :=
  Or.inr ⟨false, fun m => ⟨_, rfl, by simp only [BitVec.getLsbD_append]; rfl, by cases m <;> simp only [markerOf, BitVec.getLsbD_append] <;> rfl⟩⟩

theorem TableWord.shrImm (g : Guard) (d : BitVec 6) (a : BitVec 6) (i : BitVec 5) : TableWord.Statement (.shrImm g d a i) :=
  Or.inr ⟨false, fun m => ⟨_, rfl, by simp only [BitVec.getLsbD_append]; rfl, by cases m <;> simp only [markerOf, BitVec.getLsbD_append] <;> rfl⟩⟩

theorem TableWord.sarImm (g : Guard) (d : BitVec 6) (a : BitVec 6) (i : BitVec 5) : TableWord.Statement (.sarImm g d a i) :=
  Or.inr ⟨false, fun m => ⟨_, rfl, by simp only [BitVec.getLsbD_append]; rfl, by cases m <;> simp only [markerOf, BitVec.getLsbD_append] <;> rfl⟩⟩

theorem TableWord.rotImm (g : Guard) (d : BitVec 6) (a : BitVec 6) (i : BitVec 5) : TableWord.Statement (.rotImm g d a i) :=
  Or.inr ⟨false, fun m => ⟨_, rfl, by simp only [BitVec.getLsbD_append]; rfl, by cases m <;> simp only [markerOf, BitVec.getLsbD_append] <;> rfl⟩⟩

theorem TableWord.icmp (g : Guard) (p : BitVec 3) (c : BitVec 3) (a : BitVec 6) (b : BitVec 6) (t : BitVec 2) : TableWord.Statement (.icmp g p c a b t) :=
  Or.inr ⟨false, fun m => ⟨_, rfl, by simp only [BitVec.getLsbD_append]; rfl, by cases m <;> simp only [markerOf, BitVec.getLsbD_append] <;> rfl⟩⟩

theorem TableWord.icmpi (g : Guard) (p : BitVec 3) (c : BitVec 3) (a : BitVec 6) (i : BitVec 6) (t : BitVec 2) : TableWord.Statement (.icmpi g p c a i t) :=
  Or.inr ⟨false, fun m => ⟨_, rfl, by simp only [BitVec.getLsbD_append]; rfl, by cases m <;> simp only [markerOf, BitVec.getLsbD_append] <;> rfl⟩⟩

theorem TableWord.mov (g : Guard) (d : BitVec 6) (a : BitVec 6) : TableWord.Statement (.mov g d a) :=
  Or.inr ⟨false, fun m => ⟨_, rfl, by simp only [BitVec.getLsbD_append]; rfl, by cases m <;> simp only [markerOf, BitVec.getLsbD_append] <;> rfl⟩⟩

theorem TableWord.bcast (g : Guard) (d : BitVec 6) (a : BitVec 6) : TableWord.Statement (.bcast g d a) :=
  Or.inr ⟨false, fun m => ⟨_, rfl, by simp only [BitVec.getLsbD_append]; rfl, by cases m <;> simp only [markerOf, BitVec.getLsbD_append] <;> rfl⟩⟩

theorem TableWord.movp (g : Guard) (d : BitVec 6) : TableWord.Statement (.movp g d) :=
  Or.inr ⟨false, fun m => ⟨_, rfl, by simp only [BitVec.getLsbD_append]; rfl, by cases m <;> simp only [markerOf, BitVec.getLsbD_append] <;> rfl⟩⟩

theorem TableWord.mvp (g : Guard) (a : BitVec 6) : TableWord.Statement (.mvp g a) :=
  Or.inr ⟨false, fun m => ⟨_, rfl, by simp only [BitVec.getLsbD_append]; rfl, by cases m <;> simp only [markerOf, BitVec.getLsbD_append] <;> rfl⟩⟩

theorem TableWord.pand (g : Guard) (d : BitVec 3) (a : BitVec 3) (b : BitVec 3) (x : BitVec 1) (y : BitVec 1) : TableWord.Statement (.pand g d a b x y) :=
  Or.inr ⟨false, fun m => ⟨_, rfl, by simp only [BitVec.getLsbD_append]; rfl, by cases m <;> simp only [markerOf, BitVec.getLsbD_append] <;> rfl⟩⟩

theorem TableWord.por (g : Guard) (d : BitVec 3) (a : BitVec 3) (b : BitVec 3) (x : BitVec 1) (y : BitVec 1) : TableWord.Statement (.por g d a b x y) :=
  Or.inr ⟨false, fun m => ⟨_, rfl, by simp only [BitVec.getLsbD_append]; rfl, by cases m <;> simp only [markerOf, BitVec.getLsbD_append] <;> rfl⟩⟩

theorem TableWord.pxor (g : Guard) (d : BitVec 3) (a : BitVec 3) (b : BitVec 3) (x : BitVec 1) (y : BitVec 1) : TableWord.Statement (.pxor g d a b x y) :=
  Or.inr ⟨false, fun m => ⟨_, rfl, by simp only [BitVec.getLsbD_append]; rfl, by cases m <;> simp only [markerOf, BitVec.getLsbD_append] <;> rfl⟩⟩

theorem TableWord.pandn (g : Guard) (d : BitVec 3) (a : BitVec 3) (b : BitVec 3) (x : BitVec 1) (y : BitVec 1) : TableWord.Statement (.pandn g d a b x y) :=
  Or.inr ⟨false, fun m => ⟨_, rfl, by simp only [BitVec.getLsbD_append]; rfl, by cases m <;> simp only [markerOf, BitVec.getLsbD_append] <;> rfl⟩⟩

theorem TableWord.ldi (g : Guard) (d : BitVec 6) (i : BitVec 14) : TableWord.Statement (.ldi g d i) :=
  Or.inr ⟨false, fun m => ⟨_, rfl, by simp only [BitVec.getLsbD_append]; rfl, by cases m <;> simp only [markerOf, BitVec.getLsbD_append] <;> rfl⟩⟩

theorem TableWord.rdsr (g : Guard) (d : BitVec 6) (r : BitVec 12) : TableWord.Statement (.rdsr g d r) :=
  Or.inr ⟨false, fun m => ⟨_, rfl, by simp only [BitVec.getLsbD_append]; rfl, by cases m <;> simp only [markerOf, BitVec.getLsbD_append] <;> rfl⟩⟩

theorem TableWord.faddF32 (g : Guard) (d : BitVec 6) (a : BitVec 6) (b : BitVec 6) : TableWord.Statement (.faddF32 g d a b) :=
  Or.inr ⟨false, fun m => ⟨_, rfl, by simp only [BitVec.getLsbD_append]; rfl, by cases m <;> simp only [markerOf, BitVec.getLsbD_append] <;> rfl⟩⟩

theorem TableWord.fsubF32 (g : Guard) (d : BitVec 6) (a : BitVec 6) (b : BitVec 6) : TableWord.Statement (.fsubF32 g d a b) :=
  Or.inr ⟨false, fun m => ⟨_, rfl, by simp only [BitVec.getLsbD_append]; rfl, by cases m <;> simp only [markerOf, BitVec.getLsbD_append] <;> rfl⟩⟩

theorem TableWord.fmulF32 (g : Guard) (d : BitVec 6) (a : BitVec 6) (b : BitVec 6) : TableWord.Statement (.fmulF32 g d a b) :=
  Or.inr ⟨false, fun m => ⟨_, rfl, by simp only [BitVec.getLsbD_append]; rfl, by cases m <;> simp only [markerOf, BitVec.getLsbD_append] <;> rfl⟩⟩

theorem TableWord.ffmaF32 (g : Guard) (d : BitVec 6) (a : BitVec 6) (b : BitVec 6) : TableWord.Statement (.ffmaF32 g d a b) :=
  Or.inr ⟨false, fun m => ⟨_, rfl, by simp only [BitVec.getLsbD_append]; rfl, by cases m <;> simp only [markerOf, BitVec.getLsbD_append] <;> rfl⟩⟩

theorem TableWord.faddF16x2 (g : Guard) (d : BitVec 6) (a : BitVec 6) (b : BitVec 6) : TableWord.Statement (.faddF16x2 g d a b) :=
  Or.inr ⟨false, fun m => ⟨_, rfl, by simp only [BitVec.getLsbD_append]; rfl, by cases m <;> simp only [markerOf, BitVec.getLsbD_append] <;> rfl⟩⟩

theorem TableWord.fsubF16x2 (g : Guard) (d : BitVec 6) (a : BitVec 6) (b : BitVec 6) : TableWord.Statement (.fsubF16x2 g d a b) :=
  Or.inr ⟨false, fun m => ⟨_, rfl, by simp only [BitVec.getLsbD_append]; rfl, by cases m <;> simp only [markerOf, BitVec.getLsbD_append] <;> rfl⟩⟩

theorem TableWord.fmulF16x2 (g : Guard) (d : BitVec 6) (a : BitVec 6) (b : BitVec 6) : TableWord.Statement (.fmulF16x2 g d a b) :=
  Or.inr ⟨false, fun m => ⟨_, rfl, by simp only [BitVec.getLsbD_append]; rfl, by cases m <;> simp only [markerOf, BitVec.getLsbD_append] <;> rfl⟩⟩

theorem TableWord.ffmaF16x2 (g : Guard) (d : BitVec 6) (a : BitVec 6) (b : BitVec 6) : TableWord.Statement (.ffmaF16x2 g d a b) :=
  Or.inr ⟨false, fun m => ⟨_, rfl, by simp only [BitVec.getLsbD_append]; rfl, by cases m <;> simp only [markerOf, BitVec.getLsbD_append] <;> rfl⟩⟩

theorem TableWord.faddBf16x2 (g : Guard) (d : BitVec 6) (a : BitVec 6) (b : BitVec 6) : TableWord.Statement (.faddBf16x2 g d a b) :=
  Or.inr ⟨false, fun m => ⟨_, rfl, by simp only [BitVec.getLsbD_append]; rfl, by cases m <;> simp only [markerOf, BitVec.getLsbD_append] <;> rfl⟩⟩

theorem TableWord.fsubBf16x2 (g : Guard) (d : BitVec 6) (a : BitVec 6) (b : BitVec 6) : TableWord.Statement (.fsubBf16x2 g d a b) :=
  Or.inr ⟨false, fun m => ⟨_, rfl, by simp only [BitVec.getLsbD_append]; rfl, by cases m <;> simp only [markerOf, BitVec.getLsbD_append] <;> rfl⟩⟩

theorem TableWord.fmulBf16x2 (g : Guard) (d : BitVec 6) (a : BitVec 6) (b : BitVec 6) : TableWord.Statement (.fmulBf16x2 g d a b) :=
  Or.inr ⟨false, fun m => ⟨_, rfl, by simp only [BitVec.getLsbD_append]; rfl, by cases m <;> simp only [markerOf, BitVec.getLsbD_append] <;> rfl⟩⟩

theorem TableWord.ffmaBf16x2 (g : Guard) (d : BitVec 6) (a : BitVec 6) (b : BitVec 6) : TableWord.Statement (.ffmaBf16x2 g d a b) :=
  Or.inr ⟨false, fun m => ⟨_, rfl, by simp only [BitVec.getLsbD_append]; rfl, by cases m <;> simp only [markerOf, BitVec.getLsbD_append] <;> rfl⟩⟩

theorem TableWord.fminF32 (g : Guard) (d : BitVec 6) (a : BitVec 6) (b : BitVec 6) : TableWord.Statement (.fminF32 g d a b) :=
  Or.inr ⟨false, fun m => ⟨_, rfl, by simp only [BitVec.getLsbD_append]; rfl, by cases m <;> simp only [markerOf, BitVec.getLsbD_append] <;> rfl⟩⟩

theorem TableWord.fmaxF32 (g : Guard) (d : BitVec 6) (a : BitVec 6) (b : BitVec 6) : TableWord.Statement (.fmaxF32 g d a b) :=
  Or.inr ⟨false, fun m => ⟨_, rfl, by simp only [BitVec.getLsbD_append]; rfl, by cases m <;> simp only [markerOf, BitVec.getLsbD_append] <;> rfl⟩⟩

theorem TableWord.fabsF32 (g : Guard) (d : BitVec 6) (a : BitVec 6) : TableWord.Statement (.fabsF32 g d a) :=
  Or.inr ⟨false, fun m => ⟨_, rfl, by simp only [BitVec.getLsbD_append]; rfl, by cases m <;> simp only [markerOf, BitVec.getLsbD_append] <;> rfl⟩⟩

theorem TableWord.fnegF32 (g : Guard) (d : BitVec 6) (a : BitVec 6) : TableWord.Statement (.fnegF32 g d a) :=
  Or.inr ⟨false, fun m => ⟨_, rfl, by simp only [BitVec.getLsbD_append]; rfl, by cases m <;> simp only [markerOf, BitVec.getLsbD_append] <;> rfl⟩⟩

theorem TableWord.frcp (g : Guard) (d : BitVec 6) (a : BitVec 6) : TableWord.Statement (.frcp g d a) :=
  Or.inr ⟨false, fun m => ⟨_, rfl, by simp only [BitVec.getLsbD_append]; rfl, by cases m <;> simp only [markerOf, BitVec.getLsbD_append] <;> rfl⟩⟩

theorem TableWord.frsq (g : Guard) (d : BitVec 6) (a : BitVec 6) : TableWord.Statement (.frsq g d a) :=
  Or.inr ⟨false, fun m => ⟨_, rfl, by simp only [BitVec.getLsbD_append]; rfl, by cases m <;> simp only [markerOf, BitVec.getLsbD_append] <;> rfl⟩⟩

theorem TableWord.fsqrt (g : Guard) (d : BitVec 6) (a : BitVec 6) : TableWord.Statement (.fsqrt g d a) :=
  Or.inr ⟨false, fun m => ⟨_, rfl, by simp only [BitVec.getLsbD_append]; rfl, by cases m <;> simp only [markerOf, BitVec.getLsbD_append] <;> rfl⟩⟩

theorem TableWord.fexp2 (g : Guard) (d : BitVec 6) (a : BitVec 6) : TableWord.Statement (.fexp2 g d a) :=
  Or.inr ⟨false, fun m => ⟨_, rfl, by simp only [BitVec.getLsbD_append]; rfl, by cases m <;> simp only [markerOf, BitVec.getLsbD_append] <;> rfl⟩⟩

theorem TableWord.flog2 (g : Guard) (d : BitVec 6) (a : BitVec 6) : TableWord.Statement (.flog2 g d a) :=
  Or.inr ⟨false, fun m => ⟨_, rfl, by simp only [BitVec.getLsbD_append]; rfl, by cases m <;> simp only [markerOf, BitVec.getLsbD_append] <;> rfl⟩⟩

theorem TableWord.fsin (g : Guard) (d : BitVec 6) (a : BitVec 6) : TableWord.Statement (.fsin g d a) :=
  Or.inr ⟨false, fun m => ⟨_, rfl, by simp only [BitVec.getLsbD_append]; rfl, by cases m <;> simp only [markerOf, BitVec.getLsbD_append] <;> rfl⟩⟩

theorem TableWord.fcos (g : Guard) (d : BitVec 6) (a : BitVec 6) : TableWord.Statement (.fcos g d a) :=
  Or.inr ⟨false, fun m => ⟨_, rfl, by simp only [BitVec.getLsbD_append]; rfl, by cases m <;> simp only [markerOf, BitVec.getLsbD_append] <;> rfl⟩⟩

theorem TableWord.ftanh (g : Guard) (d : BitVec 6) (a : BitVec 6) : TableWord.Statement (.ftanh g d a) :=
  Or.inr ⟨false, fun m => ⟨_, rfl, by simp only [BitVec.getLsbD_append]; rfl, by cases m <;> simp only [markerOf, BitVec.getLsbD_append] <;> rfl⟩⟩

theorem TableWord.frndRn (g : Guard) (d : BitVec 6) (a : BitVec 6) : TableWord.Statement (.frndRn g d a) :=
  Or.inr ⟨false, fun m => ⟨_, rfl, by simp only [BitVec.getLsbD_append]; rfl, by cases m <;> simp only [markerOf, BitVec.getLsbD_append] <;> rfl⟩⟩

theorem TableWord.frndRz (g : Guard) (d : BitVec 6) (a : BitVec 6) : TableWord.Statement (.frndRz g d a) :=
  Or.inr ⟨false, fun m => ⟨_, rfl, by simp only [BitVec.getLsbD_append]; rfl, by cases m <;> simp only [markerOf, BitVec.getLsbD_append] <;> rfl⟩⟩

theorem TableWord.frndRd (g : Guard) (d : BitVec 6) (a : BitVec 6) : TableWord.Statement (.frndRd g d a) :=
  Or.inr ⟨false, fun m => ⟨_, rfl, by simp only [BitVec.getLsbD_append]; rfl, by cases m <;> simp only [markerOf, BitVec.getLsbD_append] <;> rfl⟩⟩

theorem TableWord.frndRu (g : Guard) (d : BitVec 6) (a : BitVec 6) : TableWord.Statement (.frndRu g d a) :=
  Or.inr ⟨false, fun m => ⟨_, rfl, by simp only [BitVec.getLsbD_append]; rfl, by cases m <;> simp only [markerOf, BitVec.getLsbD_append] <;> rfl⟩⟩

theorem TableWord.fcmp (g : Guard) (p : BitVec 3) (c : BitVec 3) (a : BitVec 6) (b : BitVec 6) (t : BitVec 2) : TableWord.Statement (.fcmp g p c a b t) :=
  Or.inr ⟨false, fun m => ⟨_, rfl, by simp only [BitVec.getLsbD_append]; rfl, by cases m <;> simp only [markerOf, BitVec.getLsbD_append] <;> rfl⟩⟩

theorem TableWord.fclass (g : Guard) (d : BitVec 6) (a : BitVec 6) : TableWord.Statement (.fclass g d a) :=
  Or.inr ⟨false, fun m => ⟨_, rfl, by simp only [BitVec.getLsbD_append]; rfl, by cases m <;> simp only [markerOf, BitVec.getLsbD_append] <;> rfl⟩⟩

theorem TableWord.cvtRn (g : Guard) (d : BitVec 6) (a : BitVec 6) (t : BitVec 4) (u : BitVec 4) : TableWord.Statement (.cvtRn g d a t u) :=
  Or.inr ⟨false, fun m => ⟨_, rfl, by simp only [BitVec.getLsbD_append]; rfl, by cases m <;> simp only [markerOf, BitVec.getLsbD_append] <;> rfl⟩⟩

theorem TableWord.cvtRz (g : Guard) (d : BitVec 6) (a : BitVec 6) (t : BitVec 4) (u : BitVec 4) : TableWord.Statement (.cvtRz g d a t u) :=
  Or.inr ⟨false, fun m => ⟨_, rfl, by simp only [BitVec.getLsbD_append]; rfl, by cases m <;> simp only [markerOf, BitVec.getLsbD_append] <;> rfl⟩⟩

theorem TableWord.cvtSr (g : Guard) (d : BitVec 6) (a : BitVec 6) (t : BitVec 4) (u : BitVec 4) : TableWord.Statement (.cvtSr g d a t u) :=
  Or.inr ⟨false, fun m => ⟨_, rfl, by simp only [BitVec.getLsbD_append]; rfl, by cases m <;> simp only [markerOf, BitVec.getLsbD_append] <;> rfl⟩⟩

theorem TableWord.cvtDyn (g : Guard) (d : BitVec 6) (a : BitVec 6) (t : BitVec 4) (u : BitVec 4) : TableWord.Statement (.cvtDyn g d a t u) :=
  Or.inr ⟨false, fun m => ⟨_, rfl, by simp only [BitVec.getLsbD_append]; rfl, by cases m <;> simp only [markerOf, BitVec.getLsbD_append] <;> rfl⟩⟩

theorem TableWord.kpack (g : Guard) (d : BitVec 6) (a : BitVec 6) (t : BitVec 2) : TableWord.Statement (.kpack g d a t) :=
  Or.inr ⟨false, fun m => ⟨_, rfl, by simp only [BitVec.getLsbD_append]; rfl, by cases m <;> simp only [markerOf, BitVec.getLsbD_append] <;> rfl⟩⟩

theorem TableWord.kunpack (g : Guard) (d : BitVec 6) (a : BitVec 6) : TableWord.Statement (.kunpack g d a) :=
  Or.inr ⟨false, fun m => ⟨_, rfl, by simp only [BitVec.getLsbD_append]; rfl, by cases m <;> simp only [markerOf, BitVec.getLsbD_append] <;> rfl⟩⟩

theorem TableWord.ld (g : Guard) (d : BitVec 6) (c : BitVec 4) (z : BitVec 3) (o : BitVec 7) : TableWord.Statement (.ld g d c z o) :=
  Or.inr ⟨false, fun m => ⟨_, rfl, by simp only [BitVec.getLsbD_append]; rfl, by cases m <;> simp only [markerOf, BitVec.getLsbD_append] <;> rfl⟩⟩

theorem TableWord.st (g : Guard) (d : BitVec 6) (c : BitVec 4) (z : BitVec 3) (o : BitVec 7) : TableWord.Statement (.st g d c z o) :=
  Or.inr ⟨false, fun m => ⟨_, rfl, by simp only [BitVec.getLsbD_append]; rfl, by cases m <;> simp only [markerOf, BitVec.getLsbD_append] <;> rfl⟩⟩

theorem TableWord.ldoRlx (g : Guard) (d : BitVec 6) (c : BitVec 4) (z : BitVec 2) (k : BitVec 3) : TableWord.Statement (.ldoRlx g d c z k) :=
  Or.inr ⟨false, fun m => ⟨_, rfl, by simp only [BitVec.getLsbD_append]; rfl, by cases m <;> simp only [markerOf, BitVec.getLsbD_append] <;> rfl⟩⟩

theorem TableWord.ldoAcq (g : Guard) (d : BitVec 6) (c : BitVec 4) (z : BitVec 2) (k : BitVec 3) : TableWord.Statement (.ldoAcq g d c z k) :=
  Or.inr ⟨false, fun m => ⟨_, rfl, by simp only [BitVec.getLsbD_append]; rfl, by cases m <;> simp only [markerOf, BitVec.getLsbD_append] <;> rfl⟩⟩

theorem TableWord.ldoFe (g : Guard) (d : BitVec 6) (c : BitVec 4) (k : BitVec 3) : TableWord.Statement (.ldoFe g d c k) :=
  Or.inr ⟨false, fun m => ⟨_, rfl, by simp only [BitVec.getLsbD_append]; rfl, by cases m <;> simp only [markerOf, BitVec.getLsbD_append] <;> rfl⟩⟩

theorem TableWord.stoRlx (g : Guard) (d : BitVec 6) (c : BitVec 4) (z : BitVec 2) (k : BitVec 3) : TableWord.Statement (.stoRlx g d c z k) :=
  Or.inr ⟨false, fun m => ⟨_, rfl, by simp only [BitVec.getLsbD_append]; rfl, by cases m <;> simp only [markerOf, BitVec.getLsbD_append] <;> rfl⟩⟩

theorem TableWord.stoRel (g : Guard) (d : BitVec 6) (c : BitVec 4) (z : BitVec 2) (k : BitVec 3) : TableWord.Statement (.stoRel g d c z k) :=
  Or.inr ⟨false, fun m => ⟨_, rfl, by simp only [BitVec.getLsbD_append]; rfl, by cases m <;> simp only [markerOf, BitVec.getLsbD_append] <;> rfl⟩⟩

theorem TableWord.stoFill (g : Guard) (d : BitVec 6) (c : BitVec 4) (k : BitVec 3) : TableWord.Statement (.stoFill g d c k) :=
  Or.inr ⟨false, fun m => ⟨_, rfl, by simp only [BitVec.getLsbD_append]; rfl, by cases m <;> simp only [markerOf, BitVec.getLsbD_append] <;> rfl⟩⟩

theorem TableWord.atom (g : Guard) (d : BitVec 6) (c : BitVec 4) (b : BitVec 6) (o : BitVec 4) : TableWord.Statement (.atom g d c b o) :=
  Or.inr ⟨false, fun m => ⟨_, rfl, by simp only [BitVec.getLsbD_append]; rfl, by cases m <;> simp only [markerOf, BitVec.getLsbD_append] <;> rfl⟩⟩

theorem TableWord.red (g : Guard) (k : BitVec 3) (c : BitVec 4) (b : BitVec 6) (o : BitVec 4) : TableWord.Statement (.red g k c b o) :=
  Or.inr ⟨false, fun m => ⟨_, rfl, by simp only [BitVec.getLsbD_append]; rfl, by cases m <;> simp only [markerOf, BitVec.getLsbD_append] <;> rfl⟩⟩

theorem TableWord.cas (g : Guard) (d : BitVec 6) (c : BitVec 4) (b : BitVec 6) (k : BitVec 3) (z : BitVec 1) : TableWord.Statement (.cas g d c b k z) :=
  Or.inr ⟨false, fun m => ⟨_, rfl, by simp only [BitVec.getLsbD_append]; rfl, by cases m <;> simp only [markerOf, BitVec.getLsbD_append] <;> rfl⟩⟩

theorem TableWord.mmaE4m3 (g : Guard) (c : BitVec 4) (a : BitVec 4) (b : BitVec 4) (k : BitVec 1) : TableWord.Statement (.mmaE4m3 g c a b k) :=
  Or.inr ⟨false, fun m => ⟨_, rfl, by simp only [BitVec.getLsbD_append]; rfl, by cases m <;> simp only [markerOf, BitVec.getLsbD_append] <;> rfl⟩⟩

theorem TableWord.mmaE5m2 (g : Guard) (c : BitVec 4) (a : BitVec 4) (b : BitVec 4) (k : BitVec 1) : TableWord.Statement (.mmaE5m2 g c a b k) :=
  Or.inr ⟨false, fun m => ⟨_, rfl, by simp only [BitVec.getLsbD_append]; rfl, by cases m <;> simp only [markerOf, BitVec.getLsbD_append] <;> rfl⟩⟩

theorem TableWord.mmaBf16 (g : Guard) (c : BitVec 4) (a : BitVec 4) (b : BitVec 4) (k : BitVec 1) : TableWord.Statement (.mmaBf16 g c a b k) :=
  Or.inr ⟨false, fun m => ⟨_, rfl, by simp only [BitVec.getLsbD_append]; rfl, by cases m <;> simp only [markerOf, BitVec.getLsbD_append] <;> rfl⟩⟩

theorem TableWord.mmaF16 (g : Guard) (c : BitVec 4) (a : BitVec 4) (b : BitVec 4) (k : BitVec 1) : TableWord.Statement (.mmaF16 g c a b k) :=
  Or.inr ⟨false, fun m => ⟨_, rfl, by simp only [BitVec.getLsbD_append]; rfl, by cases m <;> simp only [markerOf, BitVec.getLsbD_append] <;> rfl⟩⟩

theorem TableWord.mmaKn4 (g : Guard) (c : BitVec 4) (a : BitVec 4) (b : BitVec 4) (v : BitVec 5) (w : BitVec 2) (k : BitVec 1) : TableWord.Statement (.mmaKn4 g c a b v w k) :=
  Or.inr ⟨false, fun m => ⟨_, rfl, by simp only [BitVec.getLsbD_append]; rfl, by cases m <;> simp only [markerOf, BitVec.getLsbD_append] <;> rfl⟩⟩

theorem TableWord.mmaS8 (g : Guard) (c : BitVec 4) (a : BitVec 4) (b : BitVec 4) (k : BitVec 1) : TableWord.Statement (.mmaS8 g c a b k) :=
  Or.inr ⟨false, fun m => ⟨_, rfl, by simp only [BitVec.getLsbD_append]; rfl, by cases m <;> simp only [markerOf, BitVec.getLsbD_append] <;> rfl⟩⟩

theorem TableWord.mvStream (g : Guard) (c : BitVec 4) (v : BitVec 4) (r : BitVec 4) (f : BitVec 3) (m : BitVec 3) (k : BitVec 1) : TableWord.Statement (.mvStream g c v r f m k) :=
  Or.inr ⟨false, fun m => ⟨_, rfl, by simp only [BitVec.getLsbD_append]; rfl, by cases m <;> simp only [markerOf, BitVec.getLsbD_append] <;> rfl⟩⟩

theorem TableWord.accmovNarrow (g : Guard) (d : BitVec 6) (c : BitVec 4) (x : BitVec 1) (t : BitVec 4) : TableWord.Statement (.accmovNarrow g d c x t) :=
  Or.inr ⟨false, fun m => ⟨_, rfl, by simp only [BitVec.getLsbD_append]; rfl, by cases m <;> simp only [markerOf, BitVec.getLsbD_append] <;> rfl⟩⟩

theorem TableWord.accmovWiden (g : Guard) (d : BitVec 6) (c : BitVec 4) (t : BitVec 4) : TableWord.Statement (.accmovWiden g d c t) :=
  Or.inr ⟨false, fun m => ⟨_, rfl, by simp only [BitVec.getLsbD_append]; rfl, by cases m <;> simp only [markerOf, BitVec.getLsbD_append] <;> rfl⟩⟩

theorem TableWord.accZero (g : Guard) (c : BitVec 4) : TableWord.Statement (.accZero g c) :=
  Or.inr ⟨false, fun m => ⟨_, rfl, by simp only [BitVec.getLsbD_append]; rfl, by cases m <;> simp only [markerOf, BitVec.getLsbD_append] <;> rfl⟩⟩

theorem TableWord.accDecay (g : Guard) (c : BitVec 4) (d : BitVec 6) : TableWord.Statement (.accDecay g c d) :=
  Or.inr ⟨false, fun m => ⟨_, rfl, by simp only [BitVec.getLsbD_append]; rfl, by cases m <;> simp only [markerOf, BitVec.getLsbD_append] <;> rfl⟩⟩

theorem TableWord.accSpill (g : Guard) (c : BitVec 4) (r : BitVec 4) : TableWord.Statement (.accSpill g c r) :=
  Or.inr ⟨false, fun m => ⟨_, rfl, by simp only [BitVec.getLsbD_append]; rfl, by cases m <;> simp only [markerOf, BitVec.getLsbD_append] <;> rfl⟩⟩

theorem TableWord.accFill (g : Guard) (c : BitVec 4) (r : BitVec 4) : TableWord.Statement (.accFill g c r) :=
  Or.inr ⟨false, fun m => ⟨_, rfl, by simp only [BitVec.getLsbD_append]; rfl, by cases m <;> simp only [markerOf, BitVec.getLsbD_append] <;> rfl⟩⟩

theorem TableWord.tld (g : Guard) (t : BitVec 4) (r : BitVec 4) : TableWord.Statement (.tld g t r) :=
  Or.inr ⟨false, fun m => ⟨_, rfl, by simp only [BitVec.getLsbD_append]; rfl, by cases m <;> simp only [markerOf, BitVec.getLsbD_append] <;> rfl⟩⟩

theorem TableWord.tst (g : Guard) (t : BitVec 4) (r : BitVec 4) : TableWord.Statement (.tst g t r) :=
  Or.inr ⟨false, fun m => ⟨_, rfl, by simp only [BitVec.getLsbD_append]; rfl, by cases m <;> simp only [markerOf, BitVec.getLsbD_append] <;> rfl⟩⟩

theorem TableWord.tzero (g : Guard) (t : BitVec 4) : TableWord.Statement (.tzero g t) :=
  Or.inr ⟨false, fun m => ⟨_, rfl, by simp only [BitVec.getLsbD_append]; rfl, by cases m <;> simp only [markerOf, BitVec.getLsbD_append] <;> rfl⟩⟩

theorem TableWord.ttrans (g : Guard) (t : BitVec 4) (u : BitVec 4) : TableWord.Statement (.ttrans g t u) :=
  Or.inr ⟨false, fun m => ⟨_, rfl, by simp only [BitVec.getLsbD_append]; rfl, by cases m <;> simp only [markerOf, BitVec.getLsbD_append] <;> rfl⟩⟩

theorem TableWord.xredAdd (g : Guard) (d : BitVec 6) (a : BitVec 6) (t : BitVec 3) : TableWord.Statement (.xredAdd g d a t) :=
  Or.inr ⟨false, fun m => ⟨_, rfl, by simp only [BitVec.getLsbD_append]; rfl, by cases m <;> simp only [markerOf, BitVec.getLsbD_append] <;> rfl⟩⟩

theorem TableWord.xredMin (g : Guard) (d : BitVec 6) (a : BitVec 6) (t : BitVec 3) : TableWord.Statement (.xredMin g d a t) :=
  Or.inr ⟨false, fun m => ⟨_, rfl, by simp only [BitVec.getLsbD_append]; rfl, by cases m <;> simp only [markerOf, BitVec.getLsbD_append] <;> rfl⟩⟩

theorem TableWord.xredMax (g : Guard) (d : BitVec 6) (a : BitVec 6) (t : BitVec 3) : TableWord.Statement (.xredMax g d a t) :=
  Or.inr ⟨false, fun m => ⟨_, rfl, by simp only [BitVec.getLsbD_append]; rfl, by cases m <;> simp only [markerOf, BitVec.getLsbD_append] <;> rfl⟩⟩

theorem TableWord.xredAnd (g : Guard) (d : BitVec 6) (a : BitVec 6) : TableWord.Statement (.xredAnd g d a) :=
  Or.inr ⟨false, fun m => ⟨_, rfl, by simp only [BitVec.getLsbD_append]; rfl, by cases m <;> simp only [markerOf, BitVec.getLsbD_append] <;> rfl⟩⟩

theorem TableWord.xredOr (g : Guard) (d : BitVec 6) (a : BitVec 6) : TableWord.Statement (.xredOr g d a) :=
  Or.inr ⟨false, fun m => ⟨_, rfl, by simp only [BitVec.getLsbD_append]; rfl, by cases m <;> simp only [markerOf, BitVec.getLsbD_append] <;> rfl⟩⟩

theorem TableWord.xredXor (g : Guard) (d : BitVec 6) (a : BitVec 6) : TableWord.Statement (.xredXor g d a) :=
  Or.inr ⟨false, fun m => ⟨_, rfl, by simp only [BitVec.getLsbD_append]; rfl, by cases m <;> simp only [markerOf, BitVec.getLsbD_append] <;> rfl⟩⟩

theorem TableWord.xminIdx (g : Guard) (d : BitVec 6) (a : BitVec 6) (t : BitVec 3) : TableWord.Statement (.xminIdx g d a t) :=
  Or.inr ⟨false, fun m => ⟨_, rfl, by simp only [BitVec.getLsbD_append]; rfl, by cases m <;> simp only [markerOf, BitVec.getLsbD_append] <;> rfl⟩⟩

theorem TableWord.xmaxIdx (g : Guard) (d : BitVec 6) (a : BitVec 6) (t : BitVec 3) : TableWord.Statement (.xmaxIdx g d a t) :=
  Or.inr ⟨false, fun m => ⟨_, rfl, by simp only [BitVec.getLsbD_append]; rfl, by cases m <;> simp only [markerOf, BitVec.getLsbD_append] <;> rfl⟩⟩

theorem TableWord.xscanAdd (g : Guard) (d : BitVec 6) (a : BitVec 6) (t : BitVec 3) : TableWord.Statement (.xscanAdd g d a t) :=
  Or.inr ⟨false, fun m => ⟨_, rfl, by simp only [BitVec.getLsbD_append]; rfl, by cases m <;> simp only [markerOf, BitVec.getLsbD_append] <;> rfl⟩⟩

theorem TableWord.pickSlot (g : Guard) (d : BitVec 6) (a : BitVec 6) (b : BitVec 6) : TableWord.Statement (.pickSlot g d a b) :=
  Or.inr ⟨false, fun m => ⟨_, rfl, by simp only [BitVec.getLsbD_append]; rfl, by cases m <;> simp only [markerOf, BitVec.getLsbD_append] <;> rfl⟩⟩

theorem TableWord.pickRank (g : Guard) (d : BitVec 6) (a : BitVec 6) (b : BitVec 6) : TableWord.Statement (.pickRank g d a b) :=
  Or.inr ⟨false, fun m => ⟨_, rfl, by simp only [BitVec.getLsbD_append]; rfl, by cases m <;> simp only [markerOf, BitVec.getLsbD_append] <;> rfl⟩⟩

theorem TableWord.pickBack (g : Guard) (d : BitVec 6) (a : BitVec 6) (b : BitVec 6) : TableWord.Statement (.pickBack g d a b) :=
  Or.inr ⟨false, fun m => ⟨_, rfl, by simp only [BitVec.getLsbD_append]; rfl, by cases m <;> simp only [markerOf, BitVec.getLsbD_append] <;> rfl⟩⟩

theorem TableWord.pickFlip (g : Guard) (d : BitVec 6) (a : BitVec 6) (b : BitVec 6) : TableWord.Statement (.pickFlip g d a b) :=
  Or.inr ⟨false, fun m => ⟨_, rfl, by simp only [BitVec.getLsbD_append]; rfl, by cases m <;> simp only [markerOf, BitVec.getLsbD_append] <;> rfl⟩⟩

theorem TableWord.pollAny (g : Guard) (d : BitVec 3) (a : BitVec 3) : TableWord.Statement (.pollAny g d a) :=
  Or.inr ⟨false, fun m => ⟨_, rfl, by simp only [BitVec.getLsbD_append]; rfl, by cases m <;> simp only [markerOf, BitVec.getLsbD_append] <;> rfl⟩⟩

theorem TableWord.pollAll (g : Guard) (d : BitVec 3) (a : BitVec 3) : TableWord.Statement (.pollAll g d a) :=
  Or.inr ⟨false, fun m => ⟨_, rfl, by simp only [BitVec.getLsbD_append]; rfl, by cases m <;> simp only [markerOf, BitVec.getLsbD_append] <;> rfl⟩⟩

theorem TableWord.pollMask (g : Guard) (d : BitVec 6) (a : BitVec 3) : TableWord.Statement (.pollMask g d a) :=
  Or.inr ⟨false, fun m => ⟨_, rfl, by simp only [BitVec.getLsbD_append]; rfl, by cases m <;> simp only [markerOf, BitVec.getLsbD_append] <;> rfl⟩⟩

theorem TableWord.pollCount (g : Guard) (d : BitVec 6) (a : BitVec 3) : TableWord.Statement (.pollCount g d a) :=
  Or.inr ⟨false, fun m => ⟨_, rfl, by simp only [BitVec.getLsbD_append]; rfl, by cases m <;> simp only [markerOf, BitVec.getLsbD_append] <;> rfl⟩⟩

theorem TableWord.cadv (g : Guard) (d : BitVec 4) (a : BitVec 4) (b : BitVec 6) : TableWord.Statement (.cadv g d a b) :=
  Or.inr ⟨false, fun m => ⟨_, rfl, by simp only [BitVec.getLsbD_append]; rfl, by cases m <;> simp only [markerOf, BitVec.getLsbD_append] <;> rfl⟩⟩

theorem TableWord.cplace (g : Guard) (d : BitVec 4) (a : BitVec 4) (b : BitVec 6) : TableWord.Statement (.cplace g d a b) :=
  Or.inr ⟨false, fun m => ⟨_, rfl, by simp only [BitVec.getLsbD_append]; rfl, by cases m <;> simp only [markerOf, BitVec.getLsbD_append] <;> rfl⟩⟩

theorem TableWord.cclip (g : Guard) (d : BitVec 4) (a : BitVec 4) (b : BitVec 6) : TableWord.Statement (.cclip g d a b) :=
  Or.inr ⟨false, fun m => ⟨_, rfl, by simp only [BitVec.getLsbD_append]; rfl, by cases m <;> simp only [markerOf, BitVec.getLsbD_append] <;> rfl⟩⟩

theorem TableWord.cclipExact (g : Guard) (d : BitVec 4) (a : BitVec 4) (b : BitVec 6) : TableWord.Statement (.cclipExact g d a b) :=
  Or.inr ⟨false, fun m => ⟨_, rfl, by simp only [BitVec.getLsbD_append]; rfl, by cases m <;> simp only [markerOf, BitVec.getLsbD_append] <;> rfl⟩⟩

theorem TableWord.cstrip (g : Guard) (d : BitVec 4) (a : BitVec 4) (b : BitVec 6) : TableWord.Statement (.cstrip g d a b) :=
  Or.inr ⟨false, fun m => ⟨_, rfl, by simp only [BitVec.getLsbD_append]; rfl, by cases m <;> simp only [markerOf, BitVec.getLsbD_append] <;> rfl⟩⟩

theorem TableWord.cwrap (g : Guard) (d : BitVec 4) (a : BitVec 4) (b : BitVec 4) : TableWord.Statement (.cwrap g d a b) :=
  Or.inr ⟨false, fun m => ⟨_, rfl, by simp only [BitVec.getLsbD_append]; rfl, by cases m <;> simp only [markerOf, BitVec.getLsbD_append] <;> rfl⟩⟩

theorem TableWord.cwrapEntry (g : Guard) (d : BitVec 4) (a : BitVec 4) : TableWord.Statement (.cwrapEntry g d a) :=
  Or.inr ⟨false, fun m => ⟨_, rfl, by simp only [BitVec.getLsbD_append]; rfl, by cases m <;> simp only [markerOf, BitVec.getLsbD_append] <;> rfl⟩⟩

theorem TableWord.cwrapComp (g : Guard) (d : BitVec 4) (a : BitVec 4) : TableWord.Statement (.cwrapComp g d a) :=
  Or.inr ⟨false, fun m => ⟨_, rfl, by simp only [BitVec.getLsbD_append]; rfl, by cases m <;> simp only [markerOf, BitVec.getLsbD_append] <;> rfl⟩⟩

theorem TableWord.cunwrap (g : Guard) (d : BitVec 4) (a : BitVec 4) (b : BitVec 4) : TableWord.Statement (.cunwrap g d a b) :=
  Or.inr ⟨false, fun m => ⟨_, rfl, by simp only [BitVec.getLsbD_append]; rfl, by cases m <;> simp only [markerOf, BitVec.getLsbD_append] <;> rfl⟩⟩

theorem TableWord.ccopy (g : Guard) (d : BitVec 4) (a : BitVec 4) : TableWord.Statement (.ccopy g d a) :=
  Or.inr ⟨false, fun m => ⟨_, rfl, by simp only [BitVec.getLsbD_append]; rfl, by cases m <;> simp only [markerOf, BitVec.getLsbD_append] <;> rfl⟩⟩

theorem TableWord.cdetag (g : Guard) (d : BitVec 4) (a : BitVec 4) : TableWord.Statement (.cdetag g d a) :=
  Or.inr ⟨false, fun m => ⟨_, rfl, by simp only [BitVec.getLsbD_append]; rfl, by cases m <;> simp only [markerOf, BitVec.getLsbD_append] <;> rfl⟩⟩

theorem TableWord.cbcast (g : Guard) (d : BitVec 4) (b : BitVec 4) : TableWord.Statement (.cbcast g d b) :=
  Or.inr ⟨false, fun m => ⟨_, rfl, by simp only [BitVec.getLsbD_append]; rfl, by cases m <;> simp only [markerOf, BitVec.getLsbD_append] <;> rfl⟩⟩

theorem TableWord.creadAddr (g : Guard) (a : BitVec 4) (b : BitVec 6) : TableWord.Statement (.creadAddr g a b) :=
  Or.inr ⟨false, fun m => ⟨_, rfl, by simp only [BitVec.getLsbD_append]; rfl, by cases m <;> simp only [markerOf, BitVec.getLsbD_append] <;> rfl⟩⟩

theorem TableWord.creadBase (g : Guard) (a : BitVec 4) (b : BitVec 6) : TableWord.Statement (.creadBase g a b) :=
  Or.inr ⟨false, fun m => ⟨_, rfl, by simp only [BitVec.getLsbD_append]; rfl, by cases m <;> simp only [markerOf, BitVec.getLsbD_append] <;> rfl⟩⟩

theorem TableWord.creadLen (g : Guard) (a : BitVec 4) (b : BitVec 6) : TableWord.Statement (.creadLen g a b) :=
  Or.inr ⟨false, fun m => ⟨_, rfl, by simp only [BitVec.getLsbD_append]; rfl, by cases m <;> simp only [markerOf, BitVec.getLsbD_append] <;> rfl⟩⟩

theorem TableWord.creadInfo (g : Guard) (a : BitVec 4) (b : BitVec 6) : TableWord.Statement (.creadInfo g a b) :=
  Or.inr ⟨false, fun m => ⟨_, rfl, by simp only [BitVec.getLsbD_append]; rfl, by cases m <;> simp only [markerOf, BitVec.getLsbD_append] <;> rfl⟩⟩

theorem TableWord.cadvImm (g : Guard) (d : BitVec 4) (a : BitVec 4) (i : BitVec 12) : TableWord.Statement (.cadvImm g d a i) :=
  Or.inr ⟨false, fun m => ⟨_, rfl, by simp only [BitVec.getLsbD_append]; rfl, by cases m <;> simp only [markerOf, BitVec.getLsbD_append] <;> rfl⟩⟩

theorem TableWord.sbjRd (g : Guard) (d : BitVec 6) (a : BitVec 6) : TableWord.Statement (.sbjRd g d a) :=
  Or.inr ⟨false, fun m => ⟨_, rfl, by simp only [BitVec.getLsbD_append]; rfl, by cases m <;> simp only [markerOf, BitVec.getLsbD_append] <;> rfl⟩⟩

theorem TableWord.sbjWr (g : Guard) (d : BitVec 6) (a : BitVec 6) : TableWord.Statement (.sbjWr g d a) :=
  Or.inr ⟨false, fun m => ⟨_, rfl, by simp only [BitVec.getLsbD_append]; rfl, by cases m <;> simp only [markerOf, BitVec.getLsbD_append] <;> rfl⟩⟩

theorem TableWord.sbjLd (g : Guard) (d : BitVec 6) (a : BitVec 6) : TableWord.Statement (.sbjLd g d a) :=
  Or.inr ⟨false, fun m => ⟨_, rfl, by simp only [BitVec.getLsbD_append]; rfl, by cases m <;> simp only [markerOf, BitVec.getLsbD_append] <;> rfl⟩⟩

theorem TableWord.sbjSt (g : Guard) (d : BitVec 6) (a : BitVec 6) : TableWord.Statement (.sbjSt g d a) :=
  Or.inr ⟨false, fun m => ⟨_, rfl, by simp only [BitVec.getLsbD_append]; rfl, by cases m <;> simp only [markerOf, BitVec.getLsbD_append] <;> rfl⟩⟩

theorem TableWord.sbjCap (g : Guard) (d : BitVec 4) (a : BitVec 6) : TableWord.Statement (.sbjCap g d a) :=
  Or.inr ⟨false, fun m => ⟨_, rfl, by simp only [BitVec.getLsbD_append]; rfl, by cases m <;> simp only [markerOf, BitVec.getLsbD_append] <;> rfl⟩⟩

theorem TableWord.hcause (g : Guard) (d : BitVec 6) (i : BitVec 6) : TableWord.Statement (.hcause g d i) :=
  Or.inr ⟨false, fun m => ⟨_, rfl, by simp only [BitVec.getLsbD_append]; rfl, by cases m <;> simp only [markerOf, BitVec.getLsbD_append] <;> rfl⟩⟩

theorem TableWord.hret (g : Guard) (i : BitVec 6) : TableWord.Statement (.hret g i) :=
  Or.inr ⟨false, fun m => ⟨_, rfl, by simp only [BitVec.getLsbD_append]; rfl, by cases m <;> simp only [markerOf, BitVec.getLsbD_append] <;> rfl⟩⟩

theorem TableWord.hpass (g : Guard) (a : BitVec 6) : TableWord.Statement (.hpass g a) :=
  Or.inr ⟨false, fun m => ⟨_, rfl, by simp only [BitVec.getLsbD_append]; rfl, by cases m <;> simp only [markerOf, BitVec.getLsbD_append] <;> rfl⟩⟩

theorem TableWord.uAdd (d : BitVec 6) (a : BitVec 6) (b : BitVec 6) : TableWord.Statement (.uAdd d a b) :=
  Or.inr ⟨true, fun m => ⟨_, rfl, by simp only [BitVec.getLsbD_append]; rfl, by cases m <;> simp only [markerOf, BitVec.getLsbD_append] <;> rfl⟩⟩

theorem TableWord.uSub (d : BitVec 6) (a : BitVec 6) (b : BitVec 6) : TableWord.Statement (.uSub d a b) :=
  Or.inr ⟨true, fun m => ⟨_, rfl, by simp only [BitVec.getLsbD_append]; rfl, by cases m <;> simp only [markerOf, BitVec.getLsbD_append] <;> rfl⟩⟩

theorem TableWord.uMulLo (d : BitVec 6) (a : BitVec 6) (b : BitVec 6) : TableWord.Statement (.uMulLo d a b) :=
  Or.inr ⟨true, fun m => ⟨_, rfl, by simp only [BitVec.getLsbD_append]; rfl, by cases m <;> simp only [markerOf, BitVec.getLsbD_append] <;> rfl⟩⟩

theorem TableWord.uMulHiS64 (d : BitVec 6) (a : BitVec 6) (b : BitVec 6) : TableWord.Statement (.uMulHiS64 d a b) :=
  Or.inr ⟨true, fun m => ⟨_, rfl, by simp only [BitVec.getLsbD_append]; rfl, by cases m <;> simp only [markerOf, BitVec.getLsbD_append] <;> rfl⟩⟩

theorem TableWord.uMulHiN64 (d : BitVec 6) (a : BitVec 6) (b : BitVec 6) : TableWord.Statement (.uMulHiN64 d a b) :=
  Or.inr ⟨true, fun m => ⟨_, rfl, by simp only [BitVec.getLsbD_append]; rfl, by cases m <;> simp only [markerOf, BitVec.getLsbD_append] <;> rfl⟩⟩

theorem TableWord.uAnd (d : BitVec 6) (a : BitVec 6) (b : BitVec 6) : TableWord.Statement (.uAnd d a b) :=
  Or.inr ⟨true, fun m => ⟨_, rfl, by simp only [BitVec.getLsbD_append]; rfl, by cases m <;> simp only [markerOf, BitVec.getLsbD_append] <;> rfl⟩⟩

theorem TableWord.uOr (d : BitVec 6) (a : BitVec 6) (b : BitVec 6) : TableWord.Statement (.uOr d a b) :=
  Or.inr ⟨true, fun m => ⟨_, rfl, by simp only [BitVec.getLsbD_append]; rfl, by cases m <;> simp only [markerOf, BitVec.getLsbD_append] <;> rfl⟩⟩

theorem TableWord.uXor (d : BitVec 6) (a : BitVec 6) (b : BitVec 6) : TableWord.Statement (.uXor d a b) :=
  Or.inr ⟨true, fun m => ⟨_, rfl, by simp only [BitVec.getLsbD_append]; rfl, by cases m <;> simp only [markerOf, BitVec.getLsbD_append] <;> rfl⟩⟩

theorem TableWord.uAndn (d : BitVec 6) (a : BitVec 6) (b : BitVec 6) : TableWord.Statement (.uAndn d a b) :=
  Or.inr ⟨true, fun m => ⟨_, rfl, by simp only [BitVec.getLsbD_append]; rfl, by cases m <;> simp only [markerOf, BitVec.getLsbD_append] <;> rfl⟩⟩

theorem TableWord.uShl (d : BitVec 6) (a : BitVec 6) (b : BitVec 6) : TableWord.Statement (.uShl d a b) :=
  Or.inr ⟨true, fun m => ⟨_, rfl, by simp only [BitVec.getLsbD_append]; rfl, by cases m <;> simp only [markerOf, BitVec.getLsbD_append] <;> rfl⟩⟩

theorem TableWord.uShr (d : BitVec 6) (a : BitVec 6) (b : BitVec 6) : TableWord.Statement (.uShr d a b) :=
  Or.inr ⟨true, fun m => ⟨_, rfl, by simp only [BitVec.getLsbD_append]; rfl, by cases m <;> simp only [markerOf, BitVec.getLsbD_append] <;> rfl⟩⟩

theorem TableWord.uSar (d : BitVec 6) (a : BitVec 6) (b : BitVec 6) : TableWord.Statement (.uSar d a b) :=
  Or.inr ⟨true, fun m => ⟨_, rfl, by simp only [BitVec.getLsbD_append]; rfl, by cases m <;> simp only [markerOf, BitVec.getLsbD_append] <;> rfl⟩⟩

theorem TableWord.uMinS64 (d : BitVec 6) (a : BitVec 6) (b : BitVec 6) : TableWord.Statement (.uMinS64 d a b) :=
  Or.inr ⟨true, fun m => ⟨_, rfl, by simp only [BitVec.getLsbD_append]; rfl, by cases m <;> simp only [markerOf, BitVec.getLsbD_append] <;> rfl⟩⟩

theorem TableWord.uMaxS64 (d : BitVec 6) (a : BitVec 6) (b : BitVec 6) : TableWord.Statement (.uMaxS64 d a b) :=
  Or.inr ⟨true, fun m => ⟨_, rfl, by simp only [BitVec.getLsbD_append]; rfl, by cases m <;> simp only [markerOf, BitVec.getLsbD_append] <;> rfl⟩⟩

theorem TableWord.uMinN64 (d : BitVec 6) (a : BitVec 6) (b : BitVec 6) : TableWord.Statement (.uMinN64 d a b) :=
  Or.inr ⟨true, fun m => ⟨_, rfl, by simp only [BitVec.getLsbD_append]; rfl, by cases m <;> simp only [markerOf, BitVec.getLsbD_append] <;> rfl⟩⟩

theorem TableWord.uMaxN64 (d : BitVec 6) (a : BitVec 6) (b : BitVec 6) : TableWord.Statement (.uMaxN64 d a b) :=
  Or.inr ⟨true, fun m => ⟨_, rfl, by simp only [BitVec.getLsbD_append]; rfl, by cases m <;> simp only [markerOf, BitVec.getLsbD_append] <;> rfl⟩⟩

theorem TableWord.uPopc (d : BitVec 6) (a : BitVec 6) : TableWord.Statement (.uPopc d a) :=
  Or.inr ⟨true, fun m => ⟨_, rfl, by simp only [BitVec.getLsbD_append]; rfl, by cases m <;> simp only [markerOf, BitVec.getLsbD_append] <;> rfl⟩⟩

theorem TableWord.uClz (d : BitVec 6) (a : BitVec 6) : TableWord.Statement (.uClz d a) :=
  Or.inr ⟨true, fun m => ⟨_, rfl, by simp only [BitVec.getLsbD_append]; rfl, by cases m <;> simp only [markerOf, BitVec.getLsbD_append] <;> rfl⟩⟩

theorem TableWord.uCtz (d : BitVec 6) (a : BitVec 6) : TableWord.Statement (.uCtz d a) :=
  Or.inr ⟨true, fun m => ⟨_, rfl, by simp only [BitVec.getLsbD_append]; rfl, by cases m <;> simp only [markerOf, BitVec.getLsbD_append] <;> rfl⟩⟩

theorem TableWord.uAddi (d : BitVec 6) (a : BitVec 6) (i : BitVec 12) : TableWord.Statement (.uAddi d a i) :=
  Or.inr ⟨true, fun m => ⟨_, rfl, by simp only [BitVec.getLsbD_append]; rfl, by cases m <;> simp only [markerOf, BitVec.getLsbD_append] <;> rfl⟩⟩

theorem TableWord.uOri (d : BitVec 6) (a : BitVec 6) (i : BitVec 12) : TableWord.Statement (.uOri d a i) :=
  Or.inr ⟨true, fun m => ⟨_, rfl, by simp only [BitVec.getLsbD_append]; rfl, by cases m <;> simp only [markerOf, BitVec.getLsbD_append] <;> rfl⟩⟩

theorem TableWord.uAndi (d : BitVec 6) (a : BitVec 6) (i : BitVec 12) : TableWord.Statement (.uAndi d a i) :=
  Or.inr ⟨true, fun m => ⟨_, rfl, by simp only [BitVec.getLsbD_append]; rfl, by cases m <;> simp only [markerOf, BitVec.getLsbD_append] <;> rfl⟩⟩

theorem TableWord.uXori (d : BitVec 6) (a : BitVec 6) (i : BitVec 12) : TableWord.Statement (.uXori d a i) :=
  Or.inr ⟨true, fun m => ⟨_, rfl, by simp only [BitVec.getLsbD_append]; rfl, by cases m <;> simp only [markerOf, BitVec.getLsbD_append] <;> rfl⟩⟩

theorem TableWord.uShlImm (d : BitVec 6) (a : BitVec 6) (i : BitVec 6) : TableWord.Statement (.uShlImm d a i) :=
  Or.inr ⟨true, fun m => ⟨_, rfl, by simp only [BitVec.getLsbD_append]; rfl, by cases m <;> simp only [markerOf, BitVec.getLsbD_append] <;> rfl⟩⟩

theorem TableWord.uShrImm (d : BitVec 6) (a : BitVec 6) (i : BitVec 6) : TableWord.Statement (.uShrImm d a i) :=
  Or.inr ⟨true, fun m => ⟨_, rfl, by simp only [BitVec.getLsbD_append]; rfl, by cases m <;> simp only [markerOf, BitVec.getLsbD_append] <;> rfl⟩⟩

theorem TableWord.uSarImm (d : BitVec 6) (a : BitVec 6) (i : BitVec 6) : TableWord.Statement (.uSarImm d a i) :=
  Or.inr ⟨true, fun m => ⟨_, rfl, by simp only [BitVec.getLsbD_append]; rfl, by cases m <;> simp only [markerOf, BitVec.getLsbD_append] <;> rfl⟩⟩

theorem TableWord.uRotImm (d : BitVec 6) (a : BitVec 6) (i : BitVec 6) : TableWord.Statement (.uRotImm d a i) :=
  Or.inr ⟨true, fun m => ⟨_, rfl, by simp only [BitVec.getLsbD_append]; rfl, by cases m <;> simp only [markerOf, BitVec.getLsbD_append] <;> rfl⟩⟩

theorem TableWord.lui (d : BitVec 6) (h : BitVec 2) (i : BitVec 16) : TableWord.Statement (.lui d h i) :=
  Or.inr ⟨true, fun m => ⟨_, rfl, by simp only [BitVec.getLsbD_append]; rfl, by cases m <;> simp only [markerOf, BitVec.getLsbD_append] <;> rfl⟩⟩

theorem TableWord.bra (o : BitVec 24) : TableWord.Statement (.bra o) :=
  Or.inr ⟨true, fun m => ⟨_, rfl, by simp only [BitVec.getLsbD_append]; rfl, by cases m <;> simp only [markerOf, BitVec.getLsbD_append] <;> rfl⟩⟩

theorem TableWord.bEz (a : BitVec 6) (o : BitVec 15) : TableWord.Statement (.bEz a o) :=
  Or.inr ⟨true, fun m => ⟨_, rfl, by simp only [BitVec.getLsbD_append]; rfl, by cases m <;> simp only [markerOf, BitVec.getLsbD_append] <;> rfl⟩⟩

theorem TableWord.bNz (a : BitVec 6) (o : BitVec 15) : TableWord.Statement (.bNz a o) :=
  Or.inr ⟨true, fun m => ⟨_, rfl, by simp only [BitVec.getLsbD_append]; rfl, by cases m <;> simp only [markerOf, BitVec.getLsbD_append] <;> rfl⟩⟩

theorem TableWord.bLz (a : BitVec 6) (o : BitVec 15) : TableWord.Statement (.bLz a o) :=
  Or.inr ⟨true, fun m => ⟨_, rfl, by simp only [BitVec.getLsbD_append]; rfl, by cases m <;> simp only [markerOf, BitVec.getLsbD_append] <;> rfl⟩⟩

theorem TableWord.bGez (a : BitVec 6) (o : BitVec 15) : TableWord.Statement (.bGez a o) :=
  Or.inr ⟨true, fun m => ⟨_, rfl, by simp only [BitVec.getLsbD_append]; rfl, by cases m <;> simp only [markerOf, BitVec.getLsbD_append] <;> rfl⟩⟩

theorem TableWord.bGz (a : BitVec 6) (o : BitVec 15) : TableWord.Statement (.bGz a o) :=
  Or.inr ⟨true, fun m => ⟨_, rfl, by simp only [BitVec.getLsbD_append]; rfl, by cases m <;> simp only [markerOf, BitVec.getLsbD_append] <;> rfl⟩⟩

theorem TableWord.bLez (a : BitVec 6) (o : BitVec 15) : TableWord.Statement (.bLez a o) :=
  Or.inr ⟨true, fun m => ⟨_, rfl, by simp only [BitVec.getLsbD_append]; rfl, by cases m <;> simp only [markerOf, BitVec.getLsbD_append] <;> rfl⟩⟩

theorem TableWord.brp (n : BitVec 1) (p : BitVec 3) (o : BitVec 20) : TableWord.Statement (.brp n p o) :=
  Or.inr ⟨true, fun m => ⟨_, rfl, by simp only [BitVec.getLsbD_append]; rfl, by cases m <;> simp only [markerOf, BitVec.getLsbD_append] <;> rfl⟩⟩

theorem TableWord.ret (a : BitVec 6) : TableWord.Statement (.ret a) :=
  Or.inr ⟨true, fun m => ⟨_, rfl, by simp only [BitVec.getLsbD_append]; rfl, by cases m <;> simp only [markerOf, BitVec.getLsbD_append] <;> rfl⟩⟩

theorem TableWord.jmpc (l : BitVec 2) (d : BitVec 4) (a : BitVec 4) : TableWord.Statement (.jmpc l d a) :=
  Or.inr ⟨true, fun m => ⟨_, rfl, by simp only [BitVec.getLsbD_append]; rfl, by cases m <;> simp only [markerOf, BitVec.getLsbD_append] <;> rfl⟩⟩

theorem TableWord.call (o : BitVec 24) : TableWord.Statement (.call o) :=
  Or.inr ⟨true, fun m => ⟨_, rfl, by simp only [BitVec.getLsbD_append]; rfl, by cases m <;> simp only [markerOf, BitVec.getLsbD_append] <;> rfl⟩⟩

theorem TableWord.loop (a : BitVec 6) (o : BitVec 15) : TableWord.Statement (.loop a o) :=
  Or.inr ⟨true, fun m => ⟨_, rfl, by simp only [BitVec.getLsbD_append]; rfl, by cases m <;> simp only [markerOf, BitVec.getLsbD_append] <;> rfl⟩⟩

theorem TableWord.mfsr (d : BitVec 6) (r : BitVec 12) : TableWord.Statement (.mfsr d r) :=
  Or.inr ⟨true, fun m => ⟨_, rfl, by simp only [BitVec.getLsbD_append]; rfl, by cases m <;> simp only [markerOf, BitVec.getLsbD_append] <;> rfl⟩⟩

theorem TableWord.mtsr (d : BitVec 6) (r : BitVec 12) : TableWord.Statement (.mtsr d r) :=
  Or.inr ⟨true, fun m => ⟨_, rfl, by simp only [BitVec.getLsbD_append]; rfl, by cases m <;> simp only [markerOf, BitVec.getLsbD_append] <;> rfl⟩⟩

theorem TableWord.rep (c : BitVec 6) (x : BitVec 1) (y : BitVec 1) (z : BitVec 1) (t : BitVec 3) : TableWord.Statement (.rep c x y z t) :=
  Or.inr ⟨true, fun m => ⟨_, rfl, by simp only [BitVec.getLsbD_append]; rfl, by cases m <;> simp only [markerOf, BitVec.getLsbD_append] <;> rfl⟩⟩

theorem TableWord.pinPost (h : BitVec 12) : TableWord.Statement (.pinPost h) :=
  Or.inr ⟨true, fun m => ⟨_, rfl, by simp only [BitVec.getLsbD_append]; rfl, by cases m <;> simp only [markerOf, BitVec.getLsbD_append] <;> rfl⟩⟩

theorem TableWord.pinWait (h : BitVec 12) : TableWord.Statement (.pinWait h) :=
  Or.inr ⟨true, fun m => ⟨_, rfl, by simp only [BitVec.getLsbD_append]; rfl, by cases m <;> simp only [markerOf, BitVec.getLsbD_append] <;> rfl⟩⟩

theorem TableWord.pinMeet (h : BitVec 12) : TableWord.Statement (.pinMeet h) :=
  Or.inr ⟨true, fun m => ⟨_, rfl, by simp only [BitVec.getLsbD_append]; rfl, by cases m <;> simp only [markerOf, BitVec.getLsbD_append] <;> rfl⟩⟩

theorem TableWord.pushS (q : BitVec 3) (a : BitVec 6) : TableWord.Statement (.pushS q a) :=
  Or.inr ⟨true, fun m => ⟨_, rfl, by simp only [BitVec.getLsbD_append]; rfl, by cases m <;> simp only [markerOf, BitVec.getLsbD_append] <;> rfl⟩⟩

theorem TableWord.pushK (q : BitVec 3) (a : BitVec 4) : TableWord.Statement (.pushK q a) :=
  Or.inr ⟨true, fun m => ⟨_, rfl, by simp only [BitVec.getLsbD_append]; rfl, by cases m <;> simp only [markerOf, BitVec.getLsbD_append] <;> rfl⟩⟩

theorem TableWord.popS (d : BitVec 6) (q : BitVec 3) : TableWord.Statement (.popS d q) :=
  Or.inr ⟨true, fun m => ⟨_, rfl, by simp only [BitVec.getLsbD_append]; rfl, by cases m <;> simp only [markerOf, BitVec.getLsbD_append] <;> rfl⟩⟩

theorem TableWord.popK (d : BitVec 4) (q : BitVec 3) : TableWord.Statement (.popK d q) :=
  Or.inr ⟨true, fun m => ⟨_, rfl, by simp only [BitVec.getLsbD_append]; rfl, by cases m <;> simp only [markerOf, BitVec.getLsbD_append] <;> rfl⟩⟩

theorem TableWord.cpYield (q : BitVec 3) (o : BitVec 21) : TableWord.Statement (.cpYield q o) :=
  Or.inr ⟨true, fun m => ⟨_, rfl, by simp only [BitVec.getLsbD_append]; rfl, by cases m <;> simp only [markerOf, BitVec.getLsbD_append] <;> rfl⟩⟩

theorem TableWord.fence (k : BitVec 3) : TableWord.Statement (.fence k) :=
  Or.inr ⟨true, fun m => ⟨_, rfl, by simp only [BitVec.getLsbD_append]; rfl, by cases m <;> simp only [markerOf, BitVec.getLsbD_append] <;> rfl⟩⟩

theorem TableWord.qfence (m : BitVec 8) : TableWord.Statement (.qfence m) :=
  Or.inr ⟨true, fun m => ⟨_, rfl, by simp only [BitVec.getLsbD_append]; rfl, by cases m <;> simp only [markerOf, BitVec.getLsbD_append] <;> rfl⟩⟩

theorem TableWord.tcfg (t : BitVec 4) (a : BitVec 6) (n : BitVec 4) : TableWord.Statement (.tcfg t a n) :=
  Or.inr ⟨true, fun m => ⟨_, rfl, by simp only [BitVec.getLsbD_append]; rfl, by cases m <;> simp only [markerOf, BitVec.getLsbD_append] <;> rfl⟩⟩

theorem TableWord.ucap (d : BitVec 6) (a : BitVec 6) (b : BitVec 6) (f : BitVec 6) : TableWord.Statement (.ucap d a b f) :=
  Or.inr ⟨true, fun m => ⟨_, rfl, by simp only [BitVec.getLsbD_append]; rfl, by cases m <;> simp only [markerOf, BitVec.getLsbD_append] <;> rfl⟩⟩

theorem TableWord.uldW (d : BitVec 6) (k : BitVec 4) (o : BitVec 11) : TableWord.Statement (.uldW d k o) :=
  Or.inr ⟨true, fun m => ⟨_, rfl, by simp only [BitVec.getLsbD_append]; rfl, by cases m <;> simp only [markerOf, BitVec.getLsbD_append] <;> rfl⟩⟩

theorem TableWord.uldD (d : BitVec 6) (k : BitVec 4) (o : BitVec 11) : TableWord.Statement (.uldD d k o) :=
  Or.inr ⟨true, fun m => ⟨_, rfl, by simp only [BitVec.getLsbD_append]; rfl, by cases m <;> simp only [markerOf, BitVec.getLsbD_append] <;> rfl⟩⟩

theorem TableWord.uldC (d : BitVec 4) (k : BitVec 4) (o : BitVec 11) : TableWord.Statement (.uldC d k o) :=
  Or.inr ⟨true, fun m => ⟨_, rfl, by simp only [BitVec.getLsbD_append]; rfl, by cases m <;> simp only [markerOf, BitVec.getLsbD_append] <;> rfl⟩⟩

theorem TableWord.ustW (d : BitVec 6) (k : BitVec 4) (o : BitVec 11) : TableWord.Statement (.ustW d k o) :=
  Or.inr ⟨true, fun m => ⟨_, rfl, by simp only [BitVec.getLsbD_append]; rfl, by cases m <;> simp only [markerOf, BitVec.getLsbD_append] <;> rfl⟩⟩

theorem TableWord.ustD (d : BitVec 6) (k : BitVec 4) (o : BitVec 11) : TableWord.Statement (.ustD d k o) :=
  Or.inr ⟨true, fun m => ⟨_, rfl, by simp only [BitVec.getLsbD_append]; rfl, by cases m <;> simp only [markerOf, BitVec.getLsbD_append] <;> rfl⟩⟩

theorem TableWord.ustC (d : BitVec 4) (k : BitVec 4) (o : BitVec 11) : TableWord.Statement (.ustC d k o) :=
  Or.inr ⟨true, fun m => ⟨_, rfl, by simp only [BitVec.getLsbD_append]; rfl, by cases m <;> simp only [markerOf, BitVec.getLsbD_append] <;> rfl⟩⟩

theorem TableWord.spawn (d : BitVec 6) (a : BitVec 6) (b : BitVec 6) : TableWord.Statement (.spawn d a b) :=
  Or.inr ⟨true, fun m => ⟨_, rfl, by simp only [BitVec.getLsbD_append]; rfl, by cases m <;> simp only [markerOf, BitVec.getLsbD_append] <;> rfl⟩⟩

theorem TableWord.evtWait (a : BitVec 6) (b : BitVec 6) : TableWord.Statement (.evtWait a b) :=
  Or.inr ⟨true, fun m => ⟨_, rfl, by simp only [BitVec.getLsbD_append]; rfl, by cases m <;> simp only [markerOf, BitVec.getLsbD_append] <;> rfl⟩⟩

theorem TableWord.evtTest (d : BitVec 6) (a : BitVec 6) (b : BitVec 6) : TableWord.Statement (.evtTest d a b) :=
  Or.inr ⟨true, fun m => ⟨_, rfl, by simp only [BitVec.getLsbD_append]; rfl, by cases m <;> simp only [markerOf, BitVec.getLsbD_append] <;> rfl⟩⟩

theorem TableWord.seamOpen (d : BitVec 6) : TableWord.Statement (.seamOpen d) :=
  Or.inr ⟨true, fun m => ⟨_, rfl, by simp only [BitVec.getLsbD_append]; rfl, by cases m <;> simp only [markerOf, BitVec.getLsbD_append] <;> rfl⟩⟩

theorem TableWord.seamStep (d : BitVec 6) (a : BitVec 4) (b : BitVec 4) : TableWord.Statement (.seamStep d a b) :=
  Or.inr ⟨true, fun m => ⟨_, rfl, by simp only [BitVec.getLsbD_append]; rfl, by cases m <;> simp only [markerOf, BitVec.getLsbD_append] <;> rfl⟩⟩

theorem TableWord.seamClose (d : BitVec 6) : TableWord.Statement (.seamClose d) :=
  Or.inr ⟨true, fun m => ⟨_, rfl, by simp only [BitVec.getLsbD_append]; rfl, by cases m <;> simp only [markerOf, BitVec.getLsbD_append] <;> rfl⟩⟩

theorem TableWord.seamDrop (d : BitVec 6) : TableWord.Statement (.seamDrop d) :=
  Or.inr ⟨true, fun m => ⟨_, rfl, by simp only [BitVec.getLsbD_append]; rfl, by cases m <;> simp only [markerOf, BitVec.getLsbD_append] <;> rfl⟩⟩

theorem TableWord.seamLink (d : BitVec 6) (a : BitVec 6) : TableWord.Statement (.seamLink d a) :=
  Or.inr ⟨true, fun m => ⟨_, rfl, by simp only [BitVec.getLsbD_append]; rfl, by cases m <;> simp only [markerOf, BitVec.getLsbD_append] <;> rfl⟩⟩

theorem TableWord.seamState (d : BitVec 6) (a : BitVec 6) : TableWord.Statement (.seamState d a) :=
  Or.inr ⟨true, fun m => ⟨_, rfl, by simp only [BitVec.getLsbD_append]; rfl, by cases m <;> simp only [markerOf, BitVec.getLsbD_append] <;> rfl⟩⟩

theorem TableWord.seamResume (d : BitVec 6) (a : BitVec 6) : TableWord.Statement (.seamResume d a) :=
  Or.inr ⟨true, fun m => ⟨_, rfl, by simp only [BitVec.getLsbD_append]; rfl, by cases m <;> simp only [markerOf, BitVec.getLsbD_append] <;> rfl⟩⟩

theorem TableWord.gateCall (a : BitVec 4) (b : BitVec 4) : TableWord.Statement (.gateCall a b) :=
  Or.inr ⟨true, fun m => ⟨_, rfl, by simp only [BitVec.getLsbD_append]; rfl, by cases m <;> simp only [markerOf, BitVec.getLsbD_append] <;> rfl⟩⟩

theorem TableWord.netPut (d : BitVec 6) (a : BitVec 4) (b : BitVec 4) : TableWord.Statement (.netPut d a b) :=
  Or.inr ⟨true, fun m => ⟨_, rfl, by simp only [BitVec.getLsbD_append]; rfl, by cases m <;> simp only [markerOf, BitVec.getLsbD_append] <;> rfl⟩⟩

theorem TableWord.netGet (d : BitVec 6) (a : BitVec 4) (b : BitVec 4) : TableWord.Statement (.netGet d a b) :=
  Or.inr ⟨true, fun m => ⟨_, rfl, by simp only [BitVec.getLsbD_append]; rfl, by cases m <;> simp only [markerOf, BitVec.getLsbD_append] <;> rfl⟩⟩

theorem TableWord.netRed (d : BitVec 6) (a : BitVec 4) (b : BitVec 4) : TableWord.Statement (.netRed d a b) :=
  Or.inr ⟨true, fun m => ⟨_, rfl, by simp only [BitVec.getLsbD_append]; rfl, by cases m <;> simp only [markerOf, BitVec.getLsbD_append] <;> rfl⟩⟩

theorem TableWord.netDone (d : BitVec 6) : TableWord.Statement (.netDone d) :=
  Or.inr ⟨true, fun m => ⟨_, rfl, by simp only [BitVec.getLsbD_append]; rfl, by cases m <;> simp only [markerOf, BitVec.getLsbD_append] <;> rfl⟩⟩

theorem TableWord.csrRd (d : BitVec 6) (a : BitVec 6) (b : BitVec 6) : TableWord.Statement (.csrRd d a b) :=
  Or.inr ⟨true, fun m => ⟨_, rfl, by simp only [BitVec.getLsbD_append]; rfl, by cases m <;> simp only [markerOf, BitVec.getLsbD_append] <;> rfl⟩⟩

theorem TableWord.csrWr (d : BitVec 6) (a : BitVec 6) (b : BitVec 6) : TableWord.Statement (.csrWr d a b) :=
  Or.inr ⟨true, fun m => ⟨_, rfl, by simp only [BitVec.getLsbD_append]; rfl, by cases m <;> simp only [markerOf, BitVec.getLsbD_append] <;> rfl⟩⟩

theorem TableWord.tlbInv (d : BitVec 6) (a : BitVec 6) (b : BitVec 6) : TableWord.Statement (.tlbInv d a b) :=
  Or.inr ⟨true, fun m => ⟨_, rfl, by simp only [BitVec.getLsbD_append]; rfl, by cases m <;> simp only [markerOf, BitVec.getLsbD_append] <;> rfl⟩⟩

theorem TableWord.keyLoad (d : BitVec 6) (a : BitVec 4) (b : BitVec 6) : TableWord.Statement (.keyLoad d a b) :=
  Or.inr ⟨true, fun m => ⟨_, rfl, by simp only [BitVec.getLsbD_append]; rfl, by cases m <;> simp only [markerOf, BitVec.getLsbD_append] <;> rfl⟩⟩

theorem TableWord.keyKill (d : BitVec 6) (a : BitVec 6) : TableWord.Statement (.keyKill d a) :=
  Or.inr ⟨true, fun m => ⟨_, rfl, by simp only [BitVec.getLsbD_append]; rfl, by cases m <;> simp only [markerOf, BitVec.getLsbD_append] <;> rfl⟩⟩

theorem TableWord.revoke (d : BitVec 6) (a : BitVec 6) (b : BitVec 6) : TableWord.Statement (.revoke d a b) :=
  Or.inr ⟨true, fun m => ⟨_, rfl, by simp only [BitVec.getLsbD_append]; rfl, by cases m <;> simp only [markerOf, BitVec.getLsbD_append] <;> rfl⟩⟩

theorem TableWord.attest (d : BitVec 6) (a : BitVec 4) (b : BitVec 6) : TableWord.Statement (.attest d a b) :=
  Or.inr ⟨true, fun m => ⟨_, rfl, by simp only [BitVec.getLsbD_append]; rfl, by cases m <;> simp only [markerOf, BitVec.getLsbD_append] <;> rfl⟩⟩

theorem TableWord.halt (a : BitVec 6) : TableWord.Statement (.halt a) :=
  Or.inr ⟨true, fun m => ⟨_, rfl, by simp only [BitVec.getLsbD_append]; rfl, by cases m <;> simp only [markerOf, BitVec.getLsbD_append] <;> rfl⟩⟩

theorem TableWord.join : TableWord.Statement (.join) :=
  Or.inr ⟨true, fun m => ⟨_, rfl, by simp only [BitVec.getLsbD_append]; rfl, by cases m <;> simp only [markerOf, BitVec.getLsbD_append] <;> rfl⟩⟩

theorem TableWord.exit : TableWord.Statement (.exit) :=
  Or.inr ⟨true, fun m => ⟨_, rfl, by simp only [BitVec.getLsbD_append]; rfl, by cases m <;> simp only [markerOf, BitVec.getLsbD_append] <;> rfl⟩⟩

theorem TableWord.nop : TableWord.Statement (.nop) :=
  Or.inr ⟨true, fun m => ⟨_, rfl, by simp only [BitVec.getLsbD_append]; rfl, by cases m <;> simp only [markerOf, BitVec.getLsbD_append] <;> rfl⟩⟩

theorem TableWord.trap : TableWord.Statement (.trap) :=
  Or.inr ⟨true, fun m => ⟨_, rfl, by simp only [BitVec.getLsbD_append]; rfl, by cases m <;> simp only [markerOf, BitVec.getLsbD_append] <;> rfl⟩⟩

theorem TableWord.brk : TableWord.Statement (.brk) :=
  Or.inr ⟨true, fun m => ⟨_, rfl, by simp only [BitVec.getLsbD_append]; rfl, by cases m <;> simp only [markerOf, BitVec.getLsbD_append] <;> rfl⟩⟩

theorem TableWord.lfence : TableWord.Statement (.lfence) :=
  Or.inr ⟨true, fun m => ⟨_, rfl, by simp only [BitVec.getLsbD_append]; rfl, by cases m <;> simp only [markerOf, BitVec.getLsbD_append] <;> rfl⟩⟩

theorem TableWord.evtPub : TableWord.Statement (.evtPub) :=
  Or.inr ⟨true, fun m => ⟨_, rfl, by simp only [BitVec.getLsbD_append]; rfl, by cases m <;> simp only [markerOf, BitVec.getLsbD_append] <;> rfl⟩⟩

theorem TableWord.gateRet : TableWord.Statement (.gateRet) :=
  Or.inr ⟨true, fun m => ⟨_, rfl, by simp only [BitVec.getLsbD_append]; rfl, by cases m <;> simp only [markerOf, BitVec.getLsbD_append] <;> rfl⟩⟩

theorem TableWord.ppoint : TableWord.Statement (.ppoint) :=
  Or.inr ⟨true, fun m => ⟨_, rfl, by simp only [BitVec.getLsbD_append]; rfl, by cases m <;> simp only [markerOf, BitVec.getLsbD_append] <;> rfl⟩⟩

theorem TableWord.yield : TableWord.Statement (.yield) :=
  Or.inr ⟨true, fun m => ⟨_, rfl, by simp only [BitVec.getLsbD_append]; rfl, by cases m <;> simp only [markerOf, BitVec.getLsbD_append] <;> rfl⟩⟩

theorem TableWord.soloOn : TableWord.Statement (.soloOn) :=
  Or.inr ⟨true, fun m => ⟨_, rfl, by simp only [BitVec.getLsbD_append]; rfl, by cases m <;> simp only [markerOf, BitVec.getLsbD_append] <;> rfl⟩⟩

theorem TableWord.soloOff : TableWord.Statement (.soloOff) :=
  Or.inr ⟨true, fun m => ⟨_, rfl, by simp only [BitVec.getLsbD_append]; rfl, by cases m <;> simp only [markerOf, BitVec.getLsbD_append] <;> rfl⟩⟩

theorem TableWord.longResultReturn (sid entry : Nat) : TableWord.Statement (.longResultReturn sid entry) :=
  Or.inl fun _ => rfl

theorem TableWord.commit (sid : Nat) : TableWord.Statement (.commit sid) :=
  Or.inl fun _ => rfl

theorem TableWord.implicitMarker (sid : Nat) : TableWord.Statement (.implicitMarker sid) :=
  Or.inl fun _ => rfl

theorem TableWord.pillowUnpark (sid : Nat) : TableWord.Statement (.pillowUnpark sid) :=
  Or.inl fun _ => rfl

theorem TableWord.gatherTimeout (bank cause group : Nat) : TableWord.Statement (.gatherTimeout bank cause group) :=
  Or.inl fun _ => rfl

theorem TableWord.handlerStrandPlace (gid core : Nat) : TableWord.Statement (.handlerStrandPlace gid core) :=
  Or.inl fun _ => rfl

theorem TableWord.absenceExpiry (sid : Nat) (frame : Option Nat) : TableWord.Statement (.absenceExpiry sid frame) :=
  Or.inl fun _ => rfl

theorem TableWord.stragglerStart (tid rank : Nat) : TableWord.Statement (.stragglerStart tid rank) :=
  Or.inl fun _ => rfl

theorem TableWord.freshStrandReturn (sid : Nat) : TableWord.Statement (.freshStrandReturn sid) :=
  Or.inl fun _ => rfl

theorem TableWord.rollback (tid : Nat) : TableWord.Statement (.rollback tid) :=
  Or.inl fun _ => rfl

theorem TableWord.apply (ev : Nat) : TableWord.Statement (.apply ev) :=
  Or.inl fun _ => rfl

theorem TableWord.fill (core line : Nat) : TableWord.Statement (.fill core line) :=
  Or.inl fun _ => rfl

theorem TableWord.evict (core line : Nat) : TableWord.Statement (.evict core line) :=
  Or.inl fun _ => rfl

theorem TableWord.readStaged (ev : Nat) : TableWord.Statement (.readStaged ev) :=
  Or.inl fun _ => rfl

theorem TableWord.readL1 (ev : Nat) : TableWord.Statement (.readL1 ev) :=
  Or.inl fun _ => rfl

theorem TableWord.readPoc (ev : Nat) : TableWord.Statement (.readPoc ev) :=
  Or.inl fun _ => rfl

theorem TableWord.modify (ev : Nat) : TableWord.Statement (.modify ev) :=
  Or.inl fun _ => rfl

theorem TableWord.feWaitTake (sid rank : Nat) : TableWord.Statement (.feWaitTake sid rank) :=
  Or.inl fun _ => rfl

theorem TableWord.feWaitFill (sid rank : Nat) : TableWord.Statement (.feWaitFill sid rank) :=
  Or.inl fun _ => rfl

theorem TableWord.copy (cid : Nat) : TableWord.Statement (.copy cid) :=
  Or.inl fun _ => rfl

theorem TableWord.stream (cid : Nat) : TableWord.Statement (.stream cid) :=
  Or.inl fun _ => rfl

theorem TableWord.complete (cid : Nat) : TableWord.Statement (.complete cid) :=
  Or.inl fun _ => rfl

theorem TableWord.layoutFill (rec : Nat) : TableWord.Statement (.layoutFill rec) :=
  Or.inl fun _ => rfl

theorem TableWord.storageRead (cid : Nat) (mediaError : Bool) : TableWord.Statement (.storageRead cid mediaError) :=
  Or.inl fun _ => rfl

theorem TableWord.storageWrite (cid : Nat) (mediaError : Bool) : TableWord.Statement (.storageWrite cid mediaError) :=
  Or.inl fun _ => rfl

theorem TableWord.send (serial : Nat) : TableWord.Statement (.send serial) :=
  Or.inl fun _ => rfl

theorem TableWord.deliver (p : Packet) : TableWord.Statement (.deliver p) :=
  Or.inl fun _ => rfl

theorem TableWord.orphanDeferredFile (index : Nat) : TableWord.Statement (.orphanDeferredFile index) :=
  Or.inl fun _ => rfl

theorem TableWord.allreduce (cid : Nat) (others : List (Nat × List Byte)) : TableWord.Statement (.allreduce cid others) :=
  Or.inl fun _ => rfl

theorem TableWord.broadcast (cid : Nat) (root : List Byte) : TableWord.Statement (.broadcast cid root) :=
  Or.inl fun _ => rfl

theorem TableWord.netBarrier (cid : Nat) : TableWord.Statement (.netBarrier cid) :=
  Or.inl fun _ => rfl

theorem TableWord.seedPlace (launch : Nat) : TableWord.Statement (.seedPlace launch) :=
  Or.inl fun _ => rfl

theorem TableWord.teamCompletion (tid : Nat) : TableWord.Statement (.teamCompletion tid) :=
  Or.inl fun _ => rfl

theorem TableWord.auditReplay (index : Nat) (signature : DWord) (coreNo : Nat) : TableWord.Statement (.auditReplay index signature coreNo) :=
  Or.inl fun _ => rfl

theorem TableWord.auditReplayDrop (index : Nat) : TableWord.Statement (.auditReplayDrop index) :=
  Or.inl fun _ => rfl

theorem TableWord.hangReport (launch : Nat) : TableWord.Statement (.hangReport launch) :=
  Or.inl fun _ => rfl

theorem TableWord.preemptRequest (tid : Nat) : TableWord.Statement (.preemptRequest tid) :=
  Or.inl fun _ => rfl

theorem TableWord.preemptTimeout (sid : Nat) : TableWord.Statement (.preemptTimeout sid) :=
  Or.inl fun _ => rfl

theorem TableWord.teamSave (tid : Nat) : TableWord.Statement (.teamSave tid) :=
  Or.inl fun _ => rfl

theorem TableWord.bindPlace (r : BindRecord) : TableWord.Statement (.bindPlace r) :=
  Or.inl fun _ => rfl

theorem TableWord.bindStop (r : BindRecord) : TableWord.Statement (.bindStop r) :=
  Or.inl fun _ => rfl

theorem TableWord.bindResume (r : BindRecord) : TableWord.Statement (.bindResume r) :=
  Or.inl fun _ => rfl

theorem TableWord.bindRelease (r : BindRecord) : TableWord.Statement (.bindRelease r) :=
  Or.inl fun _ => rfl

theorem TableWord.linkPermitReturn (die cluster : Nat) (toHead : Bool) : TableWord.Statement (.linkPermitReturn die cluster toHead) :=
  Or.inl fun _ => rfl

theorem TableWord.notify (vf : Nat) (tail : DWord) : TableWord.Statement (.notify vf tail) :=
  Or.inl fun _ => rfl

theorem TableWord.ringLoad (vf : Nat) (img : Image) : TableWord.Statement (.ringLoad vf img) :=
  Or.inl fun _ => rfl

theorem TableWord.ringStart (vf : Nat) : TableWord.Statement (.ringStart vf) :=
  Or.inl fun _ => rfl

theorem TableWord.ringUnload (vf : Nat) : TableWord.Statement (.ringUnload vf) :=
  Or.inl fun _ => rfl

theorem TableWord.ringCancel (vf : Nat) : TableWord.Statement (.ringCancel vf) :=
  Or.inl fun _ => rfl

theorem TableWord.vcpRegisterWrite (vf off : Nat) (value : DWord) : TableWord.Statement (.vcpRegisterWrite vf off value) :=
  Or.inl fun _ => rfl

theorem TableWord.flr (vf : Nat) : TableWord.Statement (.flr vf) :=
  Or.inl fun _ => rfl

theorem TableWord.flrComplete (vf : Nat) : TableWord.Statement (.flrComplete vf) :=
  Or.inl fun _ => rfl

theorem TableWord.uncorrectableError (die : Nat) (source : BitVec 4) (site : ErrorSite) : TableWord.Statement (.uncorrectableError die source site) :=
  Or.inl fun _ => rfl

theorem TableWord.targetedSelfTest (die rec : Nat) (u : TestUnit) (pass : Bool) : TableWord.Statement (.targetedSelfTest die rec u pass) :=
  Or.inl fun _ => rfl

theorem TableWord.clockStretch (cycles : Nat) : TableWord.Statement (.clockStretch cycles) :=
  Or.inl fun _ => rfl

theorem TableWord.clockGate (core : Nat) : TableWord.Statement (.clockGate core) :=
  Or.inl fun _ => rfl

theorem TableWord.powerGate (core : Nat) : TableWord.Statement (.powerGate core) :=
  Or.inl fun _ => rfl

theorem TableWord.coreWake (core : Nat) : TableWord.Statement (.coreWake core) :=
  Or.inl fun _ => rfl

theorem TableWord.sweep (asid : BitVec 16) (granule : Nat) : TableWord.Statement (.sweep asid granule) :=
  Or.inl fun _ => rfl

theorem TableWord.packageReset : TableWord.Statement (.packageReset) :=
  Or.inl fun _ => rfl

theorem TableWord.debugUnlock (token : DebugToken) : TableWord.Statement (.debugUnlock token) :=
  Or.inl fun _ => rfl

theorem TableWord.partitionRecut (die cluster world : Nat) : TableWord.Statement (.partitionRecut die cluster world) :=
  Or.inl fun _ => rfl

theorem TableWord.compensationSpawn (index : Nat) : TableWord.Statement (.compensationSpawn index) :=
  Or.inl fun _ => rfl

theorem TableWord.flitReplay (link : Nat) : TableWord.Statement (.flitReplay link) :=
  Or.inl fun _ => rfl

theorem TableWord.targetUnreachable (pkg : BitVec 9) : TableWord.Statement (.targetUnreachable pkg) :=
  Or.inl fun _ => rfl

theorem TableWord.leaseReceive (lease : Lease) : TableWord.Statement (.leaseReceive lease) :=
  Or.inl fun _ => rfl

theorem TableWord.leaseLost : TableWord.Statement (.leaseLost) :=
  Or.inl fun _ => rfl

theorem TableWord.leaseRenew : TableWord.Statement (.leaseRenew) :=
  Or.inl fun _ => rfl

theorem TableWord.leaderClaim (reached : List (BitVec 128)) : TableWord.Statement (.leaderClaim reached) :=
  Or.inl fun _ => rfl

theorem TableWord.imageReceive (krahal preder : BitVec 256) (sigOk : Bool) : TableWord.Statement (.imageReceive krahal preder sigOk) :=
  Or.inl fun _ => rfl

theorem TableWord.rosterWrite (slot : Nat) (r : RosterRec) : TableWord.Statement (.rosterWrite slot r) :=
  Or.inl fun _ => rfl

theorem TableWord.admission (slot member : Nat) (digest : BitVec 256) (quoteOk : Bool) : TableWord.Statement (.admission slot member digest quoteOk) :=
  Or.inl fun _ => rfl

theorem TableWord.memberLost (slot member : Nat) : TableWord.Statement (.memberLost slot member) :=
  Or.inl fun _ => rfl

theorem TableWord.watchRangeArm (lo hi : DWord) : TableWord.Statement (.watchRangeArm lo hi) :=
  Or.inl fun _ => rfl

end Sys2Proof.Laws
end

