-- ==== Sys2Proof/Tests/Slice0.lean ====
section
/-! SUPPORT. Tests of the model: words written out from the encoding tables, ill-formed terms that are refused, values that the
spec works out, and for each statement states and operands that meet its hypotheses. -/

namespace Sys2Proof.Tests
open Sys2Proof Sys2Proof.Machine Sys2Proof.Claims
/-- Words of the table of the family, with every operand field at a value of its own. -/
def integerLanesWords : List (Word × Instr) :=
  [ (0x00181420, .add ⟨false, 0⟩ 32 20 8), (0x2C181421, .sub ⟨true, 3⟩ 32 20 8), (0x00181422, .addSatS32 ⟨false, 0⟩ 32 20 8),
    (0x2C181423, .subSatS32 ⟨true, 3⟩ 32 20 8), (0x00281420, .minS32 ⟨false, 0⟩ 32 20 8),
    (0x2C281421, .maxS32 ⟨true, 3⟩ 32 20 8), (0x00281422, .minN32 ⟨false, 0⟩ 32 20 8), (0x2C281423, .maxN32 ⟨true, 3⟩ 32 20 8),
    (0x00381420, .mulLo ⟨false, 0⟩ 32 20 8), (0x2C381421, .mulHiS32 ⟨true, 3⟩ 32 20 8),
    (0x00381422, .mulHiN32 ⟨false, 0⟩ 32 20 8), (0x2C381423, .madLo ⟨true, 3⟩ 32 20 8), (0x00481420, .and ⟨false, 0⟩ 32 20 8),
    (0x2C481421, .or ⟨true, 3⟩ 32 20 8), (0x00481422, .xor ⟨false, 0⟩ 32 20 8), (0x2C481423, .andn ⟨true, 3⟩ 32 20 8),
    (0x00581420, .shl ⟨false, 0⟩ 32 20 8), (0x2C581421, .shr ⟨true, 3⟩ 32 20 8), (0x00581422, .sar ⟨false, 0⟩ 32 20 8),
    (0x2C581423, .rot ⟨true, 3⟩ 32 20 8), (0x00681400, .popc ⟨false, 0⟩ 32 20), (0x2C681401, .clz ⟨true, 3⟩ 32 20),
    (0x00681402, .ctz ⟨false, 0⟩ 32 20), (0x2C681403, .brev ⟨true, 3⟩ 32 20) ] ++
  [ (0x00781420, .divS32 ⟨false, 0⟩ 32 20 8), (0x2C781421, .divN32 ⟨true, 3⟩ 32 20 8), (0x00781422, .remS32 ⟨false, 0⟩ 32 20 8),
    (0x2C781423, .remN32 ⟨true, 3⟩ 32 20 8), (0x00881420, .bfxN32 ⟨false, 0⟩ 32 20 8), (0x2C881421, .bfxS32 ⟨true, 3⟩ 32 20 8),
    (0x00881422, .bfi ⟨false, 0⟩ 32 20 8), (0x2C881403, .absS32 ⟨true, 3⟩ 32 20) ]

theorem test_decodeIntegerLanes : ∀ e ∈ integerLanesWords, decodeWord? e.1 = some e.2 := by decide

/-- Words of the table of the family, with every operand field at a value of its own. -/
def immediatesPredicatesAndMovesWords : List (Word × Instr) :=
  [ (0x00981404, .addi ⟨false, 0⟩ 32 20 4), (0x2CA81404, .andi ⟨true, 3⟩ 32 20 4), (0x00B81404, .ori ⟨false, 0⟩ 32 20 4),
    (0x2CC81404, .xori ⟨true, 3⟩ 32 20 4), (0x00D81404, .shlImm ⟨false, 0⟩ 32 20 4), (0x2CD81444, .shrImm ⟨true, 3⟩ 32 20 4),
    (0x00D81484, .sarImm ⟨false, 0⟩ 32 20 4), (0x2CD814C4, .rotImm ⟨true, 3⟩ 32 20 4), (0x00E81420, .icmp ⟨false, 0⟩ 4 0 20 8 0),
    (0x2CF81421, .icmpi ⟨true, 3⟩ 4 0 20 8 1), (0x01081400, .mov ⟨false, 0⟩ 32 20), (0x2D081401, .bcast ⟨true, 3⟩ 32 20),
    (0x01080002, .movp ⟨false, 0⟩ 32), (0x2D001403, .mvp ⟨true, 3⟩ 20), (0x01180200, .pand ⟨false, 0⟩ 4 0 0 0 1),
    (0x2D180401, .por ⟨true, 3⟩ 4 0 0 1 0), (0x01180202, .pxor ⟨false, 0⟩ 4 0 0 0 1), (0x2D180403, .pandn ⟨true, 3⟩ 4 0 0 1 0),
    (0x01280004, .ldi ⟨false, 0⟩ 32 4), (0x2D380020, .rdsr ⟨true, 3⟩ 32 8) ]

theorem test_decodeImmediatesPredicatesAndMoves : ∀ e ∈ immediatesPredicatesAndMovesWords, decodeWord? e.1 = some e.2 := by decide

/-- Words of the table of the family, with every operand field at a value of its own. -/
def floatLanesWords : List (Word × Instr) :=
  [ (0x01481420, .faddF32 ⟨false, 0⟩ 32 20 8), (0x2D481421, .fsubF32 ⟨true, 3⟩ 32 20 8),
    (0x01481422, .fmulF32 ⟨false, 0⟩ 32 20 8), (0x2D481423, .ffmaF32 ⟨true, 3⟩ 32 20 8),
    (0x01581420, .faddF16x2 ⟨false, 0⟩ 32 20 8), (0x2D581421, .fsubF16x2 ⟨true, 3⟩ 32 20 8),
    (0x01581422, .fmulF16x2 ⟨false, 0⟩ 32 20 8), (0x2D581423, .ffmaF16x2 ⟨true, 3⟩ 32 20 8),
    (0x01681420, .faddBf16x2 ⟨false, 0⟩ 32 20 8), (0x2D681421, .fsubBf16x2 ⟨true, 3⟩ 32 20 8),
    (0x01681422, .fmulBf16x2 ⟨false, 0⟩ 32 20 8), (0x2D681423, .ffmaBf16x2 ⟨true, 3⟩ 32 20 8),
    (0x01781420, .fminF32 ⟨false, 0⟩ 32 20 8), (0x2D781421, .fmaxF32 ⟨true, 3⟩ 32 20 8), (0x01781402, .fabsF32 ⟨false, 0⟩ 32 20),
    (0x2D781403, .fnegF32 ⟨true, 3⟩ 32 20), (0x01881400, .frcp ⟨false, 0⟩ 32 20), (0x2D881404, .frsq ⟨true, 3⟩ 32 20),
    (0x01881408, .fsqrt ⟨false, 0⟩ 32 20), (0x2D88140C, .fexp2 ⟨true, 3⟩ 32 20), (0x01881410, .flog2 ⟨false, 0⟩ 32 20),
    (0x2D881414, .fsin ⟨true, 3⟩ 32 20), (0x01881418, .fcos ⟨false, 0⟩ 32 20), (0x2D88141C, .ftanh ⟨true, 3⟩ 32 20) ] ++
  [ (0x01981400, .frndRn ⟨false, 0⟩ 32 20), (0x2D981401, .frndRz ⟨true, 3⟩ 32 20), (0x01981402, .frndRd ⟨false, 0⟩ 32 20),
    (0x2D981403, .frndRu ⟨true, 3⟩ 32 20), (0x01A81420, .fcmp ⟨false, 0⟩ 4 0 20 8 0), (0x2DB81400, .fclass ⟨true, 3⟩ 32 20),
    (0x01C08196, .cvtRn ⟨false, 0⟩ 2 1 9 6), (0x2DD0C506, .cvtRz ⟨true, 3⟩ 3 5 0 6), (0x01E107A8, .cvtSr ⟨false, 0⟩ 4 7 10 8),
    (0x2DF18987, .cvtDyn ⟨true, 3⟩ 6 9 8 7), (0x02081402, .kpack ⟨false, 0⟩ 32 20 2), (0x2E181400, .kunpack ⟨true, 3⟩ 32 20) ]

theorem test_decodeFloatLanes : ∀ e ∈ floatLanesWords, decodeWord? e.1 = some e.2 := by decide

/-- Words of the table of the family, with every operand field at a value of its own. -/
def laneMemoryWords : List (Word × Instr) :=
  [ (0x02282004, .ld ⟨false, 0⟩ 32 8 0 4), (0x2E382004, .st ⟨true, 3⟩ 32 8 0 4), (0x02482200, .ldoRlx ⟨false, 0⟩ 32 8 2 0),
    (0x2E431D60, .ldoAcq ⟨true, 3⟩ 12 7 1 4), (0x02482080, .ldoFe ⟨false, 0⟩ 32 8 0), (0x2E582100, .stoRlx ⟨true, 3⟩ 32 8 1 0),
    (0x02582240, .stoRel ⟨false, 0⟩ 32 8 2 0), (0x2E582080, .stoFill ⟨true, 3⟩ 32 8 0), (0x026820C4, .atom ⟨false, 0⟩ 32 8 12 4),
    (0x2E7820C4, .red ⟨true, 3⟩ 4 8 12 4), (0x028820C8, .cas ⟨false, 0⟩ 32 8 12 4 0), (0x2E94C401, .mmaE4m3 ⟨true, 3⟩ 4 12 4 1),
    (0x02A4C400, .mmaE5m2 ⟨false, 0⟩ 4 12 4 0) ]

theorem test_decodeLaneMemory : ∀ e ∈ laneMemoryWords, decodeWord? e.1 = some e.2 := by decide

/-- Words of the table of the family, with every operand field at a value of its own. -/
def matrixAndTilesWords : List (Word × Instr) :=
  [ (0x2EB4C401, .mmaBf16 ⟨true, 3⟩ 4 12 4 1), (0x02C4C400, .mmaF16 ⟨false, 0⟩ 4 12 4 0),
    (0x2ED4C441, .mmaKn4 ⟨true, 3⟩ 4 12 4 8 0 1), (0x02E4C400, .mmaS8 ⟨false, 0⟩ 4 12 4 0),
    (0x2EF4C481, .mvStream ⟨true, 3⟩ 4 12 4 4 0 1), (0x03020980, .accmovNarrow ⟨false, 0⟩ 8 2 1 8),
    (0x2F040E60, .accmovWiden ⟨true, 3⟩ 16 3 6), (0x03140000, .accZero ⟨false, 0⟩ 4), (0x2F146010, .accDecay ⟨true, 3⟩ 4 24),
    (0x03140020, .accSpill ⟨false, 0⟩ 4 0), (0x2F140030, .accFill ⟨true, 3⟩ 4 0), (0x03240400, .tld ⟨false, 0⟩ 4 4),
    (0x2F240440, .tst ⟨true, 3⟩ 4 4), (0x03240080, .tzero ⟨false, 0⟩ 4), (0x2F24C0C0, .ttrans ⟨true, 3⟩ 4 12) ]

theorem test_decodeMatrixAndTiles : ∀ e ∈ matrixAndTilesWords, decodeWord? e.1 = some e.2 := by decide

/-- Words of the table of the family, with every operand field at a value of its own. -/
def crossLaneWords : List (Word × Instr) :=
  [ (0x03314901, .xredAdd ⟨false, 0⟩ 5 9 1), (0x2F318A0A, .xredMin ⟨true, 3⟩ 6 10 2), (0x0331CB10, .xredMax ⟨false, 0⟩ 7 11 0),
    (0x2F381419, .xredAnd ⟨true, 3⟩ 32 20), (0x03381421, .xredOr ⟨false, 0⟩ 32 20), (0x2F381429, .xredXor ⟨true, 3⟩ 32 20),
    (0x03328231, .xminIdx ⟨false, 0⟩ 10 2 1), (0x2F330438, .xmaxIdx ⟨true, 3⟩ 12 4 0), (0x03334542, .xscanAdd ⟨false, 0⟩ 13 5 2),
    (0x2F481420, .pickSlot ⟨true, 3⟩ 32 20 8), (0x03481421, .pickRank ⟨false, 0⟩ 32 20 8),
    (0x2F481422, .pickBack ⟨true, 3⟩ 32 20 8), (0x03481423, .pickFlip ⟨false, 0⟩ 32 20 8), (0x2F500400, .pollAny ⟨true, 3⟩ 0 4),
    (0x03500401, .pollAll ⟨false, 0⟩ 0 4), (0x2F580402, .pollMask ⟨true, 3⟩ 32 4), (0x03580403, .pollCount ⟨false, 0⟩ 32 4) ]

theorem test_decodeCrossLane : ∀ e ∈ crossLaneWords, decodeWord? e.1 = some e.2 := by decide

/-- Words of the table of the family, with every operand field at a value of its own. -/
def laneCapabilitiesWords : List (Word × Instr) :=
  [ (0x2F64C400, .cadv ⟨true, 3⟩ 4 12 16), (0x0364C401, .cplace ⟨false, 0⟩ 4 12 16), (0x2F64C402, .cclip ⟨true, 3⟩ 4 12 16),
    (0x0364C403, .cclipExact ⟨false, 0⟩ 4 12 16), (0x2F64C404, .cstrip ⟨true, 3⟩ 4 12 16),
    (0x0364C005, .cwrap ⟨false, 0⟩ 4 12 0), (0x2F64C006, .cwrapEntry ⟨true, 3⟩ 4 12), (0x0364C007, .cwrapComp ⟨false, 0⟩ 4 12),
    (0x2F64C008, .cunwrap ⟨true, 3⟩ 4 12 0), (0x0364C009, .ccopy ⟨false, 0⟩ 4 12), (0x2F64C00A, .cdetag ⟨true, 3⟩ 4 12),
    (0x0364000B, .cbcast ⟨false, 0⟩ 4 0), (0x2F60C410, .creadAddr ⟨true, 3⟩ 12 16), (0x0360C411, .creadBase ⟨false, 0⟩ 12 16),
    (0x2F60C412, .creadLen ⟨true, 3⟩ 12 16), (0x0360C413, .creadInfo ⟨false, 0⟩ 12 16), (0x2F74C004, .cadvImm ⟨true, 3⟩ 4 12 4) ]

theorem test_decodeLaneCapabilities : ∀ e ∈ laneCapabilitiesWords, decodeWord? e.1 = some e.2 := by decide

/-- Words of the table of the family, with every operand field at a value of its own. -/
def handlerLanesWords : List (Word × Instr) :=
  [ (0x03881400, .sbjRd ⟨false, 0⟩ 32 20), (0x2F881404, .sbjWr ⟨true, 3⟩ 32 20), (0x03881408, .sbjLd ⟨false, 0⟩ 32 20),
    (0x2F88140C, .sbjSt ⟨true, 3⟩ 32 20), (0x03801410, .sbjCap ⟨false, 0⟩ 0 20), (0x2F808514, .hcause ⟨true, 3⟩ 2 5),
    (0x03800118, .hret ⟨false, 0⟩ 1), (0x2F80141C, .hpass ⟨true, 3⟩ 20) ]

theorem test_decodeHandlerLanes : ∀ e ∈ handlerLanesWords, decodeWord? e.1 = some e.2 := by decide

/-- Words of the table of the family, with every operand field at a value of its own. -/
def uniformArithmeticWords : List (Word × Instr) :=
  [ (0x81A1C400, .uAdd 40 28 16), (0x81A1C401, .uSub 40 28 16), (0x81A1C402, .uMulLo 40 28 16),
    (0x81A1C403, .uMulHiS64 40 28 16), (0x81A1C404, .uMulHiN64 40 28 16), (0x81A1C405, .uAnd 40 28 16),
    (0x81A1C406, .uOr 40 28 16), (0x81A1C407, .uXor 40 28 16), (0x81A1C408, .uAndn 40 28 16), (0x81A1C409, .uShl 40 28 16),
    (0x81A1C40A, .uShr 40 28 16), (0x81A1C40B, .uSar 40 28 16), (0x81A1C40C, .uMinS64 40 28 16), (0x81A1C40D, .uMaxS64 40 28 16),
    (0x81A1C40E, .uMinN64 40 28 16), (0x81A1C40F, .uMaxN64 40 28 16), (0x81A1C010, .uPopc 40 28), (0x81A1C011, .uClz 40 28),
    (0x81A1C012, .uCtz 40 28), (0x82A1C004, .uAddi 40 28 4), (0x83A1C004, .uOri 40 28 4), (0x84A1C004, .uAndi 40 28 4),
    (0x85A1C004, .uXori 40 28 4), (0x86A1C004, .uShlImm 40 28 4) ] ++
  [ (0x86A1C044, .uShrImm 40 28 4), (0x86A1C084, .uSarImm 40 28 4), (0x86A1C0C4, .uRotImm 40 28 4), (0x87A10004, .lui 40 1 4) ]

theorem test_decodeUniformArithmetic : ∀ e ∈ uniformArithmeticWords, decodeWord? e.1 = some e.2 := by decide

/-- Words of the table of the family, with every operand field at a value of its own. -/
def uniformFlowWords : List (Word × Instr) :=
  [ (0x88000004, .bra 4), (0x89100004, .bEz 32 4), (0x89300004, .bNz 32 4), (0x89500004, .bLz 32 4), (0x89700004, .bGez 32 4),
    (0x89900004, .bGz 32 4), (0x89B00004, .bLez 32 4), (0x8A400004, .brp 0 4 4), (0x8B000000, .join), (0x8B01C001, .ret 28),
    (0x8B503002, .jmpc 1 4 3), (0x8B000003, .exit), (0x8C000004, .call 4), (0x8D100004, .loop 32 4), (0x8E000000, .nop),
    (0x8E000001, .trap), (0x8E000002, .brk), (0x90A00400, .mfsr 40 16), (0x90140941, .mtsr 5 37), (0x91A14000, .rep 40 0 1 0 4) ]

theorem test_decodeUniformFlow : ∀ e ∈ uniformFlowWords, decodeWord? e.1 = some e.2 := by decide

/-- Words of the table of the family, with every operand field at a value of its own. -/
def syncQueuesAndCapabilitiesWords : List (Word × Instr) :=
  [ (0x92006000, .pinPost 24), (0x92406000, .pinWait 24), (0x92806000, .pinMeet 24), (0x9301C000, .pushS 0 28),
    (0x9300C001, .pushK 0 12), (0x94243000, .popS 9 3), (0x941C5001, .popK 7 5), (0x95200006, .cpYield 1 6),
    (0x96000004, .fence 4), (0x96040004, .qfence 4), (0x96080000, .lfence), (0x9721C000, .tcfg 8 28 0),
    (0x980C2142, .ucap 3 2 5 2), (0x99A00004, .uldW 40 0 4), (0x99A00804, .uldD 40 0 4), (0x99201004, .uldC 8 0 4),
    (0x99A01804, .ustW 40 0 4), (0x99A02004, .ustD 40 0 4), (0x99202804, .ustC 8 0 4) ]

theorem test_decodeSyncQueuesAndCapabilities : ∀ e ∈ syncQueuesAndCapabilitiesWords, decodeWord? e.1 = some e.2 := by decide

/-- Words of the table of the family, with every operand field at a value of its own. -/
def teamsSeamsAndNetworkWords : List (Word × Instr) :=
  [ (0x9AA1C400, .spawn 40 28 16), (0x9B01C400, .evtWait 28 16), (0x9B000001, .evtPub), (0x9BA1C402, .evtTest 40 28 16),
    (0x9CA00000, .seamOpen 40), (0x9CA0C001, .seamStep 40 12 0), (0x9CA00002, .seamClose 40), (0x9CA00003, .seamDrop 40),
    (0x9CA1C004, .seamLink 40 28), (0x9CA1C005, .seamState 40 28), (0x9CA1C006, .seamResume 40 28), (0x9D00C000, .gateCall 12 0),
    (0x9D000001, .gateRet), (0x9E000000, .ppoint), (0x9E000001, .yield), (0x9FA0C000, .netPut 40 12 0),
    (0x9FA0C001, .netGet 40 12 0), (0x9FA0C002, .netRed 40 12 0), (0x9FA00003, .netDone 40) ]

theorem test_decodeTeamsSeamsAndNetwork : ∀ e ∈ teamsSeamsAndNetworkWords, decodeWord? e.1 = some e.2 := by decide

/-- Words of the table of the family, with every operand field at a value of its own. -/
def privilegedWords : List (Word × Instr) :=
  [ (0xA0000000, .soloOn), (0xA0000001, .soloOff), (0xA0A1C402, .csrRd 40 28 16), (0xA0A1C403, .csrWr 40 28 16),
    (0xA0A1C404, .tlbInv 40 28 16), (0xA0A0C405, .keyLoad 40 12 16), (0xA0A1C006, .keyKill 40 28),
    (0xA0A1C407, .revoke 40 28 16), (0xA0A0C408, .attest 40 12 16), (0xA001C009, .halt 28) ]

theorem test_decodePrivileged : ∀ e ∈ privilegedWords, decodeWord? e.1 = some e.2 := by decide

/-! ### Words that the spec prints -/

/-- The words that the spec's own examples print (R112, R116, R131, R156, R195, R212, R230, R238, R239, R249 and the worked
image). -/
def printedWords : List (Word × Instr) :=
  [ (0x00D0C447, .shrImm ⟨false, 0⟩ 3 4 7), (0x02210A00, .ld ⟨false, 0⟩ 4 2 4 0), (0x0230C500, .st ⟨false, 0⟩ 3 1 2 0),
    (0x2C10C108, .add ⟨true, 3⟩ 3 1 2), (0x40108204, .add ⟨false, 0⟩ 2 2 1), (0x00908264, .addi ⟨false, 0⟩ 2 2 0x64),
    (0x0120FFFE, .ldi ⟨false, 0⟩ 3 0x3FFE), (0x02024401, .kpack ⟨false, 0⟩ 9 4 1), (0x02130900, .kunpack ⟨false, 0⟩ 12 9),
    (0x036210C2, .cclip ⟨false, 0⟩ 2 1 3), (0x037220C8, .cadvImm ⟨false, 0⟩ 2 2 200), (0x03631143, .cclipExact ⟨false, 0⟩ 3 1 5),
    (0x03641142, .cclip ⟨false, 0⟩ 4 1 5), (0x03644184, .cstrip ⟨false, 0⟩ 4 4 6), (0x03604212, .creadLen ⟨false, 0⟩ 4 8),
    (0x980C2142, .ucap 3 2 5 2), (0x03230500, .tld ⟨false, 0⟩ 3 5), (0x03230540, .tst ⟨false, 0⟩ 3 5),
    (0x03230080, .tzero ⟨false, 0⟩ 3), (0x032120C0, .ttrans ⟨false, 0⟩ 1 2) ] ++
  [ (0x03110000, .accZero ⟨false, 0⟩ 1), (0x03103010, .accDecay ⟨false, 0⟩ 0 12), (0x031501E0, .accSpill ⟨false, 0⟩ 5 7),
    (0x031501F0, .accFill ⟨false, 0⟩ 5 7), (0x90140980, .mfsr 5 0x26), (0x90180341, .mtsr 6 0x0D), (0x90080201, .mtsr 2 0x08),
    (0x910E0000, .rep 3 1 0 0 0), (0x8123FFC0, .uAdd 8 63 63), (0x92000C00, .pinPost 3), (0x92400C00, .pinWait 3),
    (0x92800C00, .pinMeet 3), (0x92800000, .pinMeet 0), (0x93004001, .pushK 0 4), (0x93006000, .pushS 0 6),
    (0x94201000, .popS 8 1), (0x96000005, .fence 5), (0x96040005, .qfence 5), (0x96080000, .lfence) ]

theorem test_decodePrinted : ∀ e ∈ printedWords, decodeWord? e.1 = some e.2 := by decide

/-- R41: the switch marker of the worked image's `add v2, v2, v1 !`. -/
theorem test_marker : markerOf 0x40108204 = true ∧ markerOf 0x00908264 = false := by decide

/-- R38: words that are no instruction: majors with no instruction, a reserved fn, the "never" guard, a nonzero field that must
be zero. -/
theorem test_rejected : ([0x00000000, 0xBFFFFFFF, 0x00601404, 0x20181420, 0x92C00C00, 0x960C0000, 0x03230180] : List Word).all
    (fun w => (decodeWord? w).isNone) = true := by decide

/-! ### Well-formed instructions: a term that each check refuses -/

theorem test_guardNever : (Instr.add ⟨true, 0⟩ 1 2 3).wellFormed = false ∧ (Instr.add ⟨true, 1⟩ 1 2 3).wellFormed = true := by decide
theorem test_compareCodes : (Instr.icmp ⟨false, 0⟩ 1 6 1 2 0).wellFormed = false ∧ (Instr.icmp ⟨false, 0⟩ 1 5 1 2 2).wellFormed = false ∧
    (Instr.icmpi ⟨false, 0⟩ 1 7 1 2 0).wellFormed = false ∧ (Instr.fcmp ⟨false, 0⟩ 1 0 1 2 3).wellFormed = false := by decide
theorem test_loadRegisters : (Instr.ld ⟨false, 0⟩ 5 1 5 0).wellFormed = false ∧ (Instr.ld ⟨false, 0⟩ 6 1 6 0).wellFormed = false ∧
    (Instr.ld ⟨false, 0⟩ 16 1 7 0).wellFormed = false ∧ (Instr.ld ⟨false, 0⟩ 15 1 7 0).wellFormed = true := by decide
theorem test_storeRegisters : (Instr.st ⟨false, 0⟩ 5 1 3 0).wellFormed = false ∧ (Instr.st ⟨false, 0⟩ 6 1 4 0).wellFormed = false ∧
    (Instr.st ⟨false, 0⟩ 16 1 5 0).wellFormed = false ∧ (Instr.st ⟨false, 0⟩ 0 1 6 0).wellFormed = false ∧
    (Instr.st ⟨false, 0⟩ 0 1 7 0).wellFormed = false := by decide
theorem test_orderedRegisters : (Instr.ldoRlx ⟨false, 0⟩ 1 1 1 0).wellFormed = false ∧ (Instr.ldoAcq ⟨false, 0⟩ 2 1 2 0).wellFormed = false ∧
    (Instr.stoRlx ⟨false, 0⟩ 16 1 3 0).wellFormed = false ∧ (Instr.stoRel ⟨false, 0⟩ 0 1 0 7).wellFormed = false := by decide
theorem test_scopes : (Instr.fence 7).wellFormed = false ∧ (Instr.ldoFe ⟨false, 0⟩ 0 1 7).wellFormed = false ∧
    (Instr.stoFill ⟨false, 0⟩ 0 1 7).wellFormed = false ∧ (Instr.red ⟨false, 0⟩ 7 1 2 0).wellFormed = false := by decide
theorem test_atomics : (Instr.atom ⟨false, 0⟩ 1 2 3 12).wellFormed = false ∧ (Instr.red ⟨false, 0⟩ 0 1 2 12).wellFormed = false ∧
    (Instr.cas ⟨false, 0⟩ 1 2 4 0 1).wellFormed = false ∧ (Instr.cas ⟨false, 0⟩ 2 2 5 0 1).wellFormed = false ∧
    (Instr.cas ⟨false, 0⟩ 1 2 5 0 0).wellFormed = true := by decide
theorem test_conversionTypes : (Instr.cvtRn ⟨false, 0⟩ 1 2 11 0).wellFormed = false ∧ (Instr.cvtSr ⟨false, 0⟩ 1 2 0 11).wellFormed = false ∧
    (Instr.accmovNarrow ⟨false, 0⟩ 1 2 0 5).wellFormed = false ∧ (Instr.accmovWiden ⟨false, 0⟩ 1 2 11).wellFormed = false := by decide
theorem test_matrixFields : (Instr.mmaKn4 ⟨false, 0⟩ 0 1 2 29 0 0).wellFormed = false ∧
    (Instr.mvStream ⟨false, 0⟩ 0 1 2 6 0 0).wellFormed = false := by decide
theorem test_crossLaneTypes : ∀ f ∈ [Instr.xredAdd, .xredMin, .xredMax, .xminIdx, .xmaxIdx, .xscanAdd],
    (f ⟨false, 0⟩ 1 2 3).wellFormed = false ∧ (f ⟨false, 0⟩ 1 2 2).wellFormed = true := by decide
theorem test_handlerFields : (Instr.sbjLd ⟨false, 0⟩ 1 63).wellFormed = false ∧ (Instr.sbjSt ⟨false, 0⟩ 1 63).wellFormed = false ∧
    (Instr.hcause ⟨false, 0⟩ 1 11).wellFormed = false ∧ (Instr.hret ⟨false, 0⟩ 2).wellFormed = false := by decide
theorem test_specialNumbers : (Instr.rdsr ⟨false, 0⟩ 1 0x005).wellFormed = false ∧ (Instr.rdsr ⟨false, 0⟩ 1 0x801).wellFormed = false ∧
    (Instr.rdsr ⟨false, 0⟩ 1 0x826).wellFormed = true ∧ (Instr.mfsr 1 0x826).wellFormed = false ∧ (Instr.mtsr 1 0x026).wellFormed = false ∧
    (Instr.csrRd 1 2 5).wellFormed = false ∧ (Instr.csrWr 1 2 20).wellFormed = false := by decide
theorem test_jumpFields : (Instr.jmpc 2 0 1).wellFormed = false ∧ (Instr.jmpc 0 1 1).wellFormed = false ∧
    (Instr.loop 63 0).wellFormed = false := by decide
theorem test_queueNumbers : (Instr.pushS 1 1).wellFormed = false ∧ (Instr.pushK 1 1).wellFormed = false ∧ (Instr.popS 1 2).wellFormed = false ∧
    (Instr.popK 1 3).wellFormed = false ∧ (Instr.cpYield 2 0).wellFormed = false ∧ (Instr.qfence 0).wellFormed = false ∧
    (Instr.qfence 3).wellFormed = false := by decide
theorem test_ucapFields : (Instr.ucap 16 0 0 0).wellFormed = false ∧ (Instr.ucap 0 16 0 2).wellFormed = false ∧
    (Instr.ucap 0 0 16 5).wellFormed = false ∧ (Instr.ucap 0 0 1 9).wellFormed = false ∧ (Instr.ucap 63 0 0 16).wellFormed = true ∧
    (Instr.ucap 0 0 0 11).wellFormed = false := by decide

/-! ### A small machine -/

/-- One issuing strand of two present threads in slots 0 and 1, its path at 0x10000 with its marker taken, over the reset
state with a page mapped. c1 and k1 name the team's activation buffer. -/
def bufCap (off : Nat) : Cap := mintCap (0x8000000000000000 + off) 0x400 0xF4 1 0
def thread (rank : Nat) (v : Sparse Word) : Thread :=
  { startThread 0 0 rank 0 rank [(1, bufCap (64 * rank))] none with v := v, p := if rank = 0 then 0x08 else 0 }
def machine (v : Sparse Word) (f : Strand → Strand) : State :=
  let s := State.reset.withFetchWord 32 0x8E000000
  { s with
    run := { s.run with issuing := some 0, curWord := 0x8E000000 }
    threads := [thread 0 v, thread 1 v]
    strands := s.strands.map fun st =>
      f { st with k := [(1, bufCap 0)], s := [(1, 5), (2, 16)], paths := st.paths.map fun p => { p with mask := 3, marked := true } } }
def demo : State := machine [(1, 7), (2, 3), (3, 1)] id

/-- v[n] of thread 0, its flags, and the writes that wait for it in RB. -/
def valueOf (o : Out) (n : Nat) : Option Word :=
  match o with
  | .next s => s.threads.head?.map fun t => t.getV n
  | _ => none
def flagsOf (o : Out) : Option Word :=
  match o with
  | .next s => s.threads.head?.map (·.fpcsr)
  | _ => none
def waitingOf (o : Out) : Option (List Write) :=
  match o with
  | .next s => s.strands.head?.bind fun st => (st.rb.getLast?.bind fun e => e.lanes.head?).map (·.writes)
  | _ => none

/-- v3 of thread 0 after an instruction over v1 = x and v2 = y with v3 = z. -/
def lane (i : Guard → BitVec 6 → BitVec 6 → BitVec 6 → Instr) (x y z : Word) : Option Word :=
  valueOf (exec (i ⟨false, 0⟩ 3 1 2) (machine [(1, x), (2, y), (3, z)] id)) 3
def lane1 (i : Guard → BitVec 6 → BitVec 6 → Instr) (x : Word) : Option Word × Option Word :=
  let o := exec (i ⟨false, 0⟩ 3 1) (machine [(1, x)] id)
  (valueOf o 3, flagsOf o)

/-! ### Values that the spec prints -/

/-- R112's table. -/
theorem test_saturate : lane .addSatS32 0x7FFFFFF0 0x20 0 = some 0x7FFFFFFF ∧ lane .subSatS32 0x80000000 1 0 = some 0x80000000 := by decide
theorem test_multiply : lane .mulHiS32 0xFFFFFFFF 0xFFFFFFFF 0 = some 0 ∧ lane .mulHiN32 0xFFFFFFFF 0xFFFFFFFF 0 = some 0xFFFFFFFE := by decide
theorem test_shifts : lane .shl 1 33 0 = some 2 ∧ lane .sar 0x80000000 31 0 = some 0xFFFFFFFF ∧ lane .rot 0x80000001 4 0 = some 0x18 := by decide
theorem test_counts : (lane1 .popc 0xF0F00001).1 = some 9 ∧ (lane1 .ctz 0x100).1 = some 8 ∧ (lane1 .brev 1).1 = some 0x80000000 := by decide
theorem test_division : (waitingOf (exec (.divS32 ⟨false, 0⟩ 3 1 2) (machine [(1, 0xFFFFFFF9), (2, 2)] id)) = some [.v 3 0xFFFFFFFD]) ∧
    waitingOf (exec (.remS32 ⟨false, 0⟩ 3 1 2) (machine [(1, 0xFFFFFFF9), (2, 2)] id)) = some [.v 3 0xFFFFFFFF] := by decide
theorem test_bitFields : lane .bfxN32 0xDEADBEEF 0x804 0 = some 0xEE ∧ lane .bfxS32 0xDEADBEEF 0x804 0 = some 0xFFFFFFEE ∧
    lane .bfi 0xAB 0x804 0x12345678 = some 0x12345AB8 ∧ lane .bfxN32 0xDEADBEEF 0x101C 0 = some 0xD := by decide

/-- The first examples of FIPS 180-4 and FIPS 197. -/
theorem test_sha256 : shaBytes [0x61, 0x62, 0x63] =
    beBytes 32 0xBA7816BF8F01CFEA414140DE5DAE2223B00361A396177A9CB410FF61F20015AD := by decide +kernel
theorem test_aes : aesEncrypt ((List.range 32).map (BitVec.ofNat 8)) (beBytes 16 0x00112233445566778899AABBCCDDEEFF) =
    beBytes 16 0x8EA2B7CA516745BFEAFC49904B496089 := by decide +kernel

/-- R78's example. -/
theorem test_fmaNan : lane .ffmaF32 0 0x7F800000 0xFF801234 = some 0xFFC01234 ∧ lane .ffmaF32 0 0x7F800000 0x7FC00005 = some 0x7FC00005 := by decide

/-- R129's table. -/
def convert (i : Guard → BitVec 6 → BitVec 6 → BitVec 4 → BitVec 4 → Instr) (dt st : BitVec 4) (x : Word) : Option Word × Option Word :=
  lane1 (fun g d a => i g d a dt st) x
theorem test_cvtToInt : convert .cvtRz 0 6 0xC0300000 = (some 0xFFFFFFFE, some 1) := by decide
theorem test_cvtF16 : convert .cvtRn 7 6 0x3F801000 = (some 0x3C00, some 1) := by decide
theorem test_cvtE5m2 : convert .cvtRn 10 6 0x47C35000 = (some 0x7C, some 5) ∧ convert .cvtRz 10 6 0x47C35000 = (some 0x7B, some 5) := by decide
theorem test_cvtHalves : convert .cvtRn 8 7 0x3C007BFF = (some 0x3F804780, some 1) := by decide
theorem test_cvtNan : convert .cvtRn 6 9 0x7F = (some 0x7FF00000, some 0) := by decide
theorem test_cvtSaturates : convert .cvtRn 4 6 0x43960000 = (some 0x7F, some 0x10) ∧ convert .cvtRn 3 0 0xFFFFFFFF = (some 0, some 0) := by decide

/-- R77's example: two draws of a thread of rank 1. -/
theorem test_cvtSr : (let t : Thread := { thread 1 [(1, 0x3F80C000)] with gen := 1 }
    let x := cvtElem t .sr t.gen 8 6 0x3F80C000
    let y := cvtElem t .sr x.2.2 8 6 0x3F80C000
    (x.1, x.2.2, y.1, y.2.2)) = (0x3F80, 0x42021, 0x3F80, 0x4080601) := by decide

/-- R82's and R131's examples. -/
theorem test_kpack : (let o := exec (.kpack ⟨false, 0⟩ 9 4 1) (machine [(4, 0x40400000), (5, 0xBFA00000), (6, 0x3E4CCCCD), (7, 0x40C00000)] id)
    (valueOf o 9, flagsOf o)) = (some 0x6070A5, some 1) := by decide
theorem test_kunpack : (let o := exec (.kunpack ⟨false, 0⟩ 12 9) (machine [(9, 0x6070A5)] id)
    [12, 13, 14, 15].map (valueOf o)) = [some 0x40400000, some 0xBF800000, some 0, some 0x40C00000] := by decide
theorem test_kpackNan : (let o := exec (.kpack ⟨false, 0⟩ 9 4 1) (machine [(4, 0x40400000), (5, 0xBFA00000), (6, 0x3E4CCCCD), (7, 0x7F800000)] id)
    (valueOf o 9, flagsOf o)) = (some 0x7F0000, some 0x10) := by decide

/-- The capability of chapter 5's example, and its two address moves (R89, R95). -/
def c4 : Cap := ⟨0xC0200513FFE000400000000000400100, true⟩
theorem test_capDecode : (c4.region, c4.perms, c4.colour, c4.seal, c4.version) = ((0x3FFF00, 0x400300), 0xC0, 2, 0, 5) := by decide
theorem test_capMoves : (c4.moveTo 0x600100).tag = false ∧ (c4.moveTo 0x500000).tag = true := by decide
/-- Its accesses, up to the table (R100): bounds come before alignment. -/
theorem test_capChecks : [(0x4002FC, 4, 0x80), (0x400300, 16, 0x80), (0x400102, 4, 0x80), (0x400100, 16, 0x50)].map
    (fun x : Int × Nat × BitVec 8 => earlyCause ⟨.load, c4, x.1, x.2.1, x.2.2, true, false, false, false, 1, true⟩) =
      [none, some 3, some 8, some 5] := by decide

/-- R156's listing: a small region made of c1. -/
def c1 : Cap := (mintCap 0x100000 0x100000 0xF0 0 0).withAddr 0x100040
theorem test_cclip : (let x := c1.setBounds c1.addr (c1.addr + 100) false;
    (x.region, x.tag, (x.moveTo 0x100108).tag)) = ((0x100040, 0x1000A4), true, true) := by decide
theorem test_cclipExact : (c1.setBounds c1.addr (c1.addr + 0x30001) true).tag = false ∧
    (let x := c1.setBounds c1.addr (c1.addr + 0x30001) false;
      (x.tag, x.region.2 - x.region.1)) = (true, 0x30002) := by decide

/-- R272's example: a leaf, and the indices of an address. -/
theorem test_leaf : leafPte 0x1000230000 0 2 5 0 3 = (0x00000520000000000001000230000033 : BitVec 128) := by decide
theorem test_indices : [0, 1, 2, 3, 4].map (fun l => levelIndex l 0x40) = [0, 0, 0, 2, 0] := by decide

/-- R239's `rep` listing: the followers' words of the four repetitions write s8 to s11. -/
theorem test_repeat : (List.range 4).map (fun i => stepWord 0x910E0000 0x8123FFC0 i) = [0x8123FFC0, 0x8127FFC0, 0x812BFFC0, 0x812FFFC0] := by decide

/-- R116, R114: an immediate and a move, in the active thread alone. -/
theorem test_ldi : valueOf (exec (.ldi ⟨false, 0⟩ 3 0x3FFE) demo) 3 = some 0xFFFFFFFE := by decide
theorem test_guarded : valueOf (exec (.ldi ⟨true, 3⟩ 3 0x3FFE) demo) 3 = some 1 := by decide

/-- R30: a step fetches, decodes and runs the word at the PC. -/
theorem test_step : (match step (State.reset.withFetchWord 32 0x0120FFFE) with
    | .next s => (s.threads.head?.map fun t => t.getV 3, s.strands.head?.bind fun st => st.paths.head?.map (·.pc))
    | _ => (none, none)) = (some 0xFFFFFFFE, some 0x10004) := by decide

/-! ### Witnesses: a state and operands that meet a statement's hypotheses -/

/-- The demonstration machine with one result outstanding in RB and its marker not taken. -/
def waitingMachine : State := machine [(1, 7)] fun st =>
  { st with
    rb := [{ id := 0, pc := 0x10000, word := 0, rep := 0, lanes := [⟨0, false, [.v 5 9], none, 0, none⟩, ⟨1, false, [.v 5 8], none, 0, none⟩]
             strand := [], returned := true, poison := none }]
    nextRb := 1
    paths := st.paths.map fun p => { p with marked := false } }

theorem witness_LaneArithmeticGivesItsValue : ∃ c, ctxOf demo = some c ∧ c.vOk [63, 0, 63] = true ∧ c.vOk [63, 0] = true ∧
    c.active demo ⟨false, 0⟩ ≠ [] := ⟨_, rfl, by decide, by decide, by decide⟩

theorem witness_LaneMovesGiveTheirValue : ∃ c, ctxOf demo = some c ∧ c.vOk [63] = true := ⟨_, rfl, by decide⟩

/-- A nonzero divisor, and a divisor of 0 under dz_quiet (sr.fpcsr bit 14). -/
def quietMachine : State := { demo with threads := demo.threads.map fun t => { t with fpcsr := 0x4000 } }
theorem witness_DivisionEntersItsResult : ∃ c, ctxOf demo = some c ∧ c.vOk [63, 1, 2] = true ∧ rbRoom c ∧
    (∀ t ∈ c.active demo ⟨false, 0⟩, t.getV 2 = 0 → fpDzQuiet t.fpcsr = true) := ⟨_, rfl, by decide, by decide, by decide⟩
theorem witness_DivisionByZero : ∃ c, ctxOf quietMachine = some c ∧ c.vOk [63, 1, 0] = true ∧ rbRoom c ∧
    (∀ t ∈ c.active quietMachine ⟨false, 0⟩, t.getV 0 = 0 → fpDzQuiet t.fpcsr = true) ∧
    (∃ t ∈ c.active quietMachine ⟨false, 0⟩, t.getV 0 = 0) := ⟨_, rfl, by decide, by decide, by decide, by decide⟩
theorem witness_SpecialFunctions : ∃ c, ctxOf demo = some c ∧ c.vOk [63, 1] = true ∧ rbRoom c ∧
    (∀ t ∈ c.active demo ⟨false, 0⟩, untrapped t (special (fpFtz t.fpcsr) 0 (t.getV 1).toNat).2) :=
  ⟨_, rfl, by decide, by decide, by decide⟩
theorem witness_FloatOperationsGiveTheirValue : ∃ c, ctxOf demo = some c ∧ c.vOk [63, 1, 2] = true ∧
    (∀ t ∈ c.active demo ⟨false, 0⟩, untrapped t (floatResult f32 (fun m a b _ => f32.add m a b) t 1 2 63).2) ∧
    (∀ t ∈ c.active demo ⟨false, 0⟩, untrapped t (f32.compare 0 7 3).2) := ⟨_, rfl, by decide, by decide, by decide⟩

theorem witness_ConversionsRoundOnce : ∃ c, ctxOf demo = some c ∧ c.vOk [60, 60, 61, 62, 63] = true ∧
    (∀ t ∈ c.active demo ⟨false, 0⟩, untrapped t (convertResult (.fixed .rn) 6 0 t 1).2.1) ∧
    (∀ t ∈ c.active demo ⟨false, 0⟩, untrapped t (kn4Pack f32 1 ([0, 1, 2, 3].map fun i => (t.getV (60 + i)).toNat)).2.2) :=
  ⟨_, rfl, by decide, by decide, by decide⟩
theorem witness_RoundingKeeps : e4m3.decode 0xFE = .fin true 14 5 ∧ 0xFE < 2 ^ (e4m3.sb + 1) := by decide

theorem witness_ExchangesTakeThePartnersRegister : ∃ c, ctxOf demo = some c ∧ c.vOk [63, 0, 1] = true ∧ rbRoom c :=
  ⟨_, rfl, by decide, by decide⟩

theorem witness_PollsReductionsAndScansFoldTheThreads : ∃ c, ctxOf demo = some c ∧ c.vOk [62, 63, 0, 1] = true ∧ rbRoom c ∧
    (∀ t ∈ c.active demo ⟨false, 0⟩, untrapped t (treeFold (addOp 2) 5 ((List.range 32).map (slotValue demo c ⟨false, 0⟩ (addUnit 2) 1))).2) ∧
    (∀ t ∈ c.active demo ⟨false, 0⟩, untrapped t (scanFlags (addOp 2) (slotValue demo c ⟨false, 0⟩ (addUnit 2) 1))) :=
  ⟨_, rfl, by decide, by decide, by decide, by decide⟩

theorem witness_CapabilityInstructionsGiveTheirResult : ∃ c, ctxOf demo = some c ∧ c.cOk [15, 0, 15] = true ∧ c.vOk [62, 63] = true :=
  ⟨_, rfl, by decide, by decide⟩

theorem witness_DerivationNeverWidens : (c1.moveTo 0x1FFFFF).tag = true ∧ (c1.setBounds c1.addr (c1.addr + 1) true).tag = true ∧
    (c1.strip 0x80).tag = true ∧ ((mintCap 0 0x1000 0x08 0 0).wrapAs 1).tag = true ∧
    (c1.wrap ((mintCap 0xF000000000000000 16 0x01 0 0).withAddr 0xF000000000000004)).tag = true ∧
    ((c1.withSeal 4).unwrap ((mintCap 0xF000000000000000 16 0x01 0 0).withAddr 0xF000000000000004)).tag = true := by decide

theorem witness_SpecialRegistersReadAndWrite : ∃ c l t, ctxOf demo = some c ∧ c.handler = false ∧ launchOf demo c.tm.launch = some l ∧
    c.vOk [63] = true ∧ lowestIn (presentOf demo c.st.sid c.p) t :=
  ⟨_, _, thread 0 [(1, 7), (2, 3), (3, 1)], rfl, by decide, rfl, by decide, by decide⟩
theorem witness_UniformArithmeticAndUcapGiveTheirValue : ∃ c, ctxOf demo = some c := ⟨_, rfl⟩

theorem witness_BranchesAndJumpsSetThePc : ∃ c, ctxOf demo = some c ∧ markerTaken c := ⟨_, rfl, by decide⟩

/-- Thread 0 has p3 set and thread 1 has not: p0 is taken by both, `!p0` by none, p3 by one. Sixteen frames leave no frame. -/
def framesMachine : State := machine [] fun st =>
  { st with frames := (List.range 16).map fun i =>
      (i, { expected := 3, arrived := 0, joinpc := none, parent := none, depth := 1, code := nullCap, clock := none, lapsed := 0 }) }
theorem witness_PathsDiverge : ∃ c, ctxOf demo = some c ∧ markerTaken c ∧ (∀ t ∈ c.threads demo, takes 0 0 t = true) ∧
    (∀ t ∈ c.threads demo, takes 1 0 t = false) ∧ c.threads demo ≠ [] ∧
    (∃ t ∈ c.threads demo, takes 0 3 t = true) ∧ (∃ t ∈ c.threads demo, takes 0 3 t = false) ∧
    (c.st.frame? 0).isNone ∧ c.tm.desc.compact = false :=
  ⟨_, rfl, by decide, by decide, by decide, by decide, by decide, by decide, by decide, by decide⟩
theorem witness_PathsDivergeFull : ∃ c, ctxOf framesMachine = some c ∧ markerTaken c ∧ (∀ i, i < 16 → (c.st.frame? i).isSome) ∧
    (∃ t ∈ c.threads framesMachine, takes 0 3 t = true) ∧ (∃ t ∈ c.threads framesMachine, takes 0 3 t = false) :=
  ⟨_, rfl, by decide, by decide, by decide, by decide⟩

/-- One frame, in which thread 1 has arrived, or is still expected; the current path is thread 0's. -/
def joinFrame (arrived : BitVec 32) : Frame :=
  { expected := 3, arrived := arrived, joinpc := none, parent := none, depth := 1, code := nullCap, clock := none, lapsed := 0 }
def joinMachine (arrived : BitVec 32) : State := machine [] fun st =>
  { st with frames := [(0, joinFrame arrived)], paths := st.paths.map fun p => { p with mask := 1, marked := true, parent := some 0 } }
def JoinHolds (s : State) (c : Ctx) (f : Frame) : Prop :=
  ctxOf s = some c ∧ markerTaken c ∧ c.p.fence = none ∧ c.st.kind = .home ∧ (∀ x ∈ s.strands, x.kind ≠ .straggler c.st.sid false) ∧
    (∀ x ∈ s.strands, x.sid = c.st.sid → x = c.st) ∧ (c.st.paths.filter fun q => q.pid == c.p.pid) = [c.p] ∧ c.p.parent = some 0 ∧
    c.st.frames = [(0, f)] ∧ (∀ t ∈ s.threads, t.tid = c.st.tid → t.status = .present ∧ t.straggling = false) ∧ f.parent = none ∧
    c.st.rootJoin = none ∧ f.clock = none ∧ f.lapsed = 0
theorem witness_JoinMerges : ∃ c, JoinHolds (joinMachine 2) c (joinFrame 2) ∧
    (joinFrame 2).expected = ((joinFrame 2).arrived ||| maskOf ((presentOf (joinMachine 2) c.st.sid c.p).map (·.slot))) :=
  ⟨_, ⟨rfl, by decide, by decide, by decide, by decide, by decide, by decide, by decide, by decide, by decide, by decide, by decide,
    by decide, by decide⟩, by decide⟩
theorem witness_JoinParks : ∃ c, JoinHolds (joinMachine 0) c (joinFrame 0) ∧
    (joinFrame 0).expected &&& ~~~((joinFrame 0).arrived ||| maskOf ((presentOf (joinMachine 0) c.st.sid c.p).map (·.slot))) ≠ 0 :=
  ⟨_, ⟨rfl, by decide, by decide, by decide, by decide, by decide, by decide, by decide, by decide, by decide, by decide, by decide,
    by decide, by decide⟩, by decide⟩

theorem witness_Exit : ∃ c, ctxOf demo = some c ∧ markerTaken c ∧ c.handler = false ∧
    (∀ t ∈ demo.threads, ∀ u ∈ demo.threads, t.tid = u.tid → t.rank = u.rank → t = u) ∧
    (∀ x ∈ demo.strands, x.sid ∈ (demo.threads.filter fun t => t.tid == c.st.tid).map (·.sid) → x.kind ≠ .handler) ∧
    (∀ x ∈ demo.strands, x.tid = c.st.tid → x.kind ≠ .handler) := ⟨_, rfl, by decide, by decide, by decide, by decide, by decide⟩

/-- A path in solo mode, a handler of class 2, and a strand that has been asked to stop. -/
def soloMachine : State := machine [(1, 7)] fun st => { st with paths := st.paths.map fun p => { p with solo := true } }
def kernelMachine : State := machine [] fun st => { st with kind := .handler, handlerClass := 2 }
def stoppingMachine : State := machine [] fun st => { st with stop := .requested 9 }
def stoppingFull : State := { waitingMachine with strands := waitingMachine.strands.map fun st => { st with stop := .requested 9 } }
theorem witness_Hints : (∃ c, ctxOf demo = some c ∧ markerTaken c ∧ c.p.solo = false ∧ c.kernel = false ∧ barred demo c = false ∧
      ∀ n, c.st.stop ≠ .requested n) ∧
    (∃ c, ctxOf soloMachine = some c ∧ markerTaken c ∧ c.p.solo = true) ∧
    (∃ c, ctxOf kernelMachine = some c ∧ markerTaken c ∧ c.p.solo = false ∧ c.kernel = true) ∧
    (∃ c, ctxOf stoppingMachine = some c ∧ c.st.stop = .requested 9 ∧ c.st.rb = []) ∧
    (∃ c, ctxOf stoppingFull = some c ∧ c.st.stop = .requested 9 ∧ c.st.rb ≠ []) :=
  ⟨⟨_, rfl, by decide, by decide, by decide, by decide, by intro n h; cases h⟩, ⟨_, rfl, by decide, by decide⟩,
    ⟨_, rfl, by decide, by decide, by decide⟩, ⟨_, rfl, by decide, by decide⟩, ⟨_, rfl, by decide, by decide⟩⟩

/-- `rep 4, d` at the PC, with a word after it. -/
def repMachine (w : Word) : State := { demo with mem := { demo.mem with cells := cellPuts demo.mem.cells 0x100004 (bytesOfWord w) } }
theorem witness_RepRepeats : (∃ c, ctxOf (repMachine 0x8123FFC0) = some c ∧
      (fetchAt (repMachine 0x8123FFC0) c (c.p.pc + 4)).2 = .ok 0x8123FFC0 ∧ followerOk (repOf 3 1 0 0 0) 0x8123FFC0 = true) ∧
    (∃ c, ctxOf demo = some c ∧ markerTaken c ∧ (fetchAt demo c (c.p.pc + 4)).2 = .ok 0 ∧ followerOk (repOf 3 1 0 0 0) 0 = false) :=
  ⟨⟨_, rfl, rfl, by decide⟩, ⟨_, rfl, by decide, rfl, by decide⟩⟩
theorem witness_RepSteps : ((0x40108204 : Word).extractLsb' 20 6).toNat = 1 ∧ (0x40108204 : Word).getLsbD 31 = false ∧
    63 ≤ (63 : BitVec 6).toNat ∧ (0x80000000 ||| BitVec.ofNat 32 63 : Word).getLsbD 31 = true := by decide

/-- A path that has not taken its marker while a result is outstanding: as a home strand, in solo mode, or asked to stop. -/
def waitingSolo : State := machine [] fun st =>
  { st with rb := [{ id := 0, pc := 0, word := 0, rep := 0, lanes := [], strand := [], returned := true, poison := none }]
            stop := .requested 9, paths := st.paths.map fun p => { p with solo := true } }
theorem witness_ImplicitMarkerComesFirst : (∃ c, ctxOf waitingMachine = some c ∧ c.p.marked = false ∧ c.st.rb ≠ [] ∧ c.p.fence = none ∧
      (barrierLoc c.tm 63).isSome ∧ barred waitingMachine c = false) ∧
    ∃ c, ctxOf { waitingSolo with strands := waitingSolo.strands.map fun st => { st with paths := st.paths.map fun p =>
        { p with marked := false } } } = some c ∧ c.p.marked = false ∧ c.st.rb ≠ [] ∧ c.p.solo = true ∧ c.st.stop = .requested 9 :=
  ⟨⟨_, rfl, by decide, by decide, by decide, by decide, by decide⟩, ⟨_, rfl, by decide, by decide, by decide, by decide⟩⟩

/-- A team with 32 v registers and 8 c registers. -/
def smallTeam : State := { demo with teams := demo.teams.map fun tm => { tm with desc := { tm.desc with regs := 32, caps := 8 } } }
theorem witness_TrapsAndChecksFileTheThreads : ∃ c, ctxOf smallTeam = some c ∧ markerTaken c ∧ c.vOk [31, 32, 0] = false ∧
    c.cOk [7, 8] = false ∧ c.vOk [31, 0] = true ∧ c.p.solo = false ∧ c.handler = false :=
  ⟨_, rfl, by decide, by decide, by decide, by decide, by decide, by decide⟩

/-! ### Exceptions -/

/-- An entry of thread 0 of team 0, filed at 0x10000 under cause 0x28. -/
def anEntry (eid : Nat) : Entry :=
  { eid := eid, die := 0, cause := 0x28, inner := 0, depth := 0, pc := 0x10000, word := 0x8E000001, addr := 0, detail := 0, rep := 0
    subject := .thread 0 0, launch := 1, x := 0, y := 0, z := 0, rank := 0, asid := 1, world := 1, colour := 1, faultAsid := 0
    stamp := 0, state := .filed }
/-- A handler of a cause in a bank, and a state with it. -/
def handles (cls : BitVec 2) : CauseEntry :=
  { valid := true, cls := cls, width := 4, timeout := 100, home := 0x101, code := bufCap 0, data := nullCap, resident := false }
def withCause (s : State) (bank cause : Nat) (cls : BitVec 2) : State :=
  { s with traps := { s.traps with causeTable := sput noCause s.traps.causeTable (128 * bank + cause) (handles cls) } }
def trapped : State := withCause demo 1 0x28 0
def parkedStrand : State := { trapped with strands := trapped.strands.map fun st => { st with parked := [anEntry 0] } }
def trapAt : At := ⟨0, 0x10000, 0x8E000001, 0, nullCap⟩
def trapFailure : Failure := ⟨0x28, 0, 0, 0⟩

theorem witness_FilingTakesTheException : (∃ st tm, strandOf trapped 0 = some st ∧ teamOf trapped 0 = some tm ∧ st.serves = false ∧
      (thread 0 []).subject = none ∧ served trapped tm.world 0x28 ∧ st.parked = [] ∧ shareHasRoom trapped (dieOf st.core) 0x28) ∧
    (∃ st tm, strandOf parkedStrand 0 = some st ∧ teamOf parkedStrand 0 = some tm ∧ st.serves = false ∧
      served parkedStrand tm.world 0x28 ∧ st.parked ≠ []) :=
  ⟨⟨_, _, rfl, rfl, by decide, rfl, by decide, by decide, by decide⟩, ⟨_, _, rfl, rfl, by decide, by decide, by decide⟩⟩

/-- A handler strand 1 of team 1, one lane, whose subject is thread 0 of team 0, filed under cause 0x28 as entry 0. -/
def handlerState (cause : BitVec 7) (cls : BitVec 2) (subject : Subject) (v : Sparse Word) : State :=
  let key : TeamKey := { kind := 0, x := 0, y := 0, z := 0, stage := 0 }
  let st := startStrand 1 1 0 0 1 .handler 1 (bufCap 0) []
  let e := { anEntry 0 with subject := subject, state := .served 1 0, cause := cause }
  { withCause (withCause demo 0 0x3F 2) 1 0x28 0 with
    run := { demo.run with issuing := some 1, nextTid := 2, nextSid := 2 }
    threads := [{ thread 0 [(5, 77)] with status := .filed 0 }, thread 1 [],
      { startThread 0 1 0 1 0 [(1, bufCap 0)] (some 0) with v := v }]
    strands := demo.strands ++ [{ st with
      handlerCause := cause, handlerClass := cls, paths := st.paths.map fun p => { p with marked := true } }]
    teams := demo.teams ++ [{ newTeam 1 1 key .handler placedDesc 1 1 (bufCap 0) 1 with state := .running, place := some 0, homes := 1 }]
    traps := { (withCause (withCause demo 0 0x3F 2) 1 0x28 0).traps with pillow := [e], nextEid := 1 } }

def serving : State := handlerState 0x28 0 (.thread 0 0) [(1, 5), (2, 0)]
def laneOf (s : State) : Thread := (threadOf s 1 0).getD (thread 9 [])

theorem witness_UnservedCauseEndsTheLaunch : ∃ st tm l, strandOf demo 0 = some st ∧ teamOf demo 0 = some tm ∧ st.serves = false ∧
    ¬ served demo tm.world 0x28 ∧ tm.role.compensates = false ∧ launchOf demo tm.launch = some l ∧ l.state = .live :=
  ⟨_, _, _, rfl, rfl, by decide, by decide, by decide, rfl, by decide⟩
/-- The lane of `serving` is filed under cause 0x3F itself, and strand 2 of team 2 serves it; its first subject's team takes a
role. -/
def nested (role : TeamRole) : State :=
  let st := startStrand 2 2 0 0 2 .handler 1 (bufCap 0) []
  let own := { anEntry 1 with subject := .thread 1 0, state := .served 2 0, cause := 0x3F, inner := 0x28, depth := 1 }
  { serving with
    teams := (serving.teams.map fun tm => if tm.tid = 0 then { tm with role := role } else tm) ++
      [{ newTeam 2 1 ⟨0, 0, 0, 0, 0⟩ .handler placedDesc 1 1 (bufCap 0) 2 with state := .running, place := some 0, homes := 1 }]
    strands := serving.strands ++ [{ st with handlerCause := 0x3F, handlerClass := 2 }]
    threads := serving.threads ++ [startThread 0 2 0 2 0 [(1, bufCap 0)] (some 1)]
    traps := { serving.traps with pillow := serving.traps.pillow ++ [own], nextEid := 2 } }
def nestedLane (role : TeamRole) : Thread := (threadOf (nested role) 2 0).getD (thread 9 [])
theorem witness_HandlerFailuresNestTwice : ∀ role ∈ [TeamRole.field, .compensation 7 2 3 2], ∃ st tm own lane e0 o l,
    strandOf (nested role) 2 = some st ∧ teamOf (nested role) 2 = some tm ∧ st.serves = true ∧
      servedEntry (nested role) (nestedLane role) = some own ∧ st.handlerCause = 0x3F ∧ own.subject = .thread 1 0 ∧
      threadOf (nested role) 1 0 = some lane ∧ servedEntry (nested role) lane = some e0 ∧ e0.subject = .thread 0 0 ∧
      teamOf (nested role) 0 = some o ∧ (∀ z ∈ (nested role).strands, z.tid = 0 → z.kind ≠ .handler) ∧
      launchOf (nested role) own.launch = some l ∧ l.state = .live ∧ (o.role.compensates = false ↔ role = .field) := by
  intro role h
  simp only [List.mem_cons, List.not_mem_nil, or_false] at h
  rcases h with rfl | rfl <;>
    exact ⟨_, _, _, _, _, _, _, rfl, rfl, by decide, rfl, by decide, by decide, rfl, rfl, by decide, rfl, by decide, rfl, by decide, by decide⟩
theorem witness_HandlerFailuresNest : (∃ st tm own, strandOf serving 1 = some st ∧ teamOf serving 1 = some tm ∧ st.serves = true ∧
      servedEntry serving (laneOf serving) = some own ∧ st.handlerCause ≠ 0x3F ∧ st.handlerCause ≠ 0x18 ∧
      (causeEntry serving 0 0x3F).valid = true ∧ st.parked = [] ∧ shareHasRoom serving (dieOf st.core) 0x3F) ∧
    (∃ st own l, strandOf (handlerState 0x3F 2 (.thread 0 0) []) 1 = some st ∧ st.handlerCause = 0x3F ∧
      servedEntry (handlerState 0x3F 2 (.thread 0 0) []) (laneOf (handlerState 0x3F 2 (.thread 0 0) [])) = some own ∧
      launchOf (handlerState 0x3F 2 (.thread 0 0) []) own.launch = some l ∧ l.state = .live) :=
  ⟨⟨_, _, _, rfl, rfl, by decide, rfl, by decide, by decide, by decide, by decide, by decide⟩, ⟨_, _, _, rfl, by decide, rfl, rfl, by decide⟩⟩

/-- The subject is there, or its entry is gone. -/
def goneSubject : State := { serving with traps := { serving.traps with pillow := [] } }
theorem witness_HandlersReadAndWriteTheirSubjects : (∃ c x, ctxOf serving = some c ∧ c.handler = true ∧ c.vOk [63, 1] = true ∧
      c.cOk [15] = true ∧ rbRoom c ∧ c.active serving ⟨false, 0⟩ = [laneOf serving] ∧ subjectThread serving (laneOf serving) = some x ∧
      selectable x.2.1 ((laneOf serving).getV 1) ∧ selectorIndex ((laneOf serving).getV 1) % 16 < x.2.1.desc.caps) ∧
    (∃ c, ctxOf goneSubject = some c ∧ c.handler = true ∧ ∀ t ∈ c.active goneSubject ⟨false, 0⟩, servedEntry goneSubject t = none) :=
  ⟨⟨_, _, rfl, by decide, by decide, by decide, by decide, by decide, rfl, by decide, by decide⟩, ⟨_, rfl, by decide, by decide⟩⟩

theorem witness_HandlersReturnTheirSubjects : ∃ c e tm u st, ctxOf serving = some c ∧ markerTaken c ∧ c.st.kind = .handler ∧
    c.active serving ⟨false, 0⟩ = [laneOf serving] ∧ (laneOf serving).tid = c.st.tid ∧
    subjectThread serving (laneOf serving) = some (e, tm, u) ∧ u.tid ≠ c.st.tid ∧
    (∀ x ∈ serving.strands, x.tid = c.st.tid → x.kind = .handler) ∧ u.straggling = false ∧ strandOf serving u.sid = some st ∧
    st.sid ≠ c.st.sid ∧ st.tid = u.tid ∧ st.rootJoin = none ∧
    (∀ x ∈ serving.strands, ∀ y ∈ serving.strands, x.kind ≠ .straggler y.sid false ∧ x.kind ≠ .straggler y.sid true) ∧ (∀ x ∈ serving.threads, x.straggling = false ∧ (x.tid = (laneOf serving).tid → x.sid = c.st.sid)) ∧
    (∀ x ∈ st.frames, x.2.expected.getLsbD u.slot = true ∧ x.2.arrived.getLsbD u.slot = false ∧ x.2.lapsed.getLsbD u.slot = false) ∧ u.slot < 32 ∧
    c.vOk [1] = true ∧ (((laneOf serving).getV 1).setWidth 7 : BitVec 7) ≠ 0 :=
  ⟨_, _, _, _, _, rfl, by decide, by decide, by decide, by decide, rfl, by decide, by decide, by decide, rfl, by decide, by decide, by decide,
    by decide, by decide, by decide, by decide, by decide, by decide⟩
/-- The lane passes on under cause 0x29; there is room for the entry, or the strand is parked already. -/
def passing (parked : List Entry) : State :=
  let s := withCause (handlerState 0x28 0 (.thread 0 0) [(1, 0x29)]) 1 0x29 0
  { s with strands := s.strands.map fun st => if st.sid = 1 then { st with parked := parked } else st }
theorem witness_HandlersPassOn : served (passing []) 1 0x29 ∧
    shareHasRoom { passing [] with traps := { (passing []).traps with pillow := (passing []).traps.pillow.filter fun x => x.eid != 0 } } 0 0x29 ∧
    ∃ c, ctxOf (passing [anEntry 9]) = some c ∧ c.st.parked ≠ [] := ⟨by decide, by decide, _, rfl, by decide⟩

/-! ### Memory -/

/-- The cause of a check that fails. -/
def causeOf (x : Except (BitVec 7) (List (Loc × Nat))) : Option (BitVec 7) :=
  match x with
  | .error c => some c
  | .ok _ => none
/-- An access through c1 into the activation buffer, and one into mapped memory: its address, and where the table is read. -/
def accessOf (addr : Int) (cap : Cap) : Access :=
  { kind := .load, cap := cap, addr := addr, size := 4, perm := 0x80, natural := true, whole := false, fe := false, engine := false }
def memCap : Cap := mintCap 0x10000 0x10000 0xC0 1 0
theorem witness_AccessChecksComeInOrder : demo.trust.lifecycle ≠ 2 ∧ earlyCause (accessOf 0x8000000000000000 (bufCap 0)) = none ∧
    earlyCause (accessOf 0x80000000000003FC (bufCap 0)) = none ∧ earlyCause (accessOf 0x8000000000000400 (bufCap 0)) = some 3 ∧
    earlyCause (accessOf 0x10000 memCap) = none ∧
    (∀ n ∈ ([1, 7, 9, 14, 15] : List Nat), earlyCause (accessOf (n * 2 ^ 60 : Nat) (mintCap (n * 2 ^ 60) 4096 0xC0 0 0)) = none) ∧
    earlyCause (accessOf (2 ^ 57) (mintCap (2 ^ 57) 4096 0xC0 0 0)) = none := by decide

/-- The places of an access in the issuing team's own reach, as a decision. -/
def homeB (c : Ctx) (kind : AccKind) (locs : List (Loc × Nat)) : Bool := locs.all fun x => match x.1 with
  | .remote _ _ => kind == .red
  | .act tid _ => tid == c.tm.tid
  | _ => true
theorem atHome_of {c : Ctx} {kind : AccKind} {locs : List (Loc × Nat)} (h : homeB c kind locs = true) : atHome c kind locs := by
  intro x hx
  have := List.all_eq_true.1 h x hx
  cases hl : x.1 <;> simp_all
theorem witness_LoadsEnterTheReturnBuffer : ∃ c, ctxOf demo = some c ∧ barred demo c = false ∧ rbRoom c ∧
    (∀ f ∈ laneLoads ⟨false, 0⟩ 4 2 1 2 0 0 5 0 1, f.legal c = true ∧ ∀ x ∈ (checksOf demo c ⟨false, 0⟩ f).2, x.res.toOption.isSome) ∧
    c.p.probe = [] ∧ (∀ f ∈ laneLoads ⟨false, 0⟩ 4 2 1 2 0 0 5 0 1, ∀ x ∈ passedLanes (checksOf demo c ⟨false, 0⟩ f).2, homeB c .load x.2.2 = true) ∧
    nothingHeld demo := ⟨_, rfl, by decide, by decide, by decide, by decide, by decide, by decide⟩
/-- c1 of both threads names package 1. -/
def farMachine : State :=
  { demo with threads := demo.threads.map fun t => { t with c := [(1, mintCap 0xC008000000020000 0x10000 0xF4 1 0)] }
              fabric := { demo.fabric with members := [(0, 5), (1, 6)] } }
theorem witness_LoadsLeave : ∃ c, ctxOf farMachine = some c ∧ barred farMachine c = false ∧ rbRoom c ∧
    (∀ f ∈ laneLoads ⟨false, 0⟩ 4 2 1 2 0 0 5 0 1, f.legal c = true ∧ (∀ x ∈ (checksOf farMachine c ⟨false, 0⟩ f).2, x.res.toOption.isSome) ∧
      leaving c .load (passedLanes (checksOf farMachine c ⟨false, 0⟩ f).2) ≠ []) ∧ c.p.probe = [] ∧
    (∀ x ∈ farMachine.mem.events, x.id < farMachine.run.nextEv) ∧ (∀ x ∈ farMachine.strands, x.sid = c.st.sid → x = c.st) :=
  ⟨_, rfl, by decide, by decide, by decide, by decide, by decide, by decide⟩
theorem witness_StoresIssueTheirBytes : ∃ c, ctxOf demo = some c ∧ barred demo c = false ∧
    (∀ f ∈ laneStores ⟨false, 0⟩ 4 2 1 3 3 0 5 0, f.legal c = true ∧ ∀ x ∈ (checksOf demo c ⟨false, 0⟩ f).2, x.res.toOption.isSome) ∧
    c.p.probe = [] ∧ (∀ f ∈ laneStores ⟨false, 0⟩ 4 2 1 3 3 0 5 0, ∀ x ∈ passedLanes (checksOf demo c ⟨false, 0⟩ f).2, homeB c (f.req x.1).kind x.2.2 = true) ∧
    nothingHeld demo := ⟨_, rfl, by decide, by decide, by decide, by decide, by decide⟩

theorem witness_UniformAccessesAreOneEvent : ∃ c, ctxOf demo = some c ∧ barred demo c = false ∧ lowestIn (c.threads demo) (thread 0 [(1, 7), (2, 3), (3, 1)]) ∧
    c.p.probe = [] ∧ rbRoom c ∧ markerTaken c ∧
    (checkAccess demo (c.who demo 0) (throughK c 1 .load 0x80 16 63 true)).2.toOption = some [(.act 0 1008, 16)] ∧
    (checkAccess demo (c.who demo 0) (throughK c 1 .store 0x40 4 255 false)).2.toOption = some [(.act 0 1020, 4)] ∧ c.tm.tid = 0 ∧
    causeOf (checkAccess demo (c.who demo 0) (throughK c 1 .store 0x40 4 256 false)).2 = some 3 :=
  ⟨_, rfl, by decide, by decide, by decide, by decide, by decide, by decide, by decide, by decide, by decide⟩

/-- A handler lane that names its subject's c1, or its empty c2. -/
def accessing (n : Word) : State := handlerState 0x28 0 (.thread 0 0) [(1, n)]
theorem witness_SubjectAccessesUseTheSubjectsAuthority : ∃ c e tm u, ctxOf (accessing 0x41) = some c ∧ c.handler = true ∧
    c.vOk [63, 1, 2] = true ∧ c.p.probe = [] ∧ barred (accessing 0x41) c = false ∧ c.active (accessing 0x41) ⟨false, 0⟩ = [laneOf (accessing 0x41)] ∧
    subjectThread (accessing 0x41) (laneOf (accessing 0x41)) = some (e, tm, u) ∧ ((laneOf (accessing 0x41)).getV 1).toNat / 16 % 8 ≤ 4 ∧
    ((laneOf (accessing 0x41)).getV 1).toNat % 16 < tm.desc.caps ∧ rbRoom c ∧
    (checkAccess (accessing 0x41) (subjectWho (accessing 0x41) c tm u) (subjectAccess (laneOf (accessing 0x41)) u 1 true)).2.toOption.isSome :=
  ⟨_, _, _, _, rfl, by decide, by decide, by decide, by decide, by decide, rfl, by decide, by decide, by decide, by decide⟩
theorem witness_SubjectAccessesFail : ∃ c e tm u, ctxOf (accessing 0x42) = some c ∧ markerTaken c ∧
    subjectThread (accessing 0x42) (laneOf (accessing 0x42)) = some (e, tm, u) ∧
    causeOf (checkAccess (accessing 0x42) (subjectWho (accessing 0x42) c tm u) (subjectAccess (laneOf (accessing 0x42)) u 1 true)).2 = some 4 ∧
    threadOf (accessing 0x42) 1 0 = some (laneOf (accessing 0x42)) ∧ c.st.handlerCause ≠ 0x3F ∧ c.st.handlerCause ≠ 0x18 ∧
    (causeEntry (accessing 0x42) 0 0x3F).valid = true ∧ c.st.parked = [] ∧ shareHasRoom (accessing 0x42) (dieOf c.st.core) 0x3F ∧
    ∀ x ∈ (accessing 0x42).traps.pillow, x.eid < (accessing 0x42).traps.nextEid :=
  ⟨_, _, _, _, rfl, by decide, rfl, by decide, by decide, by decide, by decide, by decide, by decide, by decide, by decide⟩

theorem witness_FullEmptyIssue : ∃ c, ctxOf demo = some c ∧ dataNamed false 63 1 1 c = true ∧ barred demo c = false ∧ markerTaken c ∧
    (∀ x ∈ (checkLanes c 1 (fun t => { throughC 1 .load 0x80 4 0 false t with fe := true }) demo (c.active demo ⟨false, 0⟩)).2,
      x.res.toOption.isSome) ∧ c.active demo ⟨false, 0⟩ ≠ [] := ⟨_, rfl, by decide, by decide, by decide, by decide, by decide⟩
/-- A pending access of thread 0 to `n` bytes of tier 0 at the physical address `pa`. -/
def pending (kind : EvKind) (pa n : Nat) (data : List Byte) (dest : Option (Nat × Nat × LoadFmt)) : MemEv :=
  { id := 4, tid := 0, rank := 0, sid := 0, pid := 0, core := 0, owners := [0], kind := kind, locs := [(.phys pa 0, n)], va := 0x10000
    asid := 1, world := 1, sem := .rlx, scope := 5, data := data, tag := none, keepTag := false, cap := memCap, dest := dest, acq := 0
    launch := 1, pc := 0x10000, word := 0, sent := false, probe := false, early := [] }
/-- A path that waits for a word of its team's buffer, which is full or empty. -/
def feMachine (take full : Bool) : State :=
  let s := machine [] fun st => { st with paths := st.paths.map fun p =>
    { p with state := .waiting (if take then .feTake [⟨0, 0, 8, 5, 9⟩] 5 0 else .feFill [⟨0, 0, 8, 5, 9⟩] 5 0) 0 } }
  { s with teams := s.teams.map fun tm => { tm with fe := if full then [(2, true)] else [] } }
theorem witness_FullEmptyWaits (take full : Bool) : ∃ st tm th p, strandOf (feMachine take full) 0 = some st ∧
    teamOf (feMachine take full) 0 = some tm ∧ tm.state ≠ .ended ∧ swf false tm.fe = true ∧ threadOf (feMachine take full) 0 0 = some th ∧
    (st.paths.filter fun q => q.pid == p.pid) = [p] ∧ feWait st 0 = some (p, take, [⟨0, 0, 8, 5, 9⟩], ⟨0, 0, 8, 5, 9⟩, 5) ∧
    sget false tm.fe 2 = full ∧ feReleased (feMachine take full) st 5 0 = true ∧ feInOrder (feMachine take full) st ⟨0, 0, 8, 5, 9⟩ = true ∧
    bufPoison tm false 8 4 = none := by
  cases take <;> cases full <;>
    exact ⟨_, _, _, _, rfl, rfl, by decide, by decide, rfl, by decide, rfl, by decide, by decide, by decide, by decide⟩
/-- The full word is poisoned, or its taker's own store to it is pending. -/
def poisonedFe (busy : Bool) : State :=
  let s := feMachine true true
  { s with teams := s.teams.map fun tm => { tm with actPoison := sput none [] 2 (some 0x13) }
           mem := { s.mem with events := if busy then [{ pending .store 0 1 [7] none with locs := [(.act 0 8, 1)] }] else [] } }
theorem witness_FullEmptyPoison (busy : Bool) : ∃ st tm th p, strandOf (poisonedFe busy) 0 = some st ∧ st.serves = false ∧
    teamOf (poisonedFe busy) 0 = some tm ∧ tm.state ≠ .ended ∧ swf false tm.fe = true ∧ threadOf (poisonedFe busy) 0 0 = some th ∧
    (st.paths.filter fun q => q.pid == p.pid) = [p] ∧ feWait st 0 = some (p, true, [⟨0, 0, 8, 5, 9⟩], ⟨0, 0, 8, 5, 9⟩, 5) ∧
    sget false tm.fe 2 = true ∧ feInOrder (poisonedFe busy) st ⟨0, 0, 8, 5, 9⟩ = !busy ∧ bufPoison tm false 8 4 = some 0x13 := by
  cases busy <;>
    exact ⟨_, _, _, _, rfl, by decide, rfl, by decide, by decide, rfl, by decide, rfl, by decide, by decide, by decide⟩

def eventMachine (e : MemEv) : State := { demo with mem := { demo.mem with events := [e] } }
def aLoad : MemEv := { pending .load 0x10003C 4 [] (some (0, 0, .words 5 1)) with sem := .plain }
/-- The line that the load reads, staged by its team, or held by its core. -/
def stagedMachine : State := { eventMachine aLoad with teams := demo.teams.map fun tm =>
  { tm with staged := [⟨0x4000, 0x10000, [(0x10003C, 1), (0x10003D, 2), (0x10003E, 3), (0x10003F, 4)], [], 0, 0, [], none⟩] } }
def copyMachine : State := { eventMachine aLoad with mem := { (eventMachine aLoad).mem with
  l1 := [⟨0, 0x4000, List.replicate 64 7, List.replicate 64 0, 1, 0, [false, false, false, false], none⟩] } }
theorem witness_LoadsTakeTheirBytes : (eventOf (eventMachine aLoad) 4 = some aLoad ∧ aLoad.probe = false ∧ aLoad.early = [] ∧ earlierPending (eventMachine aLoad) aLoad = false ∧
      allStaged (eventMachine aLoad) aLoad = false ∧ aLoad.isRemote = false ∧
      (readLocs (eventMachine aLoad) (teamOf (eventMachine aLoad) 0) aLoad.locs).2.isSome = true) ∧
    (eventOf stagedMachine 4 = some aLoad ∧ earlierPending stagedMachine aLoad = false ∧ allStaged stagedMachine aLoad = true ∧
      (readLocs stagedMachine (teamOf stagedMachine 0) aLoad.locs).2.isSome = true) ∧
    (eventOf copyMachine 4 = some aLoad ∧ l1Allowed copyMachine aLoad = true ∧ (l1CopyFor copyMachine aLoad).isSome = true) ∧
    tierAt 0x10003C = some 0 ∧ 0x10003C % 64 + 4 ≤ 64 ∧ tierAt (64 * 0x4000) = some 0 ∧
    (∀ x ∈ demo.mem.redEntries, x.line ≠ 0x4000) ∧ (∃ tm, teamOf demo 0 = some tm ∧ tm.state ≠ .ended) :=
  ⟨by decide, by decide, by decide, by decide, by decide, by decide, by decide, ⟨_, rfl, by decide⟩⟩

theorem witness_StoresAndAtomicsWriteTheirBytes :
    (∀ e ∈ [pending .store 0x10003C 4 [1, 2, 3, 4] none, pending (.red 0) 0x10003C 4 [1, 2, 3, 4] none,
        pending (.atom 11) 0x10003C 4 [1, 2, 3, 4] (some (0, 0, .words 5 1)),
        pending .cas 0x100038 8 (List.replicate 16 0) (some (0, 0, .words 4 2))],
      eventOf (eventMachine e) e.id = some e ∧ e.probe = false ∧ earlierPending (eventMachine e) e = false) ∧
    oneLine demo (pending .store 0x10003C 4 [] none) 0x10003C 0 4 ∧ oneLine demo (pending .cas 0x100038 8 [] none) 0x100038 0 8 ∧
    Memory.wf demo.mem.cells = true ∧
    applyReady (eventMachine (pending .store 0x10003C 4 [1, 2, 3, 4] none)) (pending .store 0x10003C 4 [1, 2, 3, 4] none) = true := by decide

/-! ### Matrix, tiles and accumulators -/

theorem witness_MatrixStepsRoundTheExactSum : (∀ v ∈ a56.decode 0x3FF00000000000 :: [FVal.fin true 3 0], finiteFrom (-60) v) ∧
    (∃ v ∈ a56.decode 0x7FF80000000000 :: [], v.isNan = true) ∧ (∀ v ∈ a56.decode 0 :: [.inf false, .inf true], v.isNan = false) ∧
    (2 ^ 56 - 1 : Nat) < 2 ^ 56 := by
  refine ⟨?_, by decide, by decide, by decide⟩
  intro v hv
  rcases List.mem_cons.1 hv with rfl | hv
  · show (-60 : Int) ≤ _
    decide
  · rw [List.mem_singleton.1 hv]
    show (-60 : Int) ≤ _
    decide

/-- Tiles whose control register is `ctl`: 0x7F0 shapes 16 rows of 128 bytes, bits [3:2] the element's width. -/
def shaped (ctl : Word) : State :=
  { demo with teams := demo.teams.map fun tm => { tm with tiles := (List.range 16).map fun i => (i, { zeroTile with ctl := ctl }) } }
def g0 : Guard := ⟨false, 0⟩
theorem witness_MatrixProductsEnterTheirResult : ∃ c, ctxOf (shaped 0x7F4) = some c ∧ c.notFresh = true ∧ rbRoom c ∧
    activeQuarters (shaped 0x7F4) c g0 = [0] ∧
    (∀ q ∈ activeQuarters (shaped 0x7F4) c g0, effective c 15 0 q < c.tm.desc.tiles ∧ effective c 0 1 q < c.tm.desc.tiles ∧
      effective c 7 2 q < c.tm.desc.accs) ∧
    ∀ q ∈ activeQuarters (shaped 0x7F4) c g0, ∀ t ∈ [c.tm.tile (effective c 15 0 q), c.tm.tile (effective c 0 1 q)],
      t.ew = (ElemFmt.fp e4m3).size ∧ t.rows = 16 ∧ t.rb = 7 :=
  ⟨_, rfl, by decide, by decide, by decide, by decide, by decide⟩
theorem witness_MatrixProductsKn4 : ∃ c, ctxOf (shaped 0x7F0) = some c ∧ 2 * 28 + 4 * 0 + 7 < c.tm.desc.regs ∧
    ∀ q ∈ activeQuarters (shaped 0x7F0) c g0, ∀ t ∈ [c.tm.tile (effective c 15 0 q), c.tm.tile (effective c 0 1 q)],
      t.ew = 0 ∧ t.rows = 16 ∧ t.win ≤ t.rb := ⟨_, rfl, by decide, by decide⟩

/-- A layout record at 0x10000, its weight capability tagged: one row of 16 bytes of E4M3 in the activation buffer. -/
def recordBytes : List Byte := (bufCap 0).toBytes ++ bytesOfNat 4 1 ++ bytesOfNat 4 16 ++ bytesOfNat 4 0 ++ bytesOfNat 36 0
def recordCap : Cap := mintCap 0x10000 0x10000 0xF4 1 0
def withRecord (s : State) : State :=
  { s with mem := { s.mem with cells := cellPuts s.mem.cells 0x100000 recordBytes, tags := [0x10000] } }
def streamMachine : State := { withRecord (shaped 0x7F4) with threads := [{ thread 0 [] with c := [(2, recordCap)] }] }
def streamLane : Thread := { thread 0 [] with c := [(2, recordCap)] }
def recordAccess : Access :=
  { kind := .load, cap := recordCap, addr := recordCap.addr, size := 64, perm := 0x80, natural := false, whole := false, fe := false
    engine := false, align := 64 }
/-- A result that is there, whatever the state beside it. -/
theorem ok_of {β ε α : Type} {x : β × Except ε α} {a : α} (h : x.2.toOption = some a) : x = (x.1, .ok a) := by
  obtain ⟨b, e | v⟩ := x
  · cases h
  · cases h
    rfl
theorem some_of {β α : Type} {x : β × Option α} {a : α} (h : x.2 = some a) : x = (x.1, some a) := by
  obtain ⟨b, v⟩ := x
  cases h
  rfl
theorem some_ok_of {β ε α : Type} {x : β × Option (Except ε α)} {a : α} (h : x.2.bind Except.toOption = some a) :
    x = (x.1, some (.ok a)) := by
  obtain ⟨b, _ | _ | v⟩ := x
  · cases h
  · cases h
  · cases h
    rfl

def streamCtx : Ctx := (ctxOf streamMachine).getD
  ⟨startStrand 0 0 0 0 0 .home 1 nullCap [], ⟨0, 0, 0, none, 0, 0, .ready, nullCap, false, 0, none, none, false, []⟩,
    newTeam 0 0 ⟨0, 0, 0, 0, 0⟩ .field placedDesc 0 0 nullCap 0, 0⟩
def stream1 : State := exposeAccess (checkAccess streamMachine (streamCtx.who streamMachine 0) recordAccess).1 0 recordCap.addr false
  [(.phys 0x100000 0, 64)]
def stream2 : State := (quarterRecord stream1 streamCtx streamLane 2 recordCap [(.phys 0x100000 0, 64)]).1
theorem witness_StreamsEnterTheirResult : ctxOf streamMachine = some streamCtx ∧ streamCtx.notFresh = true ∧ rbRoom streamCtx ∧
    barred streamMachine streamCtx = false ∧ activeQuarters streamMachine streamCtx g0 = [0] ∧
    ((streamCtx.active streamMachine g0).find? fun u => u.slot / 8 == 0) = some streamLane ∧
    effective streamCtx 1 0 0 < streamCtx.tm.desc.tiles ∧ effective streamCtx 0 2 0 < streamCtx.tm.desc.accs ∧ 2 < streamCtx.tm.desc.caps :=
  ⟨rfl, by decide, by decide, by decide, by decide, by decide, by decide, by decide, by decide⟩
theorem witness_StreamRecord : (∃ s1, checkAccess streamMachine (streamCtx.who streamMachine 0) recordAccess = (s1, .ok [(.phys 0x100000 0, 64)])) ∧
    (∃ s2, quarterRecord stream1 streamCtx streamLane 2 recordCap [(.phys 0x100000 0, 64)] = (s2, some (.ok ⟨recordBytes, [], true, none⟩))) ∧
    streamShape 0 1 (parseRecord recordBytes (true && recordCap.perms.getLsbD 5)) (streamCtx.tm.tile (effective streamCtx 1 0 0)) = some 16 ∧
    (∃ s3, weightRows stream2 streamCtx streamLane 2 (parseRecord recordBytes (true && recordCap.perms.getLsbD 5))
      (parseRecord recordBytes (true && recordCap.perms.getLsbD 5)).rows 0 = (s3, some (.ok ([1 :: List.replicate 15 0], none)))) :=
  ⟨⟨_, ok_of (by decide)⟩, ⟨_, some_ok_of (by decide)⟩, by decide, ⟨_, some_ok_of (by decide)⟩⟩

/-- Tiles of one row of 16 bytes (rb 0, rows 1) and c1 into the buffer: each lane of a quarter's first two moves its rows. -/
theorem witness_TilesAreShapedAndMoved : (∃ c, ctxOf (shaped 0x7F4) = some c ∧ c.notFresh = true ∧ rbRoom c ∧ 15 + 0 < c.tm.desc.tiles ∧
      swf zeroTile c.tm.tiles = true ∧
      ∀ q ∈ activeQuarters (shaped 0x7F4) c g0, effective c 15 1 q < c.tm.desc.tiles ∧ effective c 0 0 q < c.tm.desc.tiles ∧
        (c.tm.tile (effective c 0 0 q)).ew = (c.tm.tile (effective c 15 1 q)).ew ∧ (c.tm.tile (effective c 0 0 q)).rows = 16 ∧
        (c.tm.tile (effective c 15 1 q)).rows = 16 ∧
        2 * (4 * 2 ^ (c.tm.tile (effective c 15 1 q)).ew) ≤ (c.tm.tile (effective c 0 0 q)).rowBytes) ∧
    (∀ load : Bool, ∃ c, ctxOf (shaped 0x014) = some c ∧ barred (shaped 0x014) c = false ∧ c.p.probe = [] ∧ 1 < c.tm.desc.caps ∧
      (∀ q ∈ activeQuarters (shaped 0x014) c g0, effective c 15 0 q < c.tm.desc.tiles) ∧
      ((c.active (shaped 0x014) g0).filter fun u => decide (0 < rowsOfLane (laneTile c 15 u) u.slot)) ≠ [] ∧
      (∀ x ∈ (checkLanes c 1 (rowAccess c 15 1 load) (shaped 0x014)
        ((c.active (shaped 0x014) g0).filter fun u => decide (0 < rowsOfLane (laneTile c 15 u) u.slot))).2, x.res.toOption.isSome) ∧
      ∀ x ∈ passedLanes (checkLanes c 1 (rowAccess c 15 1 load) (shaped 0x014)
        ((c.active (shaped 0x014) g0).filter fun u => decide (0 < rowsOfLane (laneTile c 15 u) u.slot))).2,
        homeB c (if load then .load else .store) x.2.2 = true) := by
  refine ⟨⟨_, rfl, by decide, by decide, by decide, by decide, by decide⟩, ?_⟩
  intro load
  cases load <;> exact ⟨_, rfl, by decide, by decide, by decide, by decide, by decide, by decide, by decide⟩

theorem witness_AccumulatorsMoveTheirElements : (∃ c, ctxOf demo = some c ∧ c.notFresh = true ∧ rbRoom c ∧ 7 < c.tm.desc.accs ∧
      56 + movRegs 0 - 1 < c.tm.desc.regs ∧ swf 0 c.tm.accs = true ∧ c.vOk [63] = true ∧ barred demo c = false ∧ 1 < c.tm.desc.caps ∧
      (∀ t ∈ c.active demo g0, untrapped t ((List.range 8).foldl (fun (f : Flags) k =>
        f ||| (narrowA56 0 true (c.tm.acc 7 (8 * t.slot + k))).2.1) 0))) ∧
    (∀ load : Bool, ∃ c, ctxOf demo = some c ∧ c.active demo g0 ≠ [] ∧ c.p.probe = [] ∧
      (∀ x ∈ (checkLanes c 1 (elementAccess 1 load) demo (c.active demo g0)).2, x.res.toOption.isSome) ∧
      ∀ x ∈ passedLanes (checkLanes c 1 (elementAccess 1 load) demo (c.active demo g0)).2, homeB c (if load then .load else .store) x.2.2 = true) := by
  refine ⟨⟨_, rfl, by decide, by decide, by decide, by decide, by decide, by decide, by decide, by decide, by decide⟩, ?_⟩
  intro load
  cases load <;> exact ⟨_, rfl, by decide, by decide, by decide, by decide⟩

/-! ### Barriers, queues and fences -/

/-- A strand that is away from its team's own barrier (a fresh strand), and a handler team. -/
def freshMachine : State := machine [] fun st => { st with kind := .fresh [] }
def arrivedMachine : State := machine [] fun st => { st with arrival := some (63, true) }
theorem witness_BarriersMeet : (∃ c, ctxOf demo = some c ∧ mayArrive demo c 63 ∧ mayArrive demo c 0 ∧ c.awayStrand = false ∧ markerTaken c ∧
      barred demo c = false ∧ 8 * 63 + 8 ≤ actBytes c.tm ∧ c.tm.role ≠ .handler) ∧
    (∃ c, ctxOf arrivedMachine = some c ∧ mayArrive arrivedMachine c 63 ∧ c.st.arrival = some (63, true)) ∧
    (∃ c, ctxOf freshMachine = some c ∧ c.awayStrand = true ∧ markerTaken c) ∧
    (∃ c, ctxOf serving = some c ∧ c.tm.role = .handler ∧ markerTaken c) :=
  ⟨⟨_, rfl, by decide, by decide, by decide, by decide, by decide, by decide, by decide⟩, ⟨_, rfl, by decide, by decide⟩,
    ⟨_, rfl, by decide, by decide⟩, ⟨_, rfl, by decide, by decide⟩⟩

/-- A command of strand 0, `n` words of it pushed, in a state of its own; records of queue `q` that wait to be popped. -/
def command (cid queue : Nat) (ws : List QWord) (x : CmdState) : Cmd :=
  { cid := cid, sid := 0, tid := 0, queue := queue, core := 0, words := ws, asid := 1, world := 1, solo := false, launch := 1, ranks := [0]
    seq := 0, after := [], lfence := 0, tile := none, acc := [], mark := none, malformed := false, state := x, accWrites := []
    peers := [], replies := [], part := [] }
def recordsOf (q n : Nat) (ws : List Write) : List QRecord :=
  (List.range n).map fun i => { queue := q, word := 0, accWrites := ws, cid := i }
def queueMachine (partials : Sparse (List QWord)) (records : List QRecord) : State :=
  machine [] fun st => { st with partials := partials, records := records }
theorem witness_QueuesPush : (∃ c, ctxOf (queueMachine [] []) = some c ∧ barred (queueMachine [] []) c = false ∧ (0 : BitVec 3) ∈ [0, 2, 4, 6] ∧
      (grown c 0 (.s 0)).length < commandWords 0) ∧
    (∃ c, ctxOf (queueMachine [(1, [.s 0])] (recordsOf 3 7 [])) = some c ∧ commandWords 2 ≤ (grown c 2 (.s 0)).length ∧
      outstandingOf (queueMachine [(1, [.s 0])] (recordsOf 3 7 [])) c 2 < 8) ∧
    (∃ c, ctxOf (queueMachine [(1, [.s 0])] (recordsOf 3 8 [])) = some c ∧ commandWords 2 ≤ (grown c 2 (.s 0)).length ∧
      8 ≤ outstandingOf (queueMachine [(1, [.s 0])] (recordsOf 3 8 [])) c 2 ∧ markerTaken c) ∧
    (∃ c, ctxOf kernelMachine = some c ∧ c.kernel = true) :=
  ⟨⟨_, rfl, by decide, by decide, by decide⟩, ⟨_, rfl, by decide, by decide⟩, ⟨_, rfl, by decide, by decide, by decide⟩, ⟨_, rfl, by decide⟩⟩
theorem witness_QueuesPop : (∃ c x, ctxOf (queueMachine [] (recordsOf 5 1 [])) = some c ∧ barred (queueMachine [] (recordsOf 5 1 [])) c = false ∧ (5 : BitVec 3) ∈ [1, 3, 5, 7] ∧
      (c.st.records.find? fun r => r.queue == (5 : BitVec 3).toNat) = some x ∧ x.accWrites = []) ∧
    (∃ c x, ctxOf (queueMachine [] (recordsOf 3 1 [.acc 0 255 1])) = some c ∧ (c.st.records.find? fun r => r.queue == 3) = some x ∧
      x.accWrites = [.acc 0 255 1] ∧ swf 0 c.tm.accs = true) ∧
    (∃ c, ctxOf demo = some c ∧ (c.st.records.find? fun r => r.queue == 1) = none ∧ markerTaken c) :=
  ⟨⟨_, _, rfl, by decide, by decide, rfl, by decide⟩, ⟨_, _, rfl, rfl, by decide, by decide⟩, ⟨_, rfl, by decide, by decide⟩⟩

/-- A path behind its fence, with nothing before it left to do but an access to another package. -/
def fencedMachine : State :=
  let s := machine [] fun st => { st with paths := st.paths.map fun p => { p with fence := some (5, 9) } }
  { s with mem := { s.mem with events := [{ pending .store 0 4 [] none with locs := [(.remote 1 0, 4)] }] } }
theorem witness_FencesOrderTheStrand : (∃ c, ctxOf demo = some c ∧ barred demo c = false ∧ c.tm.exposed = false ∧ c.tm.staged = []) ∧
    (5 : BitVec 8) ≠ 0 ∧ (5 : BitVec 8) &&& 0xAA = 0 ∧ (5 : BitVec 8).getLsbD 6 = false ∧
    ∃ st p, strandOf fencedMachine 0 = some st ∧ st.path? 0 = some p ∧ p.fence = some (5, 9) ∧
      (∀ e ∈ fencedMachine.mem.events, e.id < 9 → (5 : BitVec 3) ≠ 6 ∧ e.isRemote = true) ∧
      ∀ x ∈ fencedMachine.eng.cmds, x.seq < 9 → cmdPending fencedMachine x = false :=
  ⟨⟨_, rfl, by decide, by decide, by decide⟩, by decide, by decide, by decide, ⟨_, _, rfl, rfl, by decide, by decide, by decide⟩⟩

/-! ### Spawning, seams, gates and the network queue -/

/-- The launch of the demonstration machine, changed. -/
def withLaunch (s : State) (f : Launch → Launch) : State := { s with front := { s.front with launches := s.front.launches.map f } }
def spawnKey : TeamKey := { kind := 0, x := 5, y := 0, z := 16, stage := 0 }
def compensationMachine : State := { demo with teams := demo.teams.map fun tm => { tm with role := .compensation 7 2 3 2 } }
theorem witness_TeamsSpawnAndSignal : (∃ c l, inLaunch demo c ∧ launchOf demo c.tm.launch = some l ∧ l.state = .live ∧
      pathQuiet (exposedFor demo c) c = true ∧ c.tm.role = .field ∧ namedKey (c.st.getS 1) (c.st.getS 2) = spawnKey ∧
      (l.kinds.contains 0 && ((l.slots.find? fun k => k.kind == 0).map fun k => decide (0 < k.stages)).getD false) = true ∧
      spawnKey ∉ l.created ∧ (c.tm.key, true) ∉ l.events) ∧
    (∃ l, launchOf (withLaunch demo fun l => { l with created := [spawnKey], events := [((newTeam 0 0 ⟨0, 0, 0, 0, 0⟩ .field placedDesc 0 0 nullCap 0).key, true)] }) 1 =
      some l ∧ spawnKey ∈ l.created ∧ (⟨0, 0, 0, 0, 0⟩, true) ∈ l.events) ∧
    (∃ l, launchOf (withLaunch demo fun l => { l with state := .flushing, kinds := [] }) 1 = some l ∧ l.state ≠ .live ∧ l.kinds.contains 0 = false) ∧
    ∃ c, inLaunch compensationMachine c ∧ c.tm.role.compensates = true :=
  ⟨⟨_, _, ⟨rfl, by decide, by decide⟩, rfl, by decide, by decide, by decide, by decide, by decide, by decide, by decide⟩,
    ⟨_, rfl, by decide, by decide⟩, ⟨_, rfl, by decide, by decide⟩, _, ⟨rfl, by decide, by decide⟩, by decide⟩

/-- A package whose seam table holds one activity of world 1, named in s3, with its compensation capability in k2. -/
def anActivity (x : SeamState) (owner steps snag : Nat) : SeamEntry :=
  { index := 7, gen := 2, state := x, world := 1, owner := owner, runner := 1, asid := 1, frames := [], steps := steps, links := []
    snag := snag }
def compCap : Cap := (mintCap 0x10000 0x10000 0x88 1 0).withSeal 3
def seamMachine (as : List SeamEntry) : State :=
  let s := machine [] fun st => { st with s := [(3, 0x100020007), (4, 0x100030008)], k := [(1, bufCap 0), (2, compCap)] }
  { s with seams := { s.seams with entries := as } }
theorem witness_SeamsKeepTheirActivities : ∀ a ∈ [anActivity .open 1 255 0, anActivity .open 9 0 0, anActivity .open 1 256 0,
      anActivity .snagged 1 0 3, anActivity .unpicking 1 0 0],
    ∃ c, inLaunch (seamMachine [a]) c ∧ (∀ st ∈ (seamMachine [a]).strands, st.sid = c.st.sid → st.stepping = none) ∧
      activity (seamMachine [a]) c (c.st.getS 3) = some a ∧ activity (seamMachine [a]) c (c.st.getS 5) = none ∧
      pathQuiet (exposedFor (seamMachine [a]) c) c = true ∧ (c.st.getK 2).tag = true ∧ (c.st.getK 2).seal = 3 ∧
      (c.st.getK 2).perms.getLsbD 3 = true ∧ (∀ y ∈ (seamMachine [a]).seams.entries, y.index = a.index → y = a) ∧ (∀ f ∈ a.frames, f.seq ≤ (seamMachine [a]).seams.seq) ∧
      stepInProgress (exposedFor (seamMachine [a]) c) a = false := by
  intro a h
  simp only [List.mem_cons, List.not_mem_nil, or_false] at h
  rcases h with rfl | rfl | rfl | rfl | rfl <;>
    exact ⟨_, ⟨rfl, by decide, by decide⟩, by decide, by decide, by decide, by decide, by decide, by decide, by decide, by decide, by decide, by decide⟩
theorem witness_SeamLinks : ∃ c x y, inLaunch (seamMachine [anActivity .open 1 0 0, { anActivity .open 1 0 0 with index := 8, gen := 3 }]) c ∧
    activity (seamMachine [anActivity .open 1 0 0, { anActivity .open 1 0 0 with index := 8, gen := 3 }]) c (c.st.getS 3) = some x ∧
    activity (seamMachine [anActivity .open 1 0 0, { anActivity .open 1 0 0 with index := 8, gen := 3 }]) c (c.st.getS 4) = some y ∧
    x.owner = c.tm.launch ∧ x.state = .open ∧ x.links.length < 4 ∧ y.links = [] ∧ (x.index, x.gen) ≠ (y.index, y.gen) :=
  ⟨_, _, _, ⟨rfl, by decide, by decide⟩, rfl, rfl, by decide, by decide, by decide, by decide, by decide⟩
theorem inLaunch_seamMachine (as : List SeamEntry) : ∃ c, inLaunch (seamMachine as) c := ⟨_, rfl, rfl, rfl⟩
theorem witness_SeamsFull : ∃ as, (∃ c, inLaunch (seamMachine as) c) ∧ 65536 ≤ (seamMachine as).seams.entries.length :=
  ⟨List.replicate 65536 (anActivity .open 1 0 0), inLaunch_seamMachine _, Nat.le_of_eq (List.length_replicate ..).symm⟩

/-- A gate record at 0x10100, its gate in k2, and the page that it passes in k3. -/
def gateBytes : List Byte := (mintCap 0x10000 0x10000 0x88 1 0).toBytes ++ [1, 2, 0xFF] ++ bytesOfNat 5 0 ++ bytesOfNat 8 0x10000
def gateMachine (gates : List GateRec) : State :=
  let s := machine [] fun st => { st with k := [(2, (mintCap 0x10100 32 0x02 1 0).withSeal 2), (3, mintCap 0x10000 0x10000 0xC0 1 0)], gates := gates }
  { s with mem := { s.mem with cells := cellPuts s.mem.cells 0x100100 gateBytes, tags := [0x10010] } }
def oneGate : GateRec := ⟨2, 1, 0x10000, 0x10000, 0x10004, nullCap⟩
set_option maxRecDepth 100000 in
theorem witness_GatesPassPages : (∃ c r l, inLaunch (gateMachine []) c ∧ (c.st.getK 2).tag = true ∧ (c.st.getK 2).seal = 2 ∧
      (c.st.getK 2).perms.getLsbD 1 = true ∧ gateRecord (exposedFor (gateMachine []) c) c.tm.asid (c.st.getK 2).addr = some r ∧
      (c.st.getK 3).tag = true ∧ (c.st.getK 3).seal = 0 ∧ (c.st.getK 3).colour = r.fromC ∧ (c.st.getK 3).region = (0x10000, 0x20000) ∧
      0x10000 ≤ r.length ∧ pageLeaf (exposedFor (gateMachine []) c) c.tm.asid 1 = some l ∧ l.1.units = 1 ∧ l.1.colour = r.fromC ∧
      c.st.gates = [] ∧ pathQuiet (exposedFor (gateMachine []) c) c = true ∧
      rangeQuiet (exposedFor (gateMachine []) c) ⟨false, c.tm.asid, 1, 2⟩ = true) ∧
    (∃ c l, inLaunch (gateMachine [oneGate, oneGate, oneGate, oneGate]) c ∧ 4 ≤ c.st.gates.length ∧
      pathQuiet (exposedFor (gateMachine [oneGate, oneGate, oneGate, oneGate]) c) c = true ∧
      pageLeaf (exposedFor (gateMachine [oneGate, oneGate, oneGate, oneGate]) c) c.tm.asid 1 = some l ∧ l.1.units = 1 ∧
      l.1.colour = oneGate.toC) ∧
    (∃ c, inLaunch demo c ∧ gateRecord (exposedFor demo c) c.tm.asid (c.st.getK 2).addr = none) :=
  ⟨⟨_, _, _, ⟨rfl, by decide, by decide⟩, by decide, by decide, by decide, rfl, by decide, by decide, by decide, by decide, by decide, rfl,
      by decide, by decide, by decide, by decide, by decide⟩,
    ⟨_, _, ⟨rfl, by decide, by decide⟩, by decide, by decide, rfl, by decide, by decide⟩, ⟨_, ⟨rfl, by decide, by decide⟩, by decide⟩⟩

theorem witness_NetInstructionsUseTheirQueue : (∃ c, ctxOf (queueMachine [] (recordsOf 5 7 [])) = some c ∧
      barred (queueMachine [] (recordsOf 5 7 [])) c = false ∧ outstandingOf (queueMachine [] (recordsOf 5 7 [])) c 4 < 8 ∧
      (∀ x ∈ (queueMachine [] (recordsOf 5 7 [])).eng.cmds, x.sid = c.st.sid → x.queue ≠ 4) ∧
      ∀ x ∈ (c.st.records.filter fun r => r.queue == 5), x.accWrites = []) ∧
    (∃ c, ctxOf (queueMachine [] (recordsOf 5 8 [])) = some c ∧ 8 ≤ outstandingOf (queueMachine [] (recordsOf 5 8 [])) c 4 ∧ markerTaken c) ∧
    (∃ c, ctxOf { demo with eng := { demo.eng with cmds := [command 0 4 [] .queued] } } = some c ∧ markerTaken c ∧
      ∃ x ∈ [command 0 4 [] .queued], x.sid = c.st.sid ∧ x.queue = 4) :=
  ⟨⟨_, rfl, by decide, by decide, by decide, by decide⟩, ⟨_, rfl, by decide, by decide⟩, ⟨_, rfl, by decide, by decide⟩⟩

/-! ### Privileged instructions -/

/-- The demonstration machine in solo mode with `s` in its uniform registers and `k2` a capability of all permissions. -/
def alone (s : Sparse DWord) : State := machine [(1, 7)] fun st => { st with
  s := s, k := [(2, mintCap 0x10000 0x10000 0xFF 1 0)], paths := st.paths.map fun p => { p with solo := true } }

theorem witness_ControlRegisters : (∃ c, Claims.alone (alone [(1, 0)]) c) ∧
    (∀ x ∈ ([0x7F00000028, 0xFF0000000028, 0x10000002800000000, 0x1022800000000] : List DWord), ∃ c, Claims.alone (alone [(1, x)]) c) ∧
    causeWritten 0 0x28 0 0x8020FFFF00000001 nullCap noCause ≠ none ∧ causeWritten 255 0x7F 0 0x81200001000001FF nullCap noCause ≠ none ∧
    causeWritten 0 0x3F 0 0x8201000100000001 nullCap noCause ≠ none ∧ causeWritten 0 0x3F 0 0x8001000100000001 nullCap noCause = none ∧
    causeWritten 1 0x28 0 0x8001000100000002 nullCap noCause = none ∧ causeWritten 0 0x28 1 0 (bufCap 0) noCause = none ∧
    causeWritten 0 0x28 1 0 (mintCap 0x10000 16 0x08 1 0) noCause ≠ none ∧ causeWritten 0 0x28 2 0 nullCap noCause ≠ none ∧
    causeWritten 0 0x28 3 0 nullCap noCause = none ∧ causeWritten 0 0 0 0x8001000100000001 nullCap noCause = none ∧
    swf noCause (alone []).traps.causeTable = true :=
  ⟨⟨_, rfl, rfl, rfl⟩, fun x _ => ⟨_, rfl, rfl, rfl⟩, by decide, by decide, by decide, by decide, by decide, by decide, by decide,
    by decide, by decide, by decide, by decide⟩

/-- An access that used the page's translation and is not performed. -/
def usingPage : State :=
  let s := alone [(1, 1), (2, 0x10000), (3, 0x10000)]
  { s with mem := { s.mem with events := [{ pending .store 0 4 [0, 0, 0, 0] none with
      va := 0x10004, asid := 1, locs := [(.phys 0x100004 0, 4)] }] } }
theorem witness_TranslationsAreDropped : (∃ c, Claims.alone (alone [(1, 1), (2, 0x10000), (3, 0x10000)]) c ∧
      rangeQuiet (alone [(1, 1), (2, 0x10000), (3, 0x10000)]) (rangeNamed 1 0x10000 0x10000) = true) ∧
    (∃ c, Claims.alone usingPage c ∧ rangeQuiet usingPage (rangeNamed 1 0x10000 0x10000) = false) ∧
    rangeCause true 1 0x10000 0x10000 = none ∧ rangeCause true 1 0x1FFFFFFFFFF0000 0x10000 = none ∧
    rangeCause true 0x20001 5 5 = none ∧ rangeCause false 0x10000 0 0x10000 = none ∧ rangeCause true 0x10000 0 0x10000 = some 1 ∧
    rangeCause false 0x40000 0 0x10000 = some 1 ∧ rangeCause false 1 0x8000 0x10000 = some 8 ∧ rangeCause false 1 0 0 = some 3 ∧
    rangeCause false 1 0x200000000000000 0x10000 = some 3 ∧
    (0x1000 % 16 = 0 ∧ (∀ x ∈ demo.mem.redEntries, x.line ≠ 0x1000 / 64) ∧ tierAt 0x1000 = some 0 ∧ Memory.wf demo.mem.cells = true) :=
  ⟨⟨_, ⟨rfl, rfl, rfl⟩, by decide⟩, ⟨_, ⟨rfl, rfl, rfl⟩, by decide⟩, by decide, by decide, by decide, by decide, by decide, by decide,
    by decide, by decide, by decide, by decide⟩

/-- Slots: 1 holds a wrapping key, 2 a storage key, 3 a key that a pending store to tier 1 used. -/
def keyMachine (s : Sparse DWord) (f : Trust → Trust) : State :=
  let m := alone s
  { m with
    trust := f { m.trust with keys := m.trust.keys ++ [(1, { noKey with state := 1, world := 1, use := 1, key := 5 }), (2, { noKey with state := 1, world := 1 }),
      (3, { noKey with state := 1, world := 1 })] }
    mem := { m.mem with events := [{ pending .store 0 4 [0, 0, 0, 0] none with locs := [(.phys (3 * 2 ^ 39) 3, 4)] }] } }
/-- A key of slot 4 under slot 1's key; whether it unwraps is an opaque value of Config. -/
theorem witness_KeysLoad : ∀ ctl ∈ ([0x10000010004, 0x10000010000, 0x10000020004] : List DWord),
    ∃ c, Claims.alone (keyMachine [(1, ctl)] id) c ∧
      ((checkAccess (keyMachine [(1, ctl)] id) (c.who (keyMachine [(1, ctl)] id) ((c.ranks (keyMachine [(1, ctl)] id)).headD 0))
        (soloAccess c 2 .load 40 8 0x80)).2.toOption.isSome) := by
  intro ctl h
  simp only [List.mem_cons, List.not_mem_nil, or_false] at h
  rcases h with rfl | rfl | rfl <;> exact ⟨_, ⟨rfl, rfl, rfl⟩, by decide⟩
theorem witness_KeysKill : (∃ c, Claims.alone (keyMachine [(1, 0), (2, 2), (3, 3)] id) c) ∧
    (keySlot (keyMachine [] id) 2).state = 1 ∧ slotPending (drainSlot (keyMachine [] id) 2) 2 = false ∧ swf noKey (keyMachine [] id).trust.keys = true ∧
    swf 0 (keyMachine [] id).trust.meas = true ∧ (keySlot (keyMachine [] id) 3).state = 1 ∧ slotPending (drainSlot (keyMachine [] id) 3) 3 = true :=
  ⟨⟨_, rfl, rfl, rfl⟩, by decide, by decide, by decide, by decide, by decide, by decide⟩
/-- The same with a page of data at 0x20000, which k2 names. -/
def quoting (f : Trust → Trust) : State :=
  let s := alone []
  let s := (mapPage s { placedRegion with base := 0x20000, perms := sectPte .data } 2).getD s
  { s with trust := f s.trust, strands := s.strands.map fun st => { st with k := [(2, mintCap 0x20000 0x10000 0xFF 1 0)] } }
theorem witness_Quotes : ∀ f ∈ [id, fun t : Trust => { t with sigIndex := 33554432 }, fun t : Trust => { t with unlocking := true }],
    ∃ c, Claims.alone (quoting f) c ∧ ((checkAccess (quoting f) (c.who (quoting f) ((c.ranks (quoting f)).headD 0))
        (soloAccess c 2 .load 5560 64 0xC0)).2.toOption.isSome) ∧
      (checkAccess (quoting f) (c.who (quoting f) ((c.ranks (quoting f)).headD 0))
        (soloAccess c 2 .store 5560 64 0xC0)).2.toOption = some [(.phys 0x110000 0, 5560)] ∧
      0x110000 % 64 = 0 ∧ tierAt 0x110000 = some 0 ∧ (quoting f).mem.redEntries = [] ∧ Memory.wf (quoting f).mem.cells = true := by
  intro f h
  simp only [List.mem_cons, List.not_mem_nil, or_false] at h
  rcases h with rfl | rfl | rfl <;>
    exact ⟨_, ⟨rfl, rfl, rfl⟩, by decide, by decide, by decide, by decide, by decide, by decide⟩

/-! ### Commits, handlers and absent threads -/

/-- A strand with two results of v3, the older of lane 0 alone, at a marker; with poison; with a wait outstanding. -/
def result (n : Nat) (returned : Bool) (poison : Option (BitVec 12)) : RBEntry :=
  { id := n, pc := 0x10000, word := 0x8E000000, rep := 0, lanes := [{ rank := 0, writes := [.v 3 (BitVec.ofNat 32 n)], pending := false, addr := 0, poison := none, asid := none }]
    strand := [], returned := returned, poison := poison }
def committing (m : Option Marker) (rb : List RBEntry) : State := machine [] fun st => { st with commit := m, rb := rb }
def clean : List RBEntry := [result 1 true none, result 2 true none]
theorem witness_Commits : (∃ st tm, strandOf (committing (some .explicit) clean) 0 = some st ∧ teamOf (committing (some .explicit) clean) 0 = some tm ∧
      st.serves = false ∧ allReturned st ∧ cleanRb st ∧ (∀ e ∈ st.rb, e.strand = []) ∧ st.commit = some .explicit) ∧
    (∀ b : Bool, ∃ st, strandOf (committing (some (.implicit b)) clean) 0 = some st ∧ allReturned st ∧ st.commit = some (.implicit b)) ∧
    (∃ st, strandOf (committing (some .explicit) [result 1 false none]) 0 = some st ∧ ¬ allReturned st) ∧
    (∃ st tm e es prov, strandOf (committing (some .explicit) [result 1 true (some 0x123)]) 0 = some st ∧
      teamOf (committing (some .explicit) [result 1 true (some 0x123)]) 0 = some tm ∧ allReturned st ∧ st.commit = some .explicit ∧
      tm.exposed = false ∧ tm.rollbacks ≠ 3 ∧ st.rb = e :: es ∧ e.poison = some prov) :=
  ⟨⟨_, _, rfl, rfl, by decide, by decide, by decide, by decide, by decide⟩, fun b => ⟨_, rfl, by cases b <;> decide, rfl⟩,
    ⟨_, rfl, by decide⟩, ⟨_, _, _, _, _, rfl, rfl, by decide, by decide, by decide, by decide, rfl, rfl⟩⟩

/-- A team that rolls back to a checkpoint, with nothing logged or with one buffer line, and with a copy still to end. -/
def rolling (undo : List UndoLine) (cmds : List Cmd) : State :=
  { demo with
    teams := demo.teams.map fun tm => { tm with
      rolling := some 0x123, undo := undo
      shadow := some { strands := demo.strands, threads := demo.threads, tiles := [], accs := [(0, 5)], tilePoison := [], accPoison := [], cmd := 0, ev := 0 } }
    eng := { demo.eng with cmds := cmds } }
def undoLine : UndoLine := { weight := false, line := 1, bytes := List.replicate 64 9, fe := [], poison := [] }
theorem witness_Rollbacks : (∀ undo ∈ [[], [undoLine]], ∃ tm sh, teamOf (rolling undo []) 0 = some tm ∧ tm.rolling = some 0x123 ∧
      tm.shadow = some sh ∧ (∀ x ∈ (rolling undo []).eng.cmds, x.tid = tm.tid → sh.cmd ≤ x.cid → x.queue = 0 ∨ x.queue = 2 → cmdPending (rolling undo []) x = false) ∧
      tm.undo = undo ∧ (∀ x ∈ undo, x.weight = false ∧ x.bytes.length = 64) ∧ swf 0 tm.act = true) ∧
    (∃ tm sh, teamOf (rolling [] [command 0 0 [] .queued]) 0 = some tm ∧ tm.rolling = some 0x123 ∧ tm.shadow = some sh ∧
      ∃ x ∈ (rolling [] [command 0 0 [] .queued]).eng.cmds, x.tid = tm.tid ∧ sh.cmd ≤ x.cid ∧ (x.queue = 0 ∨ x.queue = 2) ∧
        cmdPending (rolling [] [command 0 0 [] .queued]) x = true) := by
  refine ⟨?_, _, _, rfl, rfl, rfl, command 0 0 [] .queued, by decide, by decide, by decide, by decide, by decide⟩
  intro undo h
  simp only [List.mem_cons, List.not_mem_nil, or_false] at h
  rcases h with rfl | rfl <;> exact ⟨_, _, rfl, rfl, rfl, by decide, rfl, by decide, by decide⟩

/-- Entries of cause 0x28 that wait, the clock, and the groups formed. -/
def waitingEntries (clock : DWord) (es : List Entry) (gs : List Group) : State :=
  { trapped with run := { trapped.run with clock := clock }, traps := { trapped.traps with pillow := es, groups := gs } }
def filedEntries : List Entry := [anEntry 0, { anEntry 1 with subject := .thread 0 1 }, anEntry 2, anEntry 3]
def aGroup : Group := ⟨0, 1, 0x28, 0, [0, 1]⟩
def groupedEntries : List Entry := [{ anEntry 0 with state := .grouped 0 }, { anEntry 1 with state := .grouped 0, subject := .thread 0 1 }]
def filedKey : Nat := groupKey (handles 0) (anEntry 0)
theorem witness_HandlersGather : groupReady (waitingEntries 0 filedEntries []) 1 0x28 filedKey = true ∧
    groupReady (waitingEntries 100 [anEntry 0] []) 1 0x28 filedKey = true ∧
    (∀ e ∈ waiting (waitingEntries 99 [anEntry 0] []) 1 0x28 filedKey, (99 : DWord).toNat < e.stamp + (handles 0).timeout.toNat) ∧
    (waiting (waitingEntries 99 [anEntry 0] []) 1 0x28 filedKey).length = 1 := by decide
theorem witness_HandlersStart : ∃ slot, (((waitingEntries 0 groupedEntries [aGroup]).traps.groups.find? fun x => x.gid == aGroup.gid) = some aGroup) ∧
    groupEntries (waitingEntries 0 groupedEntries [aGroup]) aGroup ≠ [] ∧ freeSlot (waitingEntries 0 groupedEntries [aGroup]) 0 = some slot ∧
    placeReady (waitingEntries 0 groupedEntries [aGroup]) aGroup = true ∧
    (∀ x ∈ (waitingEntries 0 groupedEntries [aGroup]).threads, x.tid < (waitingEntries 0 groupedEntries [aGroup]).run.nextTid) ∧
    (∀ x ∈ (waitingEntries 0 groupedEntries [aGroup]).teams, x.tid < (waitingEntries 0 groupedEntries [aGroup]).run.nextTid) :=
  ⟨_, by decide, by decide, rfl, by decide, by decide, by decide⟩
set_option maxRecDepth 100000 in
theorem witness_HandlersStartCore : (groupCores (waitingEntries 0 groupedEntries [aGroup]) aGroup).contains 0 = true := by decide
theorem witness_Unpark : ∃ st e, strandOf parkedStrand 0 = some st ∧ st.parked = [e] ∧ st.passes e = false ∧
    shareHasRoom parkedStrand e.die e.cause := ⟨_, _, rfl, rfl, by decide, by decide⟩
/-- An entry filed again, whose old one stands or has been withdrawn. -/
def passedOn (pillow : List Entry) : State :=
  { passing [{ anEntry 0 with cause := 0x29 }] with traps := { (passing []).traps with pillow := pillow } }
theorem witness_UnparkPassed : ∀ es ∈ [[], [anEntry 0]], ∃ st e, strandOf (passedOn es) 1 = some st ∧ st.parked = [e] ∧ st.passes e = true ∧
    shareHasRoom { passedOn es with traps := { (passedOn es).traps with pillow := (passedOn es).traps.pillow.filter fun x => x.eid != e.eid } } e.die e.cause ∧
    ((∃ x ∈ (passedOn es).traps.pillow, x.eid = e.eid) ↔ es ≠ []) := by
  intro es h
  simp only [List.mem_cons, List.not_mem_nil, or_false] at h
  rcases h with rfl | rfl <;> exact ⟨_, _, rfl, rfl, by decide, by decide, by decide⟩
/-- An orphan that found no entry, with cause 0x40 served. -/
def anOrphan : Orphan :=
  { launch := 1, x := 0, y := 0, z := 0, rank := 0, source := 1, cap := nullCap, operand := 7, op := 0, addr := 0x10000, world := 1
    serial := 4, pc := 0x10000, word := 0, cause := 3 }
def holdingOrphan : State :=
  let s := withCause demo 0 0x40 2
  { s with traps := { s.traps with heldOrphans := [anOrphan] } }
theorem witness_Orphans : holdingOrphan.traps.heldOrphans[0]? = some anOrphan ∧ (causeEntry holdingOrphan 0 0x40).valid = true ∧
    shareHasRoom holdingOrphan 0 0x40 := by decide

/-- A frame of threads 0 and 1 in which thread 0 has arrived and thread 1 is filed, its clock started at 0. -/
def clockMachine (len : Nat) (now : DWord) : State :=
  let s := machine [] fun st => { st with
    frames := [(9, { expected := 3, arrived := 1, joinpc := some 0x10020, parent := none, depth := 1, code := nullCap, clock := some ⟨0, len⟩
                     lapsed := 0 })] }
  { s with run := { s.run with clock := now }, threads := [thread 0 [], { thread 1 [] with status := .filed 0 }] }
theorem witness_AbsenceExpires : ∀ x ∈ ([(0, 5), (100, 99), (100, 100)] : List (Nat × DWord)), ∃ st f k pc,
    strandOf (clockMachine x.1 x.2) 0 = some st ∧ st.frames = [(9, f)] ∧ f.clock = some k ∧ k = ⟨0, x.1⟩ ∧
      clocksRun (clockMachine x.1 x.2) st = true ∧ st.rootJoin = none ∧ f.parent ≠ some 9 ∧ f.joinpc = some pc ∧ f.arrived ≠ 0 ∧
      f.expected &&& ~~~(f.arrived ||| absentSlots (clockMachine x.1 x.2) st) = 0 := by
  intro x h
  simp only [List.mem_cons, List.not_mem_nil, or_false] at h
  rcases h with rfl | rfl | rfl <;>
    exact ⟨_, _, _, _, rfl, rfl, rfl, rfl, by decide, by decide, by decide, rfl, by decide, by decide⟩

/-- Thread 1 waits for a slot; the home strand takes all sixteen of the core's slots where `full`. -/
def stragglerMachine (full : Bool) : State :=
  { demo with
    threads := [thread 0 [], { thread 1 [] with status := .waitingSlot 0x10020 nullCap }]
    strands := demo.strands ++ (if full then (List.range 15).map fun i => startStrand (i + 1) 0 (i + 1) 0 (i + 1) .home 1 nullCap [] else []) }
theorem witness_StragglersStart : (∃ home st tm slot, threadOf (stragglerMachine false) 0 1 = some { thread 1 [] with status := .waitingSlot 0x10020 nullCap } ∧
      homeStrand? (stragglerMachine false) 0 1 = some home ∧ (strandOf (stragglerMachine false) 0).or (some home) = some st ∧
      teamOf (stragglerMachine false) 0 = some tm ∧ tm.place.isSome = true ∧ freeSlot (stragglerMachine false) st.core = some slot) ∧
    (∃ home st, homeStrand? (stragglerMachine true) 0 1 = some home ∧ (strandOf (stragglerMachine true) 0).or (some home) = some st ∧
      freeSlot (stragglerMachine true) st.core = none) :=
  ⟨⟨_, _, _, _, by decide, rfl, rfl, rfl, by decide, rfl⟩, _, _, rfl, rfl, by decide⟩

/-- Thread 0 stands in a fresh strand, which waits at its matching join, with a command outstanding or without. -/
def freshHome (cmds : List Cmd) : State :=
  let st := startStrand 1 0 1 0 1 (.fresh []) 1 nullCap []
  { demo with
    threads := [{ thread 0 [] with sid := 1 }, thread 1 []]
    strands := demo.strands ++ [{ st with paths := st.paths.map fun p => { p with state := .waiting .freshReturn 0 } }]
    eng := { demo.eng with cmds := cmds } }
theorem witness_FreshStrandsReturn : (∃ st p, strandOf (freshHome []) 1 = some st ∧ st.kind = .fresh [] ∧ st.sid ∉ ([] : List Nat) ∧ st.paths = [p] ∧
      p.state = .waiting .freshReturn 0 ∧ (∀ t ∈ (freshHome []).threads, t.sid = 1 → t.status ≠ .exited → t ∈ presentOf (freshHome []) 1 p) ∧
      (∀ t ∈ presentOf (freshHome []) 1 p, t.tid = st.tid ∧ (homeStrand? (freshHome []) t.tid t.rank).map (·.sid) = some 0 ∧ st.sid ≠ 0) ∧
      presentOf (freshHome []) 1 p ≠ [] ∧ ∀ x ∈ (freshHome []).eng.cmds, x.sid ≠ 1) ∧
    (∃ st p, strandOf (freshHome [{ command 0 0 [] .queued with sid := 1 }]) 1 = some st ∧ st.kind = .fresh [] ∧ st.paths = [p] ∧
      p.state = .waiting .freshReturn 0 ∧ ∃ x ∈ [{ command 0 0 [] .queued with sid := 1 }], x.sid = 1) :=
  ⟨⟨_, _, rfl, rfl, List.not_mem_nil, rfl, rfl, by decide, by decide, by decide, by decide⟩, _, _, rfl, rfl, rfl, rfl, _, List.mem_singleton.mpr rfl, rfl⟩

/-! ### Engines -/

/-- One command, or several, in the demonstration machine. -/
def engaged (cmds : List Cmd) : State := { demo with eng := { demo.eng with cmds := cmds } }
/-- A copy of `rows` rows of `n` bytes, 64 bytes apart, from `src` to `dst`, with the flags `fl`. -/
def aCopy (src dst : Cap) (n rows : Nat) (fl : DWord) (x : CmdState) : Cmd :=
  command 1 0 [.k src, .k dst, .s (BitVec.ofNat 64 (n + rows * 2 ^ 12 + 64 * 2 ^ 24 + 64 * 2 ^ 44)), .s fl] x
def actCap : Cap := mintCap 0x8000000000000000 4096 0xF4 1 0
def bothCap : Cap := mintCap 0x10000 0x10000 0xF4 1 0
/-- A team of the launch on core 1, with a buffer of `act` bytes. -/
def besides (act : Nat) (cmds : List Cmd) : State :=
  let s := engaged cmds
  { s with teams := s.teams ++ s.teams.map fun tm =>
      { tm with tid := 1, place := some 1, name := some 1, desc := { tm.desc with act := act } } }
/-- A copy whose shape stands in record `n` of the launch's layout table, which lies at 0x10000. -/
def tabled (n : Nat) : Cmd := command 1 0 [.k bothCap, .k actCap, .s (BitVec.ofNat 64 n), .s 0x40000] .queued
def tableMachine (f : State → State) : State :=
  f (withLaunch (engaged [tabled 0]) fun l => { l with layoutTable := 0x10000, layoutCount := 1 })
def tablePlaced (f : State → State) : State := (tablePlace (tableMachine f) (tabled 0) 0).1
/-- What the layout cache then gives: the poison, and whether the record lies in its table. -/
def tableGives (f : State → State) : State × Option Got := layoutRead (tablePlaced f) streamCtx.tm 0 0 0 (.phys 0x100000 0)
def poisoned (s : State) : State := { s with mem := { s.mem with poison := [(0x4000, some 0x123)] } }
set_option maxRecDepth 100000 in
theorem witness_CopiesAreTaken : (∀ x ∈ [aCopy bothCap actCap 20 2 0 .queued, aCopy bothCap actCap 0 2 0 .queued, aCopy bothCap actCap 20 2 0x100000 .queued,
      aCopy bothCap bothCap 20 2 0x4000 .queued, aCopy bothCap actCap 20 2 0x3C000 .queued, aCopy bothCap actCap 20 2 0x4000 .queued,
      aCopy nullCap actCap 20 2 0 .queued, aCopy bothCap nullCap 20 2 0 .queued, tabled 1], cmdOf (engaged [x]) x.cid = some x ∧
        x.queue = 0 ∧ x.state = .queued ∧ x.malformed = false ∧ takeReady (engaged [x]) x = true ∧ mayCopy (engaged [x]) x = true) ∧
    (∀ x y n r fl, copyWordsOk (aCopy x y n r fl .queued)) ∧ copyWordsOk (tabled 1) ∧
    (∃ s c x, cmdOf s c.cid = some c ∧ c.queue = 0 ∧ c.state = .queued ∧ x ∈ s.eng.cmds ∧ x.cid ≠ c.cid ∧ x.state.pending = true ∧
      sget 0 s.eng.copyTurn (c.cluster s) = x.cid + 1) ∧
    takeReady (engaged [command 0 0 [] .queued, aCopy bothCap actCap 20 2 0 .queued]) (aCopy bothCap actCap 20 2 0 .queued) = false ∧
    copyTo (engaged [aCopy bothCap actCap 20 2 0 .queued]) (aCopy bothCap actCap 20 2 0 .queued) [] ∧
    copyTo (besides 64 [aCopy bothCap actCap 20 2 0x8000 .queued]) (aCopy bothCap actCap 20 2 0x8000 .queued) [1] ∧
    (∀ act ∈ ([64, 128] : List Nat), mayCopy (besides act [aCopy bothCap actCap 20 2 0x8000 .queued]) (aCopy bothCap actCap 20 2 0x8000 .queued) = true) ∧
    (teamOf (besides 64 []) 1).map actBytes = some 64 ∧ (teamOf (besides 128 []) 1).map actBytes = some 128 ∧
    copySpan ((aCopy bothCap actCap 20 2 0 .queued).sWord 2) true = 84 ∧ copyRowBytes ((aCopy bothCap actCap 0 2 0 .queued).sWord 2) = 0 ∧
    (∀ tm ∈ demo.teams, ∃ n, n < 4 ∧ (15 : Nat).testBit n = true ∧ peerOn demo tm 0 n = none) ∧
    rangeStatus nullCap 84 0x84 = some 1 ∧ (rangeStatus nullCap 84 0x44 = some 1) ∧
    rangeCheck demo (aCopy bothCap actCap 20 2 0 .queued) .load bothCap 84 = none ∧
    rangeCheck demo (aCopy bothCap actCap 20 2 0 .queued) .store actCap 84 = none := by
  refine ⟨by decide, fun _ _ _ _ _ => ⟨_, _, _, _, rfl⟩, ⟨_, _, _, _, rfl⟩, ?_, by decide, .inl ⟨by decide, rfl⟩,
    .inr ⟨by decide, .inl (by decide), _, rfl, by decide, by decide⟩, by decide, by decide, by decide, by decide, by decide, by decide, by decide,
    by decide, by decide, by decide⟩
  exact ⟨{ engaged [aCopy bothCap actCap 20 2 0 .queued, { command 9 0 [] (.running 0 0 false) with core := 1 }] with
    eng := { (engaged [aCopy bothCap actCap 20 2 0 .queued, { command 9 0 [] (.running 0 0 false) with core := 1 }]).eng with copyTurn := [(0, 10)] } },
    aCopy bothCap actCap 20 2 0 .queued, { command 9 0 [] (.running 0 0 false) with core := 1 }, by decide, rfl, rfl, by decide, by decide, by decide, by decide⟩
/-- A store of the strand to the record that its lfence puts first. -/
def storing0 (s : State) : State := { s with mem := { s.mem with events := [pending .store 0x100000 4 [] none] } }
set_option maxRecDepth 100000 in
theorem witness_CopiesReadTheTable : (∀ f ∈ [id, poisoned], (tablePlace (tableMachine f) (tabled 0) 0).2.toOption = some (.phys 0x100000 0) ∧
      mayCopy (tableMachine f) (tabled 0) = true ∧ cmdOf (tableGives f).1 1 = some (tabled 0)) ∧
    (∃ l, launchOf (tableMachine id) 1 = some l ∧ 0 < l.layoutCount ∧ ¬ l.layoutCount ≤ 0 ∧ l.layoutCount ≤ 1) ∧
    (tableGives id).2.map (fun g => (g.poison, (parseRecord g.bytes g.tag).ok)) = some (none, false) ∧
    (tableGives poisoned).2.map (·.poison) = some (some 0x123) ∧
    (layoutRead (tablePlaced storing0) streamCtx.tm 0 5 0 (.phys 0x100000 0)).2 = none :=
  ⟨by decide, ⟨_, rfl, by decide, by decide, by decide⟩, by decide, by decide, by decide⟩

/-- A page of data at 0x20000. -/
def dataPage (cmds : List Cmd) : State :=
  let s := (mapPage (engaged cmds) { placedRegion with base := 0x20000, perms := sectPte .data } 2).getD demo
  { s with eng := { s.eng with cmds := cmds } }
def dataCap : Cap := mintCap 0x20000 0x10000 0xF4 1 0
/-- A copy at its first piece, or at its last one, into the team's activation buffer: after its two checks, and after its read. -/
def moving (off : Nat) : Cmd := aCopy bothCap actCap 20 2 0 (.running 1 off false)
def moves (off : Nat) : State := takeTurn (engaged [moving off]) (moving off)
def moves1 (off : Nat) : State :=
  (checkAccess (moves off) ((moving off).who (moves off)) (engineAccess .load bothCap (0x10040 + off) (min (20 - off) 16))).1
def moves2 (off : Nat) : State :=
  (checkAccess (moves1 off) ((moving off).who (moves1 off)) (engineAccess .store actCap (0x8000000000000040 + off) (min (20 - off) 16))).1
set_option maxRecDepth 100000 in
theorem witness_CopiesMove : ∀ off ∈ ([0, 16] : List Nat), ∃ s3 g, cmdOf (engaged [moving off]) 1 = some (moving off) ∧
    mayCopy (engaged [moving off]) (moving off) = true ∧
    copyBlock (moves off) (moving off) (shapeOf ((moving off).sWord 2)) (0x8000000000000040 + off) =
      (0x8000000000000040 + off, 16, [⟨0, 0x10040 + off, min (20 - off) 16⟩]) ∧
    (shapeOf ((moving off).sWord 2)).earlier actCap.addr (0x8000000000000040 + off) 16 1 = false ∧
    checkAccess (moves off) ((moving off).who (moves off)) (engineAccess .load bothCap (0x10040 + off) (min (20 - off) 16)) =
      (moves1 off, .ok [(.phys (0x100040 + off) 0, min (20 - off) 16)]) ∧
    checkAccess (moves1 off) ((moving off).who (moves1 off)) (engineAccess .store actCap (0x8000000000000040 + off) (min (20 - off) 16)) =
      (moves2 off, .ok [(.act 0 (64 + off), min (20 - off) 16)]) ∧
    sourceBytes (moves2 off) (moving off) [(.phys (0x100040 + off) 0, min (20 - off) 16)] (min (20 - off) 16) = (s3, g) ∧
    s3.eng = (moves off).eng ∧ g.bytes.length = min (20 - off) 16 ∧ g.poison = none ∧
    ∀ tm ∈ s3.teams, tm.tid = 0 → swf 0 tm.act = true := by
  intro off h
  simp only [List.mem_cons, List.not_mem_nil, or_false] at h
  rcases h with rfl | rfl <;> exact ⟨_, _, by decide, by decide, by decide, by decide, ok_of (by decide), ok_of (by decide), rfl, by decide,
    by decide, by decide, by decide⟩
/-- A copy of one granule of the activation buffer into the page of data. -/
def paging : Cmd := aCopy actCap dataCap 16 1 0 (.running 0 0 false)
def pages0 : State := takeTurn (dataPage [paging]) paging
def pages1 : State := (checkAccess pages0 (paging.who pages0) (engineAccess .load actCap 0x8000000000000000 16)).1
def pages2 : State := (checkAccess pages1 (paging.who pages1) (engineAccess .store dataCap 0x20000 16)).1
set_option maxRecDepth 100000 in
theorem witness_CopiesReachMemory : ∃ s3 g, cmdOf (dataPage [paging]) 1 = some paging ∧ mayCopy (dataPage [paging]) paging = true ∧
    copyBlock pages0 paging (shapeOf (paging.sWord 2)) 0x20000 = (0x20000, 16, [⟨0, 0x8000000000000000, 16⟩]) ∧
    checkAccess pages0 (paging.who pages0) (engineAccess .load actCap 0x8000000000000000 16) = (pages1, .ok [(.act 0 0, 16)]) ∧
    checkAccess pages1 (paging.who pages1) (engineAccess .store dataCap 0x20000 16) = (pages2, .ok [(.phys 0x110000 0, 16)]) ∧
    sourceBytes pages2 paging [(.act 0 0, 16)] 16 = (s3, g) ∧ s3.eng = pages0.eng ∧ g.bytes.length = 16 ∧ g.poison = none ∧
    paging.peers = [] ∧ tierAt 0x110000 = some 0 ∧ s3.mem.redEntries = [] ∧ Memory.wf s3.mem.cells = true ∧
    (∀ tm ∈ s3.teams, tm.staged = []) :=
  ⟨_, _, by decide, by decide, by decide, ok_of (by decide), ok_of (by decide), rfl, by decide, by decide, by decide, by decide, by decide,
    by decide, by decide, by decide⟩
/-- A copy from another package, which has not answered it; and one through a capability that names nothing. -/
def farCap : Cap := mintCap 0xC008000000020000 0x10000 0xF4 1 0
def fetching : Cmd := aCopy farCap actCap 16 1 0 (.running 0 0 false)
def fetches (serial : Nat) : State :=
  let s := engaged [fetching]
  { s with fabric := { s.fabric with pkgNo := 0, members := [(0, 5), (1, 6)], flight := [
    { ptype := .get, target := 1, source := 0, world := 1, colour := 1, addr := 0x20000, cap := farCap, payload := [], length := 16, tags := []
      op := 0, serial := serial, launch := 1, x := 0, y := 0, z := 0, rank := 0, pc := 0, word := 0, status := 0 }] } }
theorem witness_CopiesAskAndStop : (∀ n, n = 8 ∨ n = 1 + 2 * 2 ^ 32 → cmdOf (fetches n) 1 = some fetching ∧ mayCopy (fetches n) fetching = true ∧
      copyBlock (takeTurn (fetches n) fetching) fetching (shapeOf (fetching.sWord 2)) 0x8000000000000000 =
        (0x8000000000000000, 16, [⟨0, 0xC008000000020000, 16⟩]) ∧
      checkAccess (takeTurn (fetches n) fetching) (fetching.who (takeTurn (fetches n) fetching)) (engineAccess .load farCap 0xC008000000020000 16) =
        (takeTurn (fetches n) fetching, .ok [(.remote 1 0x20000, 16)])) ∧
    packetsOf (takeTurn (fetches 8) fetching) 1 = false ∧ packetsOf (takeTurn (fetches (1 + 2 * 2 ^ 32)) fetching) 1 = true ∧
    (∃ c s1 e, c = aCopy nullCap actCap 16 1 0 (.running 0 0 false) ∧
      checkAccess (engaged [c]) (c.who (engaged [c])) (engineAccess .load nullCap 0 16) = (s1, .error e) ∧ s1 = engaged [c] ∧ e = 4) := by
  refine ⟨?_, by decide, by decide, _, _, _, rfl, rfl, rfl, rfl⟩
  intro n h
  rcases h with rfl | rfl <;> exact ⟨by decide, by decide, by decide, rfl⟩
theorem witness_CopiesTakeTheLastRow : let x : Shape := ⟨2, 20, 64, 8⟩
    ∀ q, 1 < q → q < x.rows → ¬ (q * x.dstride ≤ 1 * x.dstride + 5 ∧ 1 * x.dstride + 5 < q * x.dstride + x.rowbytes) := by
  intro x q h k
  have : q < 2 := k
  omega

def aStream (x : CmdState) (bad : Bool) : Cmd :=
  { command 1 2 [.k recordCap, .s 0] x with tile := some { zeroTile with ctl := 0x7F4 }, malformed := bad }
def streaming (bad : Bool) : State := { withRecord (shaped 0x7F4) with eng := { demo.eng with cmds := [aStream .queued bad] } }
def streaming1 : State := (streamCheck (streaming false) (aStream .queued false) recordCap recordCap.addr 64 64).1
def streaming2 : State := (recordRead streaming1 ((teamOf (streaming false) 0).getD streamCtx.tm) 0 0 0 [(.phys 0x100000 0, 64)] none).1
def streaming3 : State × Option (Except Nat (List (List Byte) × Bool)) :=
  streamRows streaming2 (aStream .queued false) (parseRecord recordBytes (true && recordCap.perms.getLsbD 5)) 1 0
theorem witness_StreamCommands : (∀ bad, cmdOf (streaming bad) 1 = some (aStream .queued bad) ∧ takeReady (streaming bad) (aStream .queued bad) = true) ∧
    (∃ tm s1 s2, (aStream .queued false).team (streaming false) = some tm ∧
      streamCheck (streaming false) (aStream .queued false) recordCap recordCap.addr 64 64 = (s1, .ok [(.phys 0x100000 0, 64)]) ∧
      farLocs [(.phys 0x100000 0, 64)] = false ∧ (aStream .queued false).mark = none ∧
      recordRead streaming1 tm 0 0 (((launchOf streaming1 1).map (·.began)).getD 0) [(.phys 0x100000 0, 64)] none =
        (s2, some ⟨recordBytes, [], true, none⟩) ∧
      streamShape 0 1 (parseRecord recordBytes (true && recordCap.perms.getLsbD 5)) { zeroTile with ctl := 0x7F4 } = some 16 ∧
      streaming3 = (streaming3.1, some (.ok ([1 :: List.replicate 15 0], false))) ∧ streaming3.1.eng.cmds = (streaming false).eng.cmds) :=
  ⟨by decide, _, _, _, rfl, ok_of (by decide), rfl, rfl, some_of (by decide), by decide, some_ok_of (by decide), by decide⟩

/-- A performed command of queue 0 that signals handle `h`, with or without an older one of its queue; and its packets. -/
def signals (h : Nat) : Cmd := aCopy bothCap actCap 20 2 (BitVec.ofNat 64 (4096 + h)) (.performed 0)
/-- A packet of four bytes at 0x20000 of package `target`, from `source`. -/
def aPacket (ptype : PacketType) (target source : BitVec 9) (payload : List Byte) (serial status : Nat) : Packet :=
  { ptype := ptype, target := target, source := source, world := 1, colour := 1, addr := 0x20000, cap := dataCap, payload := payload
    length := 4, tags := [], op := 0, serial := serial, launch := 1, x := 0, y := 0, z := 0, rank := 0, pc := 0x10000, word := 0, status := status }
def answering : State :=
  let s := engaged [signals 63]
  { s with fabric := { s.fabric with flight := [aPacket .response 0 1 [] (1 + 2 * 2 ^ 32) 0] } }
theorem witness_CommandAwaitsItsPackets : cmdOf answering 1 = some (signals 63) ∧ packetsOf answering 1 = true := by decide
theorem witness_CommandsComplete : (∀ h ∈ ([0, 63, 64, 4095] : List Nat), ∃ st tm, cmdOf (engaged [signals h]) 1 = some (signals h) ∧
      (signals h).state = .performed 0 ∧ strandOf (engaged [signals h]) 0 = some st ∧ packetsOf (engaged [signals h]) 1 = false ∧
      (∀ x ∈ (engaged [signals h]).eng.cmds, x.cid < 1 → x.sid = 0 → x.queue ≠ 0) ∧ bits ((signals h).sWord 3) 12 1 = 1 ∧
      bits ((signals h).sWord 3) 0 12 = h ∧ (signals h).peers = [] ∧ spaceOf ((signals h).kWord 1).addr ≠ 0xA ∧
      teamOf (engaged [signals h]) 0 = some tm ∧ tm.state ≠ .ended ∧ tm.role ≠ .handler ∧ swf 0 tm.act = true ∧
      (∀ x ∈ tm.handles, x.1 ≠ h) ∧ (h = 63 → 8 * h + 8 ≤ actBytes tm)) ∧
    (∃ st c, c = { signals 5 with peers := [0] } ∧ cmdOf (engaged [c]) 1 = some c ∧ strandOf (engaged [c]) 0 = some st ∧
      packetsOf (engaged [c]) 1 = false ∧ bits (c.sWord 3) 12 1 = 1 ∧ bits (c.sWord 3) 0 12 = 5 ∧ c.peers.Nodup ∧
      ∃ tm, teamOf (engaged [c]) 0 = some tm ∧ tm.state ≠ .ended ∧ tm.role ≠ .handler ∧ swf 0 tm.act = true ∧ 48 ≤ actBytes tm) ∧
    (cmdOf (engaged [command 0 0 [] .queued, signals 5]) 1 = some (signals 5) ∧
      ∃ x ∈ (engaged [command 0 0 [] .queued, signals 5]).eng.cmds, x.cid < 1 ∧ x.sid = 0 ∧ x.queue = 0) := by
  refine ⟨?_, ⟨_, _, rfl, by decide, rfl, by decide, by decide, by decide, by decide, _, rfl, by decide, by decide, by decide, by decide⟩,
    by decide, _, List.mem_cons_self, by decide, by decide, by decide⟩
  intro h hh
  simp only [List.mem_cons, List.not_mem_nil, or_false] at hh
  rcases hh with rfl | rfl | rfl | rfl <;>
    exact ⟨_, _, by decide, by decide, rfl, by decide, by decide, by decide, by decide, by decide, by decide, rfl, by decide, by decide,
      by decide, by decide, by decide⟩

theorem witness_LayoutLinesFill : (tierAt (64 * 0x4000)).isSome = true ∧ demo.mem.redEntries = [] ∧ poisonOf demo.mem 0x4000 = none ∧
    tierAt (64 * 0x4000) = some 0 := by decide

/-- A storage command of `op` (1 reads a drive, 2 writes one), one page, key slot `slot`, through k0. -/
def aStorage (op slot pages : Nat) (cap : Cap) (x : CmdState) : Cmd :=
  command 1 6 [.k cap, .s 7, .s (BitVec.ofNat 64 (op + pages * 256 + slot * 65536))] x
def stored (slot : Nat) : DrivePage := { drive := 0, block := 7, data := [], tags := [0, 4095], slot := slot, gen := 0, counter := 0, gcm := 0 }
def storing (c : Cmd) (drives : List Nat) (pages : List DrivePage) : State :=
  let s := dataPage [c]
  { s with eng := { s.eng with drives := drives, drivePages := pages }, trust := (keyMachine [] id).trust }
set_option maxRecDepth 100000 in
theorem witness_StorageStarts : (∀ op ∈ ([1, 2] : List Nat), ∀ slot ∈ ([1, 2] : List Nat), ∀ drives ∈ ([[], [0]] : List (List Nat)),
      cmdOf (storing (aStorage op slot 1 dataCap .queued) drives []) 1 = some (aStorage op slot 1 dataCap .queued) ∧
      takeReady (storing (aStorage op slot 1 dataCap .queued) drives []) (aStorage op slot 1 dataCap .queued) = true ∧
      bits ((aStorage op slot 1 dataCap .queued).sWord 2) 0 2 = op ∧ bits ((aStorage op slot 1 dataCap .queued).sWord 2) 8 8 = 1 ∧
      bits ((aStorage op slot 1 dataCap .queued).sWord 2) 2 6 = 0 ∧ bits ((aStorage op slot 1 dataCap .queued).sWord 1) 48 16 = 0) ∧
    (keySlot (storing (aStorage 2 2 1 dataCap .queued) [0] []) 2).use = 0 ∧ (keySlot (storing (aStorage 2 1 1 dataCap .queued) [0] []) 1).use = 1 ∧
    rangeCheck (storing (aStorage 2 2 1 dataCap .queued) [0] []) (aStorage 2 2 1 dataCap .queued) .load dataCap 65536 = none ∧
    rangeCheck (storing (aStorage 1 2 1 dataCap .queued) [0] []) (aStorage 1 2 1 dataCap .queued) .store dataCap 65536 = none ∧ rangeStatus dataCap 65537 0x84 ≠ none ∧ bits ((aStorage 1 2 0 dataCap .queued).sWord 2) 8 8 = 0 := by decide
set_option maxRecDepth 100000 in
theorem witness_StorageMoves : (∀ op ∈ ([1, 2] : List Nat), cmdOf (storing (aStorage op 2 1 dataCap (.running 0 0 false)) [0] [stored 2]) 1 =
      some (aStorage op 2 1 dataCap (.running 0 0 false))) ∧ swf noKey (keyMachine [] id).trust.keys = true ∧
    (∃ p, ((storing (aStorage 1 2 1 dataCap (.running 0 0 false)) [0] [stored 2]).eng.drivePages.find? fun p => p.drive == 0 && p.block == 7) = some p ∧
      p.slot = 2 ∧ p.gen = (keySlot (keyMachine [] id) 2).gen ∧ (keySlot (keyMachine [] id) 2).state = 1) ∧
    (∀ p ∈ (storing (aStorage 1 2 1 dataCap (.running 0 0 false)) [0] [stored 3]).eng.drivePages, p.slot ≠ 2) ∧ 0x110000 % 65536 = 0 ∧
    tierAt 0x110000 = some 0 :=
  ⟨by decide, by decide, ⟨_, rfl, by decide, by decide, by decide⟩, by decide, by decide, by decide⟩
set_option maxRecDepth 100000 in
theorem witness_StorageReads : ∃ c s s1, c = aStorage 1 2 1 dataCap (.running 0 0 false) ∧ s = storing c [0] [stored 2] ∧
    checkAccess s (c.who s) (portAccess .store dataCap 0x20000 65536) = (s1, .ok [(.phys 0x110000 0, 65536)]) ∧ s1.eng = s.eng ∧
    s1.mem.redEntries = [] ∧ Memory.wf s1.mem.cells = true := ⟨_, _, _, rfl, rfl, ok_of (by decide), rfl, by decide, by decide⟩
set_option maxRecDepth 100000 in
theorem witness_StorageWrites : ∃ c s s1 s2 g, c = aStorage 2 2 1 dataCap (.running 0 0 false) ∧ s = storing c [0] [] ∧
    checkAccess s (c.who s) (portAccess .load dataCap 0x20000 65536) = (s1, .ok [(.phys 0x110000 0, 65536)]) ∧
    sourceBytes s1 c [(.phys 0x110000 0, 65536)] 65536 = (s2, g) ∧ s2.eng = s.eng ∧ s2.trust = s.trust ∧ g.bytes.length = 65536 ∧
    g.poison = none := by
  refine ⟨_, _, _, _, _, rfl, rfl, ok_of (by decide), rfl, rfl, rfl, ?_, by decide⟩
  simp

/-! ### Packets -/

/-- The package as number 0 of a fabric of two, its import table giving world 1 ASID 1. -/
def netted (s : State) (outbox flight : List Packet) (events : List MemEv) : State :=
  { s with
    fabric := { s.fabric with pkgNo := 0, members := [(0, 5), (1, 6)], imports := [(1, 1)], outbox := outbox, flight := flight }
    mem := { s.mem with events := events } }
/-- An access of thread 0 to package 1. -/
def faraway (id : Nat) (kind : EvKind) (sem : Sem) (data : List Byte) : MemEv :=
  { pending kind 0 4 data (some (0, 0, .words 5 1)) with id := id, locs := [(.remote 1 0x20000, 4)], sem := sem, va := 0xC008000000020000 }
theorem witness_PacketsLeave : ((netted demo [aPacket .load 1 0 [] 9 0] [] []).fabric.outbox.find? fun q => q.serial == 9) = some (aPacket .load 1 0 [] 9 0) ∧
    (∀ e ∈ [faraway 4 .load .rlx [], faraway 4 .store .rel [1, 2, 3, 4], faraway 4 (.red 11) .rlx [1, 0, 0, 0], faraway 4 .cas .rlx []],
      eventOf (netted demo [] [] [e]) 4 = some e ∧ e.sent = false ∧ earlierPending (netted demo [] [] [e]) e = false ∧
      (e.sem ≠ .rel ∨ releaseReady (netted demo [] [] [e]) e = true)) ∧
    eventOf (netted demo [] [] [faraway 3 .store .rlx [], faraway 4 .load .rlx []]) 4 = some (faraway 4 .load .rlx []) ∧
    earlierPending (netted demo [] [] [faraway 3 .store .rlx [], faraway 4 .load .rlx []]) (faraway 4 .load .rlx []) = true := by decide

/-- A packet from package 1 arrives at package 0, whose page of data it names; through a null capability's world it names none. -/
def arriving (p : Packet) : State := netted (dataPage []) [] [p] []
set_option maxRecDepth 100000 in
theorem witness_PacketsArrive : (∀ x ∈ ([(.load, .load), (.store, .store), (.put, .store), (.get, .load), (.atomic, .atomic), (.cas, .atomic), (.red, .red)] : List (PacketType × AccKind)),
      (aPacket x.1 0 1 [1, 0, 0, 0] 8 0).target = (arriving (aPacket x.1 0 1 [1, 0, 0, 0] 8 0)).fabric.pkgNo ∧
      (aPacket x.1 0 1 [1, 0, 0, 0] 8 0).source ≠ (arriving (aPacket x.1 0 1 [1, 0, 0, 0] 8 0)).fabric.pkgNo ∧
      packetKind (aPacket x.1 0 1 [1, 0, 0, 0] 8 0) = x.2) ∧
    (∀ x ∈ ([(.load, 4), (.load, 16), (.store, 16), (.atomic, 4), (.atomic, 8), (.red, 4)] : List (AccKind × Nat)),
      let q := targetCheck (arriving (aPacket .load 0 1 [] 8 0)) (aPacket .load 0 1 [] 8 0) x.1 x.2
      q.2.toOption = some [(.phys 0x110000 0, x.2)] ∧ plainWord q.1 0x110000 x.2 ∧ (readLocs q.1 none [(.phys 0x110000 0, x.2)]).2.isSome) ∧
    (causeOf (targetCheck (arriving (aPacket .load 0 1 [] 8 0)) { aPacket .load 0 1 [] 8 0 with world := 2 } .load 4).2 = some 0x10) ∧
    (causeOf (targetCheck (arriving (aPacket .load 0 1 [] 8 0)) { aPacket .red 0 1 [] 8 0 with addr := 0x30000 } .red 4).2 = some 0x10) := by decide
theorem witness_ReductionsThatFail : (causeEntry (withCause demo 0 0x40 2) 0 0x40).valid = true ∧ shareHasRoom (withCause demo 0 0x40 2) 0 0x40 ∧
    (causeEntry { demo with traps := { demo.traps with causeTable := sput noCause demo.traps.causeTable 0x40 { noCause with valid := false } } } 0 0x40).valid
      = false := by decide

/-- The answer to an access of thread 0, or to a command's packet. -/
def answered (e : MemEv) : State := netted demo [] [aPacket .load 1 0 [] 8 0] [e]
def anAnswer (status : Nat) : Packet := aPacket .response 0 1 [1, 2, 3, 4] 8 status
theorem witness_AnswersEndAccesses : (∀ n ∈ ([0, 3, 127] : List Nat), ∀ e ∈ [faraway 4 .load .rlx [], faraway 4 .store .rlx [], faraway 4 (.red 0) .rlx [],
      faraway 4 .cas .rlx [], faraway 4 (.atom 0) .rlx [], { faraway 4 .load .rlx [] with probe := true }, { faraway 4 .store .rlx [] with probe := true }], answersOne (answered e) (anAnswer n) ∧ (anAnswer n).serial = 2 * e.id ∧ eventOf (answered e) e.id = some e ∧
      e.owners = [e.rank]) ∧
    (∃ t, threadOf (answered (faraway 4 .load .rlx [])) 0 0 = some t ∧ t.status = .present ∧
      ∀ u ∈ (answered (faraway 4 .load .rlx [])).threads, u.tid = 0 → u.rank = 0 → u = t) ∧
    (∃ l, launchOf (answered (faraway 4 (.red 0) .rlx [])) 1 = some l ∧ l.state = .live) :=
  ⟨by decide, ⟨_, rfl, by decide, by decide⟩, _, rfl, by decide⟩

/-- A GET of command 1 under way, and its answer of four bytes. -/
def aGet (x : CmdState) : Cmd := command 1 4 [.k actCap, .k (mintCap 0xC008000000020000 0x10000 0xF4 1 0), .s 4, .s 1] x
def cidSerial : Nat := 1 + 2 * 2 ^ 32
def getting (x : CmdState) : State := netted (engaged [aGet x]) [] [aPacket .get 1 0 [] cidSerial 0] []
theorem witness_AnswersEndCommands : (∀ x ∈ ([(3, []), (0, [])] : List (Nat × List Byte)),
      answersOne (getting (.running 0 4 false)) (aPacket .response 0 1 x.2 cidSerial x.1) ∧
        packetCid (aPacket .response 0 1 x.2 cidSerial x.1) = some 1) ∧ cmdOf (getting (.running 0 4 false)) 1 = some (aGet (.running 0 4 false)) ∧
    answersOne (fetches cidSerial) (aPacket .response 0 1 [1, 2, 3, 4] cidSerial 0) ∧ cmdOf (fetches cidSerial) 1 = some fetching ∧ fetching.queue ≠ 4 := by
  decide
/-- The same with its destination in the page of data. -/
def landing (n : Nat) : State := netted (dataPage [command 1 4 [.k dataCap, .k farCap, .s (BitVec.ofNat 64 n), .s 1] (.running 0 n false)]) []
  [aPacket .get 1 0 [] cidSerial 0] []
set_option maxRecDepth 100000 in
theorem witness_AnswersGoToMemory : ∀ n ∈ ([4, 16] : List Nat), ∃ c p s1, c = command 1 4 [.k dataCap, .k farCap, .s (BitVec.ofNat 64 n), .s 1] (.running 0 n false) ∧
    p = aPacket .response 0 1 (List.replicate n 5) cidSerial 0 ∧ answersOne (landing n) p ∧ packetCid p = some 1 ∧ cmdOf (landing n) 1 = some c ∧
    c.queue = 4 ∧ c.peers = [] ∧ p.op = 0 ∧ (p.addr - BitVec.ofNat 51 (c.kWord 1).addr).toNat = 0 ∧
    checkAccess (requestGone (landing n) p) (c.who (requestGone (landing n) p)) (portAccess .store dataCap 0x20000 n) =
      (s1, .ok [(.phys 0x110000 0, n)]) ∧ plainWord s1 0x110000 1 := by
  intro n h
  simp only [List.mem_cons, List.not_mem_nil, or_false] at h
  rcases h with rfl | rfl <;> exact ⟨_, _, _, rfl, rfl, by decide, by decide, by decide, rfl, rfl, rfl, by decide, ok_of (by decide), by decide⟩

theorem witness_TargetsUnreachable : ((getting (.running 0 4 false)).mem.events = [] ∧
      ∀ p ∈ (getting (.running 0 4 false)).fabric.outbox ++ (getting (.running 0 4 false)).fabric.flight, p.target = 1 → p.ptype ≠ .response →
        packetCid p = some 1 ∧ (cmdOf (getting (.running 0 4 false)) 1).map (·.queue) = some 4) ∧
    (aGet (.running 0 4 false)).state.pending = true := by decide
theorem witness_TargetsUnreachableAccess :
    (∀ e ∈ [faraway 4 .load .rlx [], faraway 4 .store .rlx [], { faraway 4 .cas .rlx [] with probe := true }], (answered e).mem.events = [e] ∧ e.locs = [(.remote 1 0x20000, 4)] ∧
      ∀ p ∈ (answered e).fabric.outbox ++ (answered e).fabric.flight, p.serial = 8) ∧ packetCid (aPacket .load 1 0 [] 8 0) = none := by decide
theorem witness_TargetsUnreachableStore : ∃ tm l, teamOf (answered (faraway 4 .store .rlx [])) 0 = some tm ∧ tm.role.compensates = false ∧
    launchOf (answered (faraway 4 .store .rlx [])) tm.launch = some l ∧ l.state = .live := ⟨_, _, rfl, by decide, rfl, by decide⟩

/-! ### Collectives, rosters, leases -/

/-- An active roster of three members in slot 2, this package its first, and a collective of `kind` under way on it. -/
def aRoster (state : Nat) (asked : List Nat) : Roster :=
  { slot := 2, group := 9, epoch := 5, world := 1, state := state, members := [(0, true), (1, true), (2, false)], digest := 3, list := 0
    issued := 0, asked := asked }
def aCollective (kind root n op : Nat) : Cmd :=
  command 1 4 [.k actCap, .k actCap, .s (BitVec.ofNat 64 (n + op * 2 ^ 36)), .s (BitVec.ofNat 64 (kind + 2 * 65536 + root * 2 ^ 32))] (.running 0 0 false)
def joined (c : Cmd) (r : Roster) : State :=
  let s := engaged [c]
  { s with fabric := { s.fabric with pkgNo := 0, members := [(0, 5), (1, 6)], rosters := [r] } }
set_option maxRecDepth 100000 in
/-- The same in solo mode from an address of system space to the page of data. -/
def sysCap : Cap := mintCap 0xF000000000100000 0x1000 0xF4 1 0
def gathering (kind root : Nat) : Cmd :=
  { aCollective kind root 8 11 with
    solo := true
    words := [.k sysCap, .k dataCap, .s (BitVec.ofNat 64 (8 + 11 * 2 ^ 36)), .s (BitVec.ofNat 64 (kind + 2 * 65536 + root * 2 ^ 32))] }
def joinedPage (c : Cmd) : State :=
  let s := dataPage [c]
  { s with fabric := { s.fabric with pkgNo := 0, members := [(0, 5), (1, 6)], rosters := [aRoster 2 []] } }
theorem witness_Collectives : (∀ x ∈ ([(4, 0), (5, 1), (5, 0), (6, 0)] : List (Nat × Nat)),
      collecting (joined (aCollective x.1 x.2 8 11) (aRoster 2 [])) (aCollective x.1 x.2 8 11) (aRoster 2 []) 0 x.1 ∧
      bits ((aCollective x.1 x.2 8 11).sWord 3) 32 9 = x.2) ∧ otherIndices (aRoster 2 []) 0 = [1] ∧
    bits ((aCollective 4 0 8 11).sWord 2) 0 24 = 8 ∧ bits ((aCollective 4 0 8 11).sWord 2) 36 4 = 11 ∧
    (∀ xs ∈ ([[(1, List.replicate 8 7)], [(1, [7])]] : List (List (Nat × List Byte))), ∀ i ∈ otherIndices (aRoster 2 []) 0, ∃ x ∈ xs, x.1 = i) ∧
    (¬ ∀ x ∈ ([(1, List.replicate 8 7)] : List (Nat × List Byte)), x.2.length ≠ 8) ∧ (∀ x ∈ ([(1, [7])] : List (Nat × List Byte)), x.2.length ≠ 8) ∧
    (∃ i ∈ otherIndices (aRoster 2 []) 0, ∀ x ∈ ([] : List (Nat × List Byte)), x.1 ≠ i) ∧ 8 % 4 = 0 ∧ 0 < (aRoster 2 []).members.length := by
  decide
set_option maxRecDepth 100000 in
theorem witness_CollectivesLand : ∀ x ∈ ([(4, 0), (5, 0), (5, 1)] : List (Nat × Nat)), ∃ c s s1 s2 s3 g, c = gathering x.1 x.2 ∧ s = joinedPage c ∧
    collecting s c (aRoster 2 []) 0 x.1 ∧ bits (c.sWord 3) 32 9 = x.2 ∧
    checkAccess s (c.who s) (portAccess .load (c.kWord 0) (c.kWord 0).addr 8) = (s1, .ok [(.sys 0xF000000000100000, 8)]) ∧
    sourceBytes s1 c [(.sys 0xF000000000100000, 8)] 8 = (s2, g) ∧ g.poison = none ∧ g.bytes.length = 8 ∧ c.peers = [] ∧
    checkAccess s2 (c.who s2) (portAccess .store (c.kWord 1) (c.kWord 1).addr 8) = (s3, .ok [(.phys 0x110000 0, 8)]) ∧
    plainWord s3 0x110000 1 ∧ s3.eng = s.eng := by
  intro x h
  simp only [List.mem_cons, List.not_mem_nil, or_false] at h
  rcases h with rfl | rfl | rfl <;> exact ⟨_, _, _, _, _, _, rfl, rfl, by decide, by decide, ok_of (by decide), rfl, by decide, by decide, rfl,
    ok_of (by decide), by decide, rfl⟩

theorem witness_Rosters : (∀ n ∈ ([1, 3] : List Nat), rosterOf (joined (aCollective 4 0 8 11) (aRoster n [1, 2])) 2 = some (aRoster n [1, 2]) ∧
      1 ∈ (aRoster n [1, 2]).asked) ∧ rosterOf (joined (aCollective 4 0 8 11) (aRoster 3 [2])) 2 = some (aRoster 3 [2]) ∧
    (2 ∈ (aRoster 3 [2]).asked ∧ 2 < (aRoster 2 []).members.length) ∧
    cmdOf (joined (aCollective 4 0 8 11) (aRoster 2 [])) 1 = some (aCollective 4 0 8 11) ∧
    (aCollective 4 0 8 11).state.pending = true ∧ bits ((aCollective 4 0 8 11).sWord 3) 16 8 = 2 := by decide

/-- Link 15 with `n` replays in its window, the clock at `now`. -/
def linked (n : Nat) (now : DWord) : State :=
  { demo with run := { demo.run with clock := now }, fabric := { demo.fabric with links := [⟨15, n, 0, false⟩] } }
theorem witness_Links : ∀ x ∈ ([(7, 2499999), (8, 2499999), (8, 2500000)] : List (Nat × DWord)),
    ((linked x.1 x.2).fabric.links.find? fun l => l.number == 15) = some ⟨15, x.1, 0, false⟩ := by decide

/-- A package that leads, follows identity 1, or knows no leader, its lease of term 5 taken at 0. -/
def led (leading : Bool) (leader : Option (BitVec 128)) (now : DWord) : State :=
  { demo with
    run := { demo.run with clock := now }
    fabric := { demo.fabric with pkgNo := 0, members := [(0, demo.trust.devid), (1, 6)], leaseTerm := 5, leaseLeader := leader, leaseAt := 0, leading := leading } }
theorem witness_Leases : (led false (some 1) 0).fabric.leading = false ∧ (led true (some demo.trust.devid) 0).fabric.leading = true ∧
    ((6 : BitVec 128) ≠ demo.trust.devid) ∧ (4 < (led false (some 1) 0).fabric.leaseTerm) ∧
    (led false none 0).fabric.leaseLeader = none ∧ (∀ x ∈ ([6] : List (BitVec 128)), demo.trust.devid.toNat ≤ x.toNat) ∧
    (led false (some 1) 0).fabric.bootImage ≠ some (1, 2) ∧ swf 0 (led false (some 1) 0).trust.meas = true ∧
    sget 0 (led false (some 1) 0).trust.meas 0 = 0 ∧ (∃ m : Sparse (BitVec 256), swf 0 m = true ∧ sget 0 m 0 ≠ 0) :=
  ⟨rfl, rfl, by decide, by decide, rfl, fun _ _ => Nat.zero_le _, by decide, by decide, by decide, [(0, 7)], by decide, by decide⟩
theorem witness_LeasesEnd : ((led false (some 1) 4999999999).run.clock.toNat < (led false (some 1) 0).fabric.leaseAt + 5000000000) ∧
    ¬ ((led false (some 1) 5000000000).run.clock.toNat < (led false (some 1) 0).fabric.leaseAt + 5000000000) := by
  constructor
  · show 4999999999 < 0 + 5000000000
    omega
  · show ¬ (5000000000 < 0 + 5000000000)
    omega

/-! ### Teams -/

/-- A launch of two teams whose seed stands at its last one, created already or not. -/
def seeding (i : Nat) (made : List TeamKey) : State := withLaunch demo fun l => { l with fx := 2, kinds := [0, 0], seed := some i, created := made }
theorem witness_SeedPlaces : ∀ x ∈ ([(0, []), (1, []), (1, [⟨0, 1, 0, 0, 0⟩])] : List (Nat × List TeamKey)), ∃ l k,
    launchOf (seeding x.1 x.2) 1 = some l ∧ l.seed = some x.1 ∧ x.1 < l.fx * l.fy * l.fz ∧
      (l.slots.find? fun y => y.kind == (fieldKey l x.1).kind) = some k ∧ (x.2 ≠ [] → fieldKey l x.1 ∈ l.created) := by
  intro x h
  simp only [List.mem_cons, List.not_mem_nil, or_false] at h
  rcases h with rfl | rfl | rfl <;> exact ⟨_, _, rfl, by decide, by decide, rfl, by decide⟩

/-- The team's strand has ended, in error or not. -/
def emptied (failed : Bool) : State := { demo with strands := [], teams := demo.teams.map fun tm => { tm with failed := failed } }
theorem not_open {s : State} {tm : Team} (h : (tm.state = .created ∨ tm.state = .saved) = False ∧ s.strands = [] ∧ s.mem.events = [] ∧ s.eng.cmds = [] ∧
    s.traps.pillow = [] ∧ tm.rolling = none) : ¬ teamOpen s tm := by
  obtain ⟨h0, h1, h2, h3, h4, h5⟩ := h
  intro x
  rcases x with x | x | ⟨a, ha, _⟩ | ⟨a, ha, _⟩ | ⟨a, ha, _⟩ | ⟨a, ha, _⟩ | x
  · exact h0 ▸ Or.inl x
  · exact h0 ▸ Or.inr x
  · simp [h1] at ha
  · simp [h2] at ha
  · simp [h3] at ha
  · simp [h4] at ha
  · exact x h5
theorem witness_TeamsComplete : (∀ b : Bool, ∃ tm l, teamOf (emptied b) 0 = some tm ∧ tm.role = .field ∧ launchOf (emptied b) tm.launch = some l ∧
      ¬ teamOpen (emptied b) tm ∧ (tm.key, false) ∉ l.events ∧ tm.staged = [] ∧ (emptied b).mem.redEntries = [] ∧ tm.desc.tls = 0 ∧ tm.failed = b ∧
      noArea (emptied b) tm) ∧
    (∃ tm, teamOf demo 0 = some tm ∧ tm.role = .field ∧ teamOpen demo tm) := by
  refine ⟨?_, _, rfl, by decide, .inr (.inr (.inl ⟨_, List.mem_cons_self, by decide⟩))⟩
  intro b
  cases b <;> exact ⟨_, _, rfl, by decide, rfl, not_open ⟨eq_false (by decide), rfl, rfl, rfl, rfl, rfl⟩, by decide, by decide, by decide, by decide, rfl,
    by intro l h; cases h; decide⟩

def anAudit : AuditItem := ⟨3, 1, ⟨0, 0, 0, 0, 0⟩, 0, 7, 0⟩
def auditing (now : DWord) : State := { demo with run := { demo.run with clock := now }, front := { demo.front with audits := [anAudit] } }
/-- The same with cluster 0 of dies 0 and 1 in world 1: a replay goes to the other die. -/
def auditing2 : State := { auditing 0 with plant := { demo.plant with clusterWorld := [(0, 2), (64, 2)] } }
theorem witness_Audits : ((auditing 0).front.audits.find? fun a => a.index == anAudit.index) = some anAudit ∧
    replayCore auditing2 { anAudit with launch := 9 } 0 = false ∧ 0 < 2500000000 := ⟨by decide, by decide, by omega⟩
set_option maxRecDepth 100000 in
theorem witness_AuditsReplay : replayCore auditing2 anAudit 128 = true := by decide

/-- A strand that has waited at handle 63 since 0, the clock past the threshold. -/
def hanging (served : Bool) : State :=
  let s := machine [] fun st => { st with paths := st.paths.map fun p => { p with state := .waiting (.barrier (.act 0 504) 63 true false) 0 } }
  let s := if served then withCause s 0 0x48 2 else { s with traps := { s.traps with causeTable := sput noCause s.traps.causeTable 0x48 { noCause with valid := false } } }
  { s with run := { s.run with clock := BitVec.ofNat 64 (s.front.hangThreshold + 1) } }
theorem witness_Hangs : ∀ b : Bool, ∃ l st tm p, launchOf (hanging b) 1 = some l ∧ l.state = .live ∧ hangEntry (hanging b) 1 = none ∧
    l.hung = false ∧ shareHasRoom (hanging b) 0 0x48 ∧ st ∈ (hanging b).strands ∧ teamOf (hanging b) st.tid = some tm ∧ tm.launch = l.num ∧
    tm.role ≠ .handler ∧ tm.state = .running ∧ p ∈ st.paths ∧ p.state = .waiting (.barrier (.act 0 504) 63 true false) 0 ∧
    (causeEntry (hanging b) 0 0x48).valid = b := by
  intro b
  cases b <;> exact ⟨_, _, _, _, rfl, by decide, by decide, by decide, by decide, List.mem_cons_self, rfl, by decide, by decide, by decide,
    List.mem_cons_self, rfl, by decide⟩

/-- The team asked to stop, its strand stopping with nothing outstanding or with a result; or stopped. -/
def stopping (stop : StopState) (rb : List RBEntry) (since : DWord) : State :=
  let s := machine [] fun st => { st with stop := stop, rb := rb }
  { s with run := { s.run with clock := since }, teams := s.teams.map fun tm => { tm with state := .stopping, peerSet := some 0 } }
/-- Two teams of a launch, the second saved with the set that both were of. -/
def halfSaved : State :=
  { demo with teams := demo.teams.map (fun tm => { tm with peerSet := some 4 }) ++ demo.teams.map fun tm =>
      { tm with tid := 1, peerSet := some 4, state := .saved } }
theorem witness_PreemptAsked : (∃ tm, teamOf demo 0 = some tm ∧ tm.state = .running ∧ tm.role ≠ .handler ∧ (demo.teams.map (·.tid)).Nodup ∧
      (∃ x ∈ demo.teams, stopsWith demo tm x) ∧ ∀ x ∈ demo.teams, openSet demo x = none) ∧
    (∃ tm, teamOf (stopping .stopped [] 0) 0 = some tm ∧ tm.state ≠ .running) ∧
    (∃ st ∈ demo.strands, st.stop = .running ∧ st.commit = none ∧ st.stepping = none ∧ ¬ waitsWhole st) := by
  refine ⟨⟨_, rfl, by decide, by decide, by decide, ⟨_, List.mem_cons_self, by decide, by decide, by decide, .inl (by decide)⟩, by decide⟩,
    ⟨_, rfl, by decide⟩, _, List.mem_cons_self, by decide, by decide, by decide, ?_⟩
  rintro ⟨_, h⟩
  obtain ⟨w, n, h⟩ := h _ List.mem_cons_self
  cases h
theorem witness_PreemptOfAnOpenSet : ∃ tm, teamOf halfSaved 0 = some tm ∧ tm.state = .running ∧ tm.role ≠ .handler ∧ (halfSaved.teams.map (·.tid)).Nodup ∧
    stopsWith halfSaved tm tm ∧ openSet halfSaved tm = some 4 ∧ ∀ x ∈ halfSaved.teams, openSet halfSaved x = some 4 :=
  ⟨_, rfl, by decide, by decide, by decide, ⟨by decide, by decide, by decide, .inl rfl⟩, by decide, by decide⟩
theorem witness_PreemptDue : (∀ rb ∈ [[], clean], ∃ st, strandOf (stopping (.requested 0) rb 30000) 0 = some st ∧ st.stop = .requested 0 ∧
    st.commit = none ∧ st.stepping = none ∧ 0 + 30000 ≤ (stopping (.requested 0) rb 30000).run.clock.toNat ∧ st.rb = rb) ∧
    (∃ st, strandOf (stopping (.requested 0) [] 29999) 0 = some st ∧ st.stop = .requested 0 ∧ ¬ waitsWhole st ∧
      (stopping (.requested 0) [] 29999).run.clock.toNat < 30000) := by
  constructor
  · intro rb h
    simp only [List.mem_cons, List.not_mem_nil, or_false] at h
    rcases h with rfl | rfl <;> exact ⟨_, rfl, by decide, by decide, by decide, Nat.le_refl 30000, rfl⟩
  · refine ⟨_, rfl, by decide, ?_, Nat.lt_succ_self 29999⟩
    rintro ⟨_, h⟩
    obtain ⟨w, n, h⟩ := h _ List.mem_cons_self
    cases h
/-- A team of one tile whose save area is the page of data. -/
def savingTo : State :=
  let s := withLaunch (dataPage []) fun l => { l with saveBase := 0x20000 }
  { s with
    front := { s.front with regions := [{ placedRegion with base := 0x20000, perms := sectPte .data }] }
    strands := s.strands.map fun st => { st with stop := .stopped }
    teams := s.teams.map fun tm => { tm with state := .stopping, peerSet := some 0, desc := { tm.desc with tiles := 1, accs := 1 } } }
set_option maxRecDepth 100000 in
theorem witness_TeamsSave : (∃ tm, teamOf (stopping .stopped [] 0) 0 = some tm ∧ tm.state = .stopping ∧ tm.rolling = none ∧
      (∀ st ∈ (stopping .stopped [] 0).strands, st.stop = .stopped) ∧ (stopping .stopped [] 0).eng.cmds = [] ∧
      checkpointReady (stopping .stopped [] 0) tm.tid = true ∧ tm.staged = [] ∧ noArea (stopping .stopped [] 0) tm) ∧
    (∃ tm st, teamOf (stopping (.requested 0) [] 0) 0 = some tm ∧ st ∈ (stopping (.requested 0) [] 0).strands ∧ st.tid = tm.tid ∧ st.stop ≠ .stopped) :=
  ⟨⟨_, rfl, by decide, by decide, by decide, by decide, by decide, by decide, by intro l h; cases h; decide⟩, _, _, rfl, List.mem_cons_self,
    by decide, by decide⟩
set_option maxRecDepth 100000 in
theorem witness_TeamsSaveInMemory : ∃ tm, teamOf savingTo 0 = some tm ∧ tm.state = .stopping ∧ tm.rolling = none ∧
    (∀ st ∈ savingTo.strands, st.stop = .stopped) ∧ savingTo.eng.cmds = [] ∧ checkpointReady savingTo tm.tid = true ∧ areaAt savingTo tm 0x110000 :=
  ⟨_, rfl, by decide, by decide, by decide, by decide, by decide, by decide, by decide, by decide, by decide, _, 0, rfl, by decide, by decide, by decide⟩

/-- The team created, saved with its place, or saved without one; and a record of the op that names it and its core. -/
def bound (x : TeamState) (place : Option Nat) : State :=
  { demo with
    strands := if x = .created then [] else demo.strands
    teams := demo.teams.map fun tm => { tm with state := x, place := place, name := none } }
def record (op : Nat) : BindRecord :=
  { op := op, die := 0, cluster := 0, core := 0, slots := 1, launch := 1, x := 0, y := 0, z := 0, stage := 0, kind := 0, tiles := 0, accs := 0
    act := 0, wgt := 0 }
theorem witness_BindRecords : ∀ x ∈ ([(1, .created, none), (2, .running, some 0), (3, .saved, none), (4, .saved, some 0)] :
    List (Nat × TeamState × Option Nat)), ∃ tm, (bound x.2.1 x.2.2).teams = [tm] ∧ linkOpen (bound x.2.1 x.2.2) (record x.1) ∧
      namesTeam (bound x.2.1 x.2.2) (record x.1) tm x.2.1 ∧ tm.place = x.2.2 ∧ (bound x.2.1 x.2.2).trust.unlocking = false ∧
      teamReady (bound x.2.1 x.2.2) tm = true ∧ tm.desc.tls = 0 ∧ tm.staged = [] ∧ compFrame (bound x.2.1 x.2.2) tm = none ∧ tm.name = none ∧
      tm.bound = none ∧ (x.2.2 = none → bindFits (bound x.2.1 x.2.2) tm (record x.1) = some 0) := by
  intro x h
  simp only [List.mem_cons, List.not_mem_nil, or_false] at h
  rcases h with rfl | rfl | rfl | rfl <;>
    exact ⟨_, rfl, by decide, ⟨List.mem_cons_self, rfl, by decide, by decide, by decide, by decide, by decide⟩, rfl, by decide, by decide, by decide,
      by decide, by decide, rfl, by decide, by decide⟩
/-- Records that name no team, that do not fit, and that come during an unlock; the head's reports. -/
theorem witness_BindsRefused : carried demo (record 1) = none ∧ (linkDir demo 0 0 true).permits ≠ 0 ∧
    (∃ tm, (bound .created none).teams = [tm] ∧ namesTeam (bound .created none) { record 1 with slots := 3 } tm .created ∧
      bindFits (bound .created none) tm { record 1 with slots := 3 } = none) ∧
    ({ bound .created none with trust := { demo.trust with unlocking := true } } : State).trust.unlocking = true :=
  ⟨by decide, by decide, ⟨_, rfl, ⟨List.mem_cons_self, rfl, by decide, by decide, by decide, by decide, by decide⟩, by decide⟩, rfl⟩
/-- A link with no permit left, its messages in flight, one of them held. -/
def noPermit (held : List LinkMsg) : State := { demo with plant := { demo.plant with linkDirs := [⟨0, 0, false, 0, held, 16⟩, ⟨0, 0, true, 0, held, 16⟩] } }
theorem witness_LinkPermits : ¬ linkOpen (noPermit []) (record 1) ∧ (linkDir (noPermit []) 0 0 false).flight ≠ 0 ∧
    (linkDir (noPermit []) 0 0 false).held = [] ∧ (linkDir (noPermit [.record (record 1)]) 0 0 true).held = [.record (record 1)] ∧
    carried (noPermit [.record (record 1)]) (record 1) = none ∧ (linkDir (noPermit []) 0 0 true).permits = 0 ∧
    (∀ x ∈ [.ack (record 1) false, .ack (record 1) true, .fault 0 1], (linkDir (noPermit [x]) 0 0 true).held = [x] ∧ ∀ r, x ≠ .record r) ∧
    (linkDir demo 0 0 false).flight = 0 := by
  refine ⟨by decide, by decide, by decide, by decide, by decide, by decide, ?_, by decide⟩
  intro x h
  simp only [List.mem_cons, List.not_mem_nil, or_false] at h
  rcases h with rfl | rfl | rfl <;> exact ⟨by decide, nofun⟩

/-- An unpicking activity with an armed, a pending or a running top frame. -/
def aFrame (x : BitVec 2) : SeamFrame :=
  { seq := 3, prev := 0, comp := compCap, arg := bufCap 0, index := 7, step := 2, die := 0, slot := 0, colour := 1, state := x, pend := false, issuer := 1, owner := 1 }
def compensating (x : BitVec 2) : State := seamMachine [{ anActivity .unpicking 1 1 0 with frames := [aFrame x] }]
theorem witness_CompensationsSpawn : ∀ x ∈ ([1, 2, 3] : List (BitVec 2)), ∃ a f, seamAt (compensating x) 7 = some a ∧ a.frames = [f] ∧
    a.state = .unpicking ∧ a.links = [] ∧ launchLives (compensating x) a.runner = true ∧ f.state = x ∧ stepInProgress (compensating x) a = false ∧
      Memory.wf (compensating x).mem.cells = true ∧
      stepInProgress (compensating x) { a with frames := [{ f with state := 1, issuer := 0 }] } = true := by
  intro x h
  simp only [List.mem_cons, List.not_mem_nil, or_false] at h
  rcases h with rfl | rfl | rfl <;> exact ⟨_, _, rfl, rfl, by decide, by decide, by decide, by decide, by decide, by decide, by decide⟩

/-! ### Rings and launches -/

/-- A ring entry: its op, handle, launch index, and the length that a load gives. -/
def ringEntry (op handle len index : Nat) : List Byte :=
  bytesOfNat 2 op ++ bytesOfNat 2 0 ++ bytesOfNat 4 handle ++ bytesOfNat 8 0 ++ bytesOfNat 8 len ++ bytesOfNat 8 index ++ bytesOfNat 32 0
/-- Function 0's ring of 16 entries in the page of data, its one entry waiting; the function's images. -/
def ringed (bs : List Byte) (images : List Loaded) : State :=
  let s := dataPage []
  { s with
    mem := { s.mem with cells := cellPuts s.mem.cells 0x110000 bs }
    front := { s.front with vcps := [{ newVcp 0 with ringBase := 0x20000, ringSize := 4, notify := 1 }], images := images } }
set_option maxRecDepth 100000 in
theorem witness_RingsHaveEntries : ∀ bs ∈ [ringEntry 1 0 64 0, ringEntry 2 7 0 255, ringEntry 3 7 0 0, ringEntry 4 1 0 0, ringEntry 5 0 0 0],
    bs.length = 64 ∧ (let v := vcpOf (ringed bs []) 0
      v.ringSize ≠ 0 ∧ v.flrBusy = false ∧ v.head.toNat < v.notify.toNat ∧ v.ringBase.toNat % 64 = 0 ∧
      physOf (ringed bs []) v.asid (v.ringBase.toNat + 64 * (v.head.toNat % 2 ^ v.ringSize.toNat)) = some (0x110000, 0)) ∧ 0x110000 % 64 = 0 ∧
    tierAt 0x110000 = some 0 ∧ (ringed bs []).mem.redEntries = [] ∧ Memory.wf (ringed bs []).mem.cells = true ∧
    bs = cellGets (ringed bs []).mem.cells 0x110000 64 := by decide
theorem witness_RingOps : (∀ x ∈ ([(1, ringEntry 1 0 64 0), (2, ringEntry 2 7 0 255), (3, ringEntry 3 7 0 0), (4, ringEntry 4 1 0 0)] :
    List (Nat × List Byte)), ringOp x.2 x.1) ∧ (∀ op, 1 ≤ op → op ≤ 4 → ¬ ringOp (ringEntry 5 0 0 0) op) ∧ ¬ ringOp (ringEntry 2 7 0 256) 2 := by
  refine ⟨by decide, ?_, by decide⟩
  intro op h1 h4 h
  have : ringField (ringEntry 5 0 0 0) 0 2 = 5 := by decide
  have := h.1
  omega

/-- The least image: one kind of one team, one launch. -/
def anImage (magic : Nat) : Image :=
  { magic := magic, format := 1, privileged := false, signed := false, chunks := [⟨1, 0, 4⟩], text := [0, 0, 0, 0], rodata := [], data := List.replicate 8 0
    textAlign := 4, rodataAlign := 4, dataAlign := 8, relocs := [], teams := [placedDesc], kinds := [⟨0, 0, 0, 1, false⟩], caps := []
    gates := [], causes := []
    launches := [{ fx := 1, fy := 1, fz := 1, kinds := [0], cohort := false, priority := 7, partition := 0, audit := 0, caps := [], gates := []
                   completion := 0 }], sigOk := false }
/-- The same as it stands in memory at 0x20400, in the page of data: its header, its directory of two chunks, and their bytes; and a ring
entry that loads it. -/
def imageBytes (magic : Nat) : List Byte :=
  bytesOfNat 4 magic ++ bytesOfNat 4 1 ++ bytesOfNat 4 0 ++ bytesOfNat 4 2 ++ bytesOfNat 48 0 ++
    (bytesOfNat 4 1 ++ bytesOfNat 4 96 ++ bytesOfNat 8 4) ++ (bytesOfNat 4 3 ++ bytesOfNat 4 104 ++ bytesOfNat 8 8) ++ bytesOfNat 16 0
def loadEntry (addr : Nat) : List Byte :=
  bytesOfNat 2 1 ++ bytesOfNat 2 0 ++ bytesOfNat 4 0 ++ bytesOfNat 8 addr ++ bytesOfNat 8 112 ++ bytesOfNat 40 0
def imaged (magic : Nat) : State :=
  let s := ringed (loadEntry 0x20400) []
  { s with mem := { s.mem with cells := cellPuts s.mem.cells 0x110400 (imageBytes magic) } }
def imageIn (magic : Nat) : Image :=
  { anImage magic with chunks := [⟨1, 96, 4⟩, ⟨3, 104, 8⟩] }
def nextOne (s : State) : State := { s with run := { s.run with nextHandle := s.run.nextHandle + 1 } }
set_option maxRecDepth 100000 in
theorem witness_ImagesLoad : ∀ magic ∈ ([0x5A445553, 0] : List Nat), ringOp (loadEntry 0x20400) 1 ∧ ringField (loadEntry 0x20400) 8 8 = 0x20400 ∧
    ringField (loadEntry 0x20400) 16 8 = 112 ∧ (imageRead (imaged magic) 1 0x20400 112 0 64).isSome ∧
    imageAt (imaged magic) 1 0x20400 112 (anImage magic) = some (imageIn magic) ∧
    imageOk (imageIn magic) 112 1 1 (sectionBases (imaged magic) 1 (imageIn magic)) = decide (magic = 0x5A445553) := by decide +kernel
set_option maxRecDepth 100000 in
theorem witness_ImagesFit : (loadImage (nextOne (imaged 0x5A445553)) (vcpOf (imaged 0x5A445553) 0) (imageIn 0x5A445553) 7
      (sectionBases (imaged 0x5A445553) 1 (imageIn 0x5A445553))).isSome = true ∧
    imageAt (imaged 0) 1 0x40000 112 (anImage 0) = none := by decide
/-- The same with no frame left in any pool. -/
def fullPools (s : State) : State := { s with front := { s.front with nextChunk := (List.range 16).map fun k => (k, 2 ^ 40), nextFrame := [], freeFrames := [] } }
set_option maxRecDepth 100000 in
theorem witness_ImagesDoNotFit : loadImage (nextOne (fullPools (imaged 0x5A445553))) (vcpOf (imaged 0x5A445553) 0) (imageIn 0x5A445553) 7
    (sectionBases (fullPools (imaged 0x5A445553)) 1 (imageIn 0x5A445553)) = none := by decide

/-- Image 7 of function 0, its one launch declared. -/
def anImageRec : Loaded := { handle := 7, vf := 0, world := 1, asid := 1, launches := demo.front.launches.map fun l => { l with image := 7, state := .ended } }
set_option maxRecDepth 100000 in
theorem witness_RingStarts : (((ringed (ringEntry 2 7 0 0) [anImageRec]).front.images.find? fun i => i.handle == 7 && i.vf == 0) = some anImageRec) ∧
    (ringed (ringEntry 2 7 0 0) [anImageRec]).trust.unlocking = false ∧
    (∃ d, anImageRec.launches[0]? = some d ∧ d.cohort = false ∧ coreServes (ringed (ringEntry 2 7 0 0) [anImageRec]) d.world.toNat 0 = true) ∧
    anImageRec.launches.length ≤ 255 ∧ (∀ l ∈ (ringed (ringEntry 3 7 0 0) [anImageRec]).front.launches, l.image ≠ 7) ∧
    (∃ l, launchOf (ringed (ringEntry 4 1 0 0) []) 1 = some l ∧ l.vf = 0 ∧ l.state = .live) :=
  ⟨by decide, by decide, ⟨_, rfl, by decide, by decide⟩, by decide, by decide, _, rfl, by decide, by decide⟩
/-- No core serves the image's world. -/
def unserved : State := { demo with plant := { demo.plant with clusterWorld := [] } }
theorem witness_RingStartsNowhere : ∀ core, core < 8 * Config.coresPerDie → coreServes unserved 1 core = false := by
  intro core _
  simp [coreServes, clusterOwner, unserved, sget]
/-- A cohort launch of one team, that fits where `tiles` is at most 64. -/
def cohorts (tiles : Nat) : State :=
  let s := { dataPage [] with teams := [], strands := [], threads := [] }
  withLaunch s fun l => { l with num := s.run.nextHandle, cohort := true, began := s.run.nextEv, seed := some 1, created := [], slots := l.slots.map fun k =>
    { k with desc := { k.desc with tiles := tiles } } }
set_option maxRecDepth 100000 in
theorem witness_CohortsStart : (placeCohort (dataPage []).run.nextHandle [⟨0, 0, 0, 0, 0⟩] (cohorts 4)).isSome = true ∧
    (placeCohort (dataPage []).run.nextHandle [⟨0, 0, 0, 0, 0⟩] (cohorts 65)).isSome = false := by decide

/-- A launch with no team left, in each state; its function's error ring. -/
def closing (x : LaunchState) : State :=
  withLaunch { dataPage [] with teams := [], strands := [], threads := [] } fun l => { l with state := x, completion := 0x20008 }
theorem witness_LaunchesEnd : ∀ x ∈ ([.live, .flushing, .ending 0x80, .ended] : List LaunchState), ∃ l, launchOf (closing x) 1 = some l ∧
    l.state = x ∧ spawnCount (closing x) l = 0 ∧ (closing x).mem.redEntries = [] ∧ Memory.wf (closing x).mem.cells = true ∧
    physOf (closing x) l.asid l.completion = some (0x110008, 0) ∧ l.completion % 8 = 0 ∧ tierAt 0x110008 = some 0 ∧
    swf [] (vcpOf (closing x) l.vf).errRing = true := by
  intro x h
  simp only [List.mem_cons, List.not_mem_nil, or_false] at h
  rcases h with rfl | rfl | rfl | rfl <;>
    exact ⟨_, rfl, rfl, by decide, by decide, by decide, by decide, by decide, by decide, by decide⟩
theorem witness_FunctionResets : (vcpOf demo 0).flrBusy = false ∧ (demo.front.launches.map (·.num)).Nodup ∧
    (∃ l ∈ demo.front.launches, l.vf = 0 ∧ l.state ≠ .ended) ∧
    (vcpOf { closing .ended with front := { (closing .ended).front with vcps := [{ newVcp 0 with flrBusy := true }] } } 0).flrBusy = true ∧
    ∀ l ∈ (closing .ended).front.launches, l.vf = 0 → l.state = .ended :=
  ⟨by decide, by decide, ⟨_, List.mem_cons_self, by decide, by decide⟩, by decide, by decide⟩

/-! ### The platform -/

def anError (tested : Bool) : ErrRecord := { die := 0, index := 255, source := 3, addr := 0x100000, unit := .core 0, syndrome := 0, stamp := 0, transient := false, tested := tested }
def erring (tested : Bool) (x : TeamState) : State :=
  { demo with plant := { demo.plant with errors := [anError tested], errNext := [(7, 255)] }, teams := demo.teams.map fun tm => { tm with state := x } }
theorem witness_Errors : (∀ die ∈ ([0, 7] : List Nat), (7 : BitVec 4).toNat < 8 ∧ die < 8) ∧ swf 0 (erring false .running).plant.errNext = true ∧
    swf none (erring false .running).mem.poison = true ∧ poisonOf (erring false .running).mem (0x100000 / 64) = none ∧
    (∃ tm, teamOf (erring false .running) 0 = some tm ∧ tm.place ≠ none ∧ tm.state ≠ .ended ∧ swf none tm.actPoison = true ∧
      sget none tm.actPoison (64 / 4) = none ∧ swf none tm.tilePoison = true ∧ sget none tm.tilePoison (512 * 3 + 5 % 512) = none) ∧
    tierAt (4096 * 0x10000000) = some 1 ∧ ∀ i, i < 64 → poisonOf (erring false .running).mem (64 * 0x10000000 + i) = none :=
  ⟨by decide, by decide, by decide, by decide, ⟨_, rfl, by decide, by decide, by decide, by decide, by decide, by decide⟩, by decide, by decide⟩
theorem witness_SelfTests : ((erring false .running).teams.map (·.tid)).Nodup ∧
    ((erring false .saved).plant.errors.find? fun e => e.die == 0 && e.index == 255 && !e.tested) = some (anError false) ∧ (anError false).unit = .core 0 ∧
    (∃ tm, ((erring false .running).teams.filter fun x => x.place == some 0 && x.role != .handler && (x.state == .running || x.state == .stopping)) = [tm] ∧
      namesTeam (erring false .running) (teamRecord (erring false .running) tm 2) tm .running ∧
      linkOpen (erring false .running) (teamRecord (erring false .running) tm 2)) ∧
    (∀ tm ∈ (erring false .saved).teams, tm.place = some 0 → tm.role ≠ .handler → tm.state ≠ .running ∧ tm.state ≠ .stopping) ∧
    ((erring true .saved).plant.errors.find? fun e => e.die == 0 && e.index == 255 && !e.tested) = none ∧
    (∀ m ∈ (erring true .saved).traps.machineChecks, (0 : Nat) ∉ m.take 2) ∧
    (∃ tm l, onCore (erring false .saved) 0 tm ∧ launchOf (erring false .saved) tm.launch = some l ∧ l.state = .live) ∧
    coreOut (erring false .saved) 0 = false :=
  ⟨by decide, by decide, rfl, ⟨_, rfl, ⟨List.mem_cons_self, by decide, by decide, by decide, by decide, by decide, by decide⟩, by decide⟩, by decide,
    by decide, by decide, ⟨_, _, ⟨List.mem_cons_self, by decide, by decide, by decide⟩, rfl, by decide⟩, by decide⟩
/-- The same for a record of another unit. -/
def erringIn (u : TestUnit) : State := { erring false .saved with plant := { (erring false .saved).plant with errors := [{ anError false with unit := u }] } }
theorem witness_SelfTestUnits : ∀ u ∈ ([.clusterShared 0 3, .memory 0x100000 0x10000, .link 2, .fatal] : List TestUnit),
    ((erringIn u).plant.errors.find? fun e => e.die == 0 && e.index == 255 && !e.tested) = some { anError false with unit := u } ∧ ∀ n, u ≠ .core n := by
  intro u h
  simp only [List.mem_cons, List.not_mem_nil, or_false] at h
  rcases h with rfl | rfl | rfl | rfl <;> exact ⟨by decide, nofun⟩

/-- Core 5 in a power state, idle since 0. -/
def powered (p : Power) (now : DWord) : State :=
  { demo with run := { demo.run with clock := now }, plant := { demo.plant with cores := [⟨5, p, 0, false, 15⟩] } }
theorem witness_Power : coreBusy (powered .on 10000) 5 = false ∧ (coreRec (powered .on 10000) 5).power = .on ∧
    (coreRec (powered .clockGated 500000) 5).power ≠ .powerGated ∧ coreBusy demo 0 = true ∧
    (∀ st ∈ demo.strands, st.core = 5 → st.commit ≠ none) := by decide
theorem witness_PowerTimes : 0 + 10000 ≤ (powered .on 10000).run.clock.toNat ∧ 0 + 500000 ≤ (powered .on 500000).run.clock.toNat := by
  constructor
  · show 0 + 10000 ≤ 10000
    omega
  · show 0 + 500000 ≤ 500000
    omega

/-- A tagged capability in the first granule of the mapped page: of the page's version, of another version, or with Y. -/
def sweeping (c : Cap) : State :=
  { demo with mem := { demo.mem with cells := cellPuts demo.mem.cells 0x100000 c.toBytes, tags := [0x10000] } }
set_option maxRecDepth 100000 in
theorem witness_Sweeps : ∀ x ∈ ([(mintCap 0x10000 16 0x88 1 0, false), (mintCap 0x10000 16 0x88 1 9, true), (mintCap 0x10000 16 0x89 1 9, false)] :
    List (Cap × Bool)), (∀ a ∈ (sweeping x.1).seams.entries, a.asid ≠ 1) ∧ (sweeping x.1).mem.redEntries = [] ∧ (pageLeaf (sweeping x.1) 1 (4096 / 4096)).isSome = true ∧
      capOfBytes (cellGets (sweeping x.1).mem.cells 0x100000 16) (tagAt (sweeping x.1).mem 0x100000) = x.1 ∧
      staleCap (sweeping x.1) 1 (capOfBytes (cellGets (sweeping x.1).mem.cells 0x100000 16) (tagAt (sweeping x.1).mem 0x100000)) = x.2 := by decide
theorem witness_Partitions : idleWorld demo 255 ∧ ¬ idleWorld demo 1 ∧ clusterOwner demo 7 35 = none ∧ clusterOwner demo 0 0 = some 1 ∧
    swf 0 demo.plant.clusterWorld = true ∧ swf 0 demo.trust.meas = true ∧ swf 0 demo.plant.ways = true ∧ freeWay demo 7 ≠ none ∧
    (let s : State := { demo with plant := { demo.plant with ways := (List.range 16).map fun i => (256 * 7 + i, 2 ^ i) } }
     freeWay s 7 = none ∧ sget 0 s.plant.ways (256 * 7 + 255) = 0 ∧ clusterOwner s 7 35 = none) := by decide

def aToken (counter : Nat) : DebugToken :=
  { devid := demo.trust.devid, lifecycle := demo.trust.lifecycle.toNat, counter := counter, digest := 9, sigOk := true }
theorem witness_DebugUnlocks : (demo.front.launches.map (·.num)).Nodup ∧ demo.trust.unlocking = false ∧
    goodToken demo (aToken demo.trust.unlockCounter) ∧ ¬ goodToken demo (aToken (demo.trust.unlockCounter + 1)) ∧
    (∃ l ∈ demo.front.launches, l.state = .live) :=
  ⟨by decide, by decide, by decide, by decide, _, List.mem_cons_self, by decide⟩
theorem witness_PortOpens : let s : State := { withLaunch (erring false .saved) (fun l => { l with state := .ended }) with
      trust := { demo.trust with unlocking := true } }
    s.trust.unlocking = true ∧ (∀ l ∈ s.front.launches, l.state = .ended) ∧ (∀ tm ∈ s.teams, tm.state ≠ .running ∧ tm.state ≠ .stopping) ∧
      s.eng.cmds = [] ∧ s.mem.events = [] ∧ swf 0 s.trust.meas = true :=
  ⟨rfl, by decide, by decide, by decide, by decide, by decide⟩

/-! ### The whole machine -/

/-- The word of `add v3, v1, v2` placed by the helper that the state file gives. -/
def placed (w : Nat) : State := State.reset.withFetchWord 32 w
theorem witness_StepRunsTheDecodedInstruction : ∃ st c s1, choose (placed 0x00304080) = some (.issue st.sid) ∧
    strandOf (placed 0x00304080) st.sid = some st ∧ ctxOf (issueState (placed 0x00304080) st) = some c ∧ repActive c.p.rep = false ∧
    fetchAt (issueState (placed 0x00304080) st) c c.p.pc = (s1, .ok 0x00304080) ∧ (decodeWord? 0x00304080).isSome = true :=
  ⟨_, _, _, rfl, rfl, rfl, by decide, rfl, by decide⟩
theorem witness_StepOfNoInstruction : ∃ st c s1, choose (placed 0x3FF00000) = some (.issue st.sid) ∧
    strandOf (placed 0x3FF00000) st.sid = some st ∧ ctxOf (issueState (placed 0x3FF00000) st) = some c ∧
    fetchAt (issueState (placed 0x3FF00000) st) c c.p.pc = (s1, .ok 0x3FF00000) ∧ decodeWord? 0x3FF00000 = none :=
  ⟨_, _, _, rfl, rfl, rfl, rfl, by decide⟩
/-- Reset, with an event that the world outside calls for; halted. -/
def calling (i : Instr) (halted : Bool) : State := { State.reset with run := { State.reset.run with agenda := [i], halted := halted } }
theorem witness_StepRunsTheAgenda : choose (calling .leaseRenew false) = some .agenda ∧ (calling .leaseRenew false).run.agenda = [.leaseRenew] ∧
    (calling .leaseRenew true).run.halted = true ∧ (∀ i ∈ (calling .leaseRenew true).run.agenda.head?, i ≠ .packageReset) := by
  refine ⟨rfl, rfl, rfl, ?_⟩
  intro i h
  cases h
  nofun
theorem witness_DecodeAndEncodeAgree : ∀ m : Bool, (Instr.add ⟨true, 7⟩ 63 63 63).WellFormed ∧ (encode m (.add ⟨true, 7⟩ 63 63 63)).isSome = true := by
  decide
theorem witness_MemoryCanonicalInEveryStep : ∃ t, MemoryCanonical (placed 0x00304080) ∧ step (placed 0x00304080) = .next t := ⟨_, by decide, rfl⟩
theorem witness_NoStepStops : (∃ c, ctxOf demo = some c) ∧ ∀ i ∈ (calling .leaseRenew false).run.agenda, ∀ m, encode m i = none := by
  refine ⟨⟨_, rfl⟩, ?_⟩
  intro i h m
  cases List.mem_singleton.1 h
  rfl

end Sys2Proof.Tests
end

/-! PROOF. O1: the integer lane instructions (R107 to R115), `fabs`, `fneg` and `fclass` (R120, R126).

The argument has three layers: the value that a meaning computes on machine words is the integer of its rule modulo 2^32
(`..._eq_word`); a meaning is one of the lane shapes with that value (`exec_lane...`); and a lane shape whose registers exist
leaves `afterLanes` (`laneAcc_next` and its companions, from `laneShort_next`). -/

namespace Sys2Proof.LaneArithmetic

open Sys2Proof.Machine Sys2Proof.Claims

/-! ### Integers modulo 2^32 -/

/-- A natural number modulo 2^32. -/
theorem word_natCast (n : Nat) : word n = BitVec.ofNat 32 n := BitVec.ofInt_natCast 32 n

/-- The same, where the integer is written out. -/
theorem ofNat_eq_word {n : Nat} {x : Int} (h : (n : Int) = x) : BitVec.ofNat 32 n = word x := by rw [← h, word_natCast]

@[simp] theorem word_toNat (x : Word) : word x.toNat = x := by
  rw [word_natCast, BitVec.ofNat_toNat, BitVec.setWidth_eq]

@[simp] theorem word_toInt (x : Word) : word x.toInt = x := BitVec.ofInt_toInt

theorem word_add (x y : Int) : word (x + y) = word x + word y := BitVec.ofInt_add x y

theorem word_mul (x y : Int) : word (x * y) = word x * word y := BitVec.ofInt_mul x y

theorem word_neg (x : Int) : word (-x) = -word x := BitVec.ofInt_neg

theorem word_sub (x y : Int) : word (x - y) = word x - word y := by
  rw [Int.sub_eq_add_neg, word_add, word_neg, BitVec.sub_eq_add_neg]

/-! ### Values: sums, products and choices (R107) -/

theorem add_eq_word (x y : Word) : x + y = word (x.toNat + y.toNat) := by
  rw [word_add, word_toNat, word_toNat]

theorem sub_eq_word (x y : Word) : x - y = word (x.toNat - y.toNat) := by
  rw [word_sub, word_toNat, word_toNat]

theorem mul_eq_word (x y : Word) : x * y = word (x.toNat * y.toNat) := by
  rw [word_mul, word_toNat, word_toNat]

theorem mulAdd_eq_word (z x y : Word) : z + x * y = word (z.toNat + x.toNat * y.toNat) := by
  rw [word_add, word_mul, word_toNat, word_toNat, word_toNat]

/-- Clamping to a range that is not empty. -/
theorem clampInt_eq {lo hi : Int} (h : lo ≤ hi) (x : Int) : clampInt lo hi x = max lo (min hi x) := by
  unfold clampInt
  split
  · omega
  · split <;> omega

theorem clampS32_eq_word (x : Int) : clampS32 x = word (max (-2147483648) (min 2147483647 x)) := by
  rw [clampS32, clampInt_eq (by decide)]

theorem minS32_eq_word (x y : Word) : (if x.toInt ≤ y.toInt then x else y) = word (min x.toInt y.toInt) := by
  rw [Int.min_def, apply_ite word, word_toInt, word_toInt]

theorem maxS32_eq_word (x y : Word) : (if y.toInt ≤ x.toInt then x else y) = word (max x.toInt y.toInt) := by
  rw [Int.max_comm, Int.max_def, apply_ite word, word_toInt, word_toInt]

theorem minN32_eq_word (x y : Word) : (if x.toNat ≤ y.toNat then x else y) = word (min x.toNat y.toNat) := by
  rw [Int.min_def, apply_ite word, word_toNat, word_toNat]
  simp only [Int.ofNat_le]

theorem maxN32_eq_word (x y : Word) : (if y.toNat ≤ x.toNat then x else y) = word (max x.toNat y.toNat) := by
  rw [Int.max_comm, Int.max_def, apply_ite word, word_toNat, word_toNat]
  simp only [Int.ofNat_le]

theorem mulHiN32_eq_word (x y : Word) :
    BitVec.ofNat 32 (x.toNat * y.toNat / 2 ^ 32) = word (x.toNat * y.toNat / 4294967296) :=
  ofNat_eq_word (by rw [Int.natCast_ediv, Int.natCast_mul]; rfl)

/-! ### Values: shifts and rotations (R107, R111) -/

theorem shiftLeft_eq_word (x : Word) (n : Nat) : x <<< n = word (x.toNat * 2 ^ n) := by
  rw [← ofNat_eq_word (n := x.toNat * 2 ^ n) (by push_cast; rfl)]
  apply BitVec.eq_of_toNat_eq
  rw [BitVec.toNat_shiftLeft, Nat.shiftLeft_eq, BitVec.toNat_ofNat]

theorem ushiftRight_eq_ofNat (x : Word) (n : Nat) : x >>> n = BitVec.ofNat 32 (x.toNat / 2 ^ n) := by
  rw [← Nat.shiftRight_eq_div_pow, ← BitVec.toNat_ushiftRight, BitVec.ofNat_toNat, BitVec.setWidth_eq]

theorem ushiftRight_eq_word (x : Word) (n : Nat) : x >>> n = word (x.toNat / 2 ^ n) :=
  (ushiftRight_eq_ofNat x n).trans (ofNat_eq_word (by push_cast; rfl))

theorem sshiftRight_eq_word (x : Word) (n : Nat) : x.sshiftRight n = word (x.toInt / 2 ^ n) := by
  rw [BitVec.sshiftRight_eq, Int.shiftRight_eq_div_pow]
  push_cast
  rfl

theorem rotl_eq_word (x : Word) {n : Nat} (h : n < 32) :
    rotl x n = word (x.toNat * 2 ^ n) ||| word (x.toNat / 2 ^ (32 - n)) := by
  rw [rotl, BitVec.rotateLeft_def, Nat.mod_eq_of_lt h, shiftLeft_eq_word, ushiftRight_eq_word]

theorem shAmt_lt (y : Word) : shAmt y < 32 := Nat.mod_lt _ (by decide)

/-! ### Values: bit fields (R110) -/

theorem bfxN32_eq_word (x : Word) (p w : Nat) : BitVec.ofNat 32 (x.toNat / 2 ^ p % 2 ^ w) = word (x.toNat / 2 ^ p % 2 ^ w) :=
  ofNat_eq_word (by push_cast; rfl)

/-- Sign extension of the low n bits: the signed value of a vector of n bits. -/
theorem sextNat_eq_toInt (n x : Nat) (h : n ≠ 0) : sextNat n x = (BitVec.ofNat n x).toInt := by
  have h1 : 2 ^ n = 2 * 2 ^ (n - 1) := by rw [← Nat.pow_succ', Nat.succ_eq_add_one, Nat.sub_add_cancel (by omega)]
  simp only [sextNat, BitVec.toInt_eq_toNat_cond, BitVec.toNat_ofNat]
  by_cases hx : x % 2 ^ n < 2 ^ (n - 1)
  · rw [if_pos hx, if_pos (by omega)]
  · rw [if_neg hx, if_neg (by omega)]

theorem bfxS32_eq_word (x : Word) (p w : Nat) :
    (if w == 0 then 0 else BitVec.ofInt 32 (sextNat w (x.toNat / 2 ^ p))) =
      if w = 0 then 0 else word (BitVec.ofNat w (x.toNat / 2 ^ p)).toInt := by
  by_cases h : w = 0
  · simp [h]
  · simp [h, sextNat_eq_toInt w _ h]

/-- A field of w bits at p put into z, as a number. -/
def putField (z x p w : Nat) : Nat := z / 2 ^ (p + w) * 2 ^ (p + w) + x % 2 ^ w * 2 ^ p + z % 2 ^ p

theorem testBit_putField (z x p w i : Nat) :
    (putField z x p w).testBit i = if p ≤ i ∧ i < p + w then x.testBit (i - p) else z.testBit i := by
  have h : putField z x p w = 2 ^ p * (2 ^ w * (z / 2 ^ (p + w)) + x % 2 ^ w) + z % 2 ^ p := by
    rw [putField, Nat.pow_add, Nat.mul_add, Nat.mul_comm (z / _), Nat.mul_assoc, Nat.mul_comm (x % _)]
  rw [h, Nat.testBit_two_pow_mul_add _ (Nat.mod_lt _ (Nat.two_pow_pos p)),
    Nat.testBit_two_pow_mul_add _ (Nat.mod_lt _ (Nat.two_pow_pos w))]
  by_cases h1 : i < p
  · rw [if_pos h1, if_neg (by omega), Nat.testBit_mod_two_pow, decide_eq_true h1, Bool.true_and]
  · rw [if_neg h1]
    by_cases h2 : i - p < w
    · rw [if_pos h2, if_pos (by omega), Nat.testBit_mod_two_pow, decide_eq_true h2, Bool.true_and]
    · rw [if_neg h2, if_neg (by omega), Nat.testBit_div_two_pow]
      congr 1
      omega

theorem bfi_eq_word (z x : Word) (p w : Nat) :
    (z &&& ~~~(BitVec.ofNat 32 ((2 ^ w - 1) * 2 ^ p))) ||| ((x <<< p) &&& BitVec.ofNat 32 ((2 ^ w - 1) * 2 ^ p)) =
      word (z.toNat / 2 ^ (p + w) * 2 ^ (p + w) + x.toNat % 2 ^ w * 2 ^ p + z.toNat % 2 ^ p) := by
  rw [← ofNat_eq_word (n := putField z.toNat x.toNat p w) (by rw [putField]; push_cast; rfl)]
  apply BitVec.eq_of_getLsbD_eq
  intro i hi
  simp only [BitVec.getLsbD_or, BitVec.getLsbD_and, BitVec.getLsbD_not, BitVec.getLsbD_shiftLeft, BitVec.getLsbD_ofNat,
    testBit_putField, Nat.testBit_mul_two_pow, Nat.testBit_two_pow_sub_one, BitVec.testBit_toNat, hi, decide_true,
    Bool.true_and]
  by_cases h1 : p ≤ i
  · by_cases h2 : i < p + w
    · simp [h1, h2, show i - p < w by omega, show ¬i < p by omega]
    · simp [h1, h2, show ¬i - p < w by omega]
  · simp [h1]

/-! ### Values: bit counts and reversal (R108) -/

theorem cpopNatRec_eq_count {n : Nat} (x : BitVec n) (k : Nat) :
    x.cpopNatRec k 0 = ((List.range k).filter x.getLsbD).length := by
  induction k with
  | zero => rfl
  | succ k ih =>
    rw [BitVec.cpopNatRec_succ, BitVec.cpopNatRec_eq, ih, List.range_succ, List.filter_append, List.length_append]
    cases h : x.getLsbD k <;> simp [h]

theorem popcount_eq_cpop (x : Word) : BitVec.ofNat 32 (popcount x) = x.cpop := by
  rw [popcount, ← cpopNatRec_eq_count, BitVec.cpop]

theorem toNat_ne_zero {x : Word} (h : x ≠ 0) : x.toNat ≠ 0 := fun h' => h (BitVec.eq_of_toNat_eq h')

theorem clz_toNat_lt {x : Word} (h : x ≠ 0) : x.clz.toNat < 32 := BitVec.lt_def.1 (BitVec.clz_lt_iff_ne_zero.2 h)

/-- The highest 1 bit stands below the leading zeros. -/
theorem log2_eq_of_ne_zero {x : Word} (h : x ≠ 0) : x.toNat.log2 = 31 - x.clz.toNat := by
  have hlt := clz_toNat_lt h
  rw [Nat.log2_eq_iff (toNat_ne_zero h)]
  refine ⟨BitVec.two_pow_sub_clz_le_toNat_of_ne_zero (by decide) h, ?_⟩
  have h1 : 31 - x.clz.toNat + 1 = 32 - x.clz.toNat := by omega
  rw [h1]
  exact BitVec.toNat_lt_two_pow_sub_clz

theorem leadingZeros_eq_clz (x : Word) : BitVec.ofNat 32 (leadingZeros x) = x.clz := by
  by_cases h : x = 0
  · subst h
    exact (BitVec.clz_eq_iff_eq_zero.2 rfl).symm
  · have hlt := clz_toNat_lt h
    have h1 : leadingZeros x = x.clz.toNat := by
      simp only [leadingZeros, beq_iff_eq, toNat_ne_zero h, if_false, log2_eq_of_ne_zero h]
      omega
    rw [h1, BitVec.ofNat_toNat, BitVec.setWidth_eq]

theorem trailingZeros_eq_ctz (x : Word) : BitVec.ofNat 32 (trailingZeros x) = x.ctz := by
  by_cases h : x = 0
  · subst h
    exact (BitVec.clz_eq_iff_eq_zero.2 (BitVec.reverse_eq_zero_iff.2 rfl)).symm
  · have hlt : x.ctz.toNat < 32 := BitVec.lt_def.1 (BitVec.ctz_lt_iff_ne_zero.2 h)
    have h1 : (List.range 32).find? x.getLsbD = some x.ctz.toNat := by
      rw [List.find?_range_eq_some]
      refine ⟨BitVec.getLsbD_true_ctz_of_ne_zero h, List.mem_range.2 hlt, ?_⟩
      intro j hj
      rw [BitVec.getLsbD_false_of_lt_ctz hj]
      rfl
    rw [trailingZeros, h1, Option.getD_some, BitVec.ofNat_toNat, BitVec.setWidth_eq]

/-- After k steps of the reversal the top k bits are in place. -/
theorem getLsbD_reverse_steps (x : Word) (k i : Nat) (hk : k ≤ 32) (hi : i < 32) :
    ((List.range k).foldl (fun r j => if x.getLsbD j then r ||| (1#32 <<< (31 - j)) else r) 0).getLsbD i =
      (decide (31 - i < k) && x.getLsbD (31 - i)) := by
  induction k with
  | zero => simp
  | succ k ih =>
    have ih := ih (by omega)
    rw [List.range_succ, List.foldl_append, List.foldl_cons, List.foldl_nil, apply_ite (BitVec.getLsbD · i),
      BitVec.getLsbD_or, ih]
    have hbit : (1#32 <<< (31 - k)).getLsbD i = decide (31 - i = k) := by
      simp only [BitVec.getLsbD_shiftLeft, BitVec.getLsbD_one, hi, decide_true, Bool.true_and]
      by_cases h : 31 - i = k
      · simp [h, show ¬i < 31 - k by omega, show i - (31 - k) = 0 by omega]
      · by_cases h' : i < 31 - k
        · simp [h, h']
        · simp [h, h', show i - (31 - k) ≠ 0 by omega]
    rw [hbit]
    by_cases h : 31 - i = k
    · subst h
      cases x.getLsbD (31 - i) <;> simp
    · have h' : (31 - i < k + 1) ↔ (31 - i < k) := by omega
      simp [h, h']

theorem reverseBits_eq_reverse (x : Word) : reverseBits x = x.reverse := by
  apply BitVec.eq_of_getLsbD_eq
  intro i hi
  rw [reverseBits, getLsbD_reverse_steps x 32 i (by decide) hi, BitVec.getLsbD_reverse, BitVec.getMsbD]
  simp [hi, show 31 - i < 32 by omega]

/-! ### Values: signs and classes (R110, R120, R126) -/

theorem absS32_eq_word (x : Word) : (if x.getLsbD 31 then -x else x) = word x.toInt.natAbs := by
  have hmsb : x.getLsbD 31 = decide (x.toInt < 0) := by rw [← BitVec.msb_eq_toInt]; rfl
  rw [hmsb]
  by_cases h : x.toInt < 0
  · rw [if_pos (by simp [h]), Int.ofNat_natAbs_of_nonpos (Int.le_of_lt h), word_neg, word_toInt]
  · rw [if_neg (by simp [h]), Int.natAbs_of_nonneg (by omega), word_toInt]

theorem fabs_eq_ofNat (x : Word) : x &&& 0x7FFFFFFF = BitVec.ofNat 32 (x.toNat % 2147483648) := by
  apply BitVec.eq_of_toNat_eq
  have h : x.toNat &&& 2 ^ 31 - 1 = x.toNat % 2 ^ 31 := Nat.and_two_pow_sub_one_eq_mod x.toNat 31
  rw [BitVec.toNat_and, BitVec.toNat_ofNat, Nat.mod_eq_of_lt (by omega)]
  exact h

/-- Adding 2^31 modulo 2^32 complements bit 31 alone. -/
theorem fneg_eq_word (x : Word) : x ^^^ 0x80000000 = word (x.toNat + 2147483648) := by
  rw [← ofNat_eq_word (n := 2 ^ 31 + x.toNat) (by omega)]
  apply BitVec.eq_of_getLsbD_eq
  intro i hi
  have hbit : (0x80000000 : Word).getLsbD i = decide (31 = i) := by
    rw [show (0x80000000 : Word) = BitVec.ofNat 32 (2 ^ 31) from rfl, BitVec.getLsbD_ofNat, Nat.testBit_two_pow]
    simp [hi]
  rw [BitVec.getLsbD_xor, hbit, BitVec.getLsbD_ofNat, decide_eq_true hi, Bool.true_and]
  by_cases h31 : 31 = i
  · subst h31
    rw [Nat.testBit_two_pow_add_eq, BitVec.testBit_toNat, decide_eq_true rfl, Bool.xor_true]
  · rw [Nat.testBit_two_pow_add_gt (by omega), BitVec.testBit_toNat, decide_eq_false h31, Bool.xor_false]

theorem fclass_eq_word (n : Nat) : BitVec.ofNat 32 (2 ^ n) = word (2 ^ n) :=
  ofNat_eq_word (by push_cast; rfl)

/-! ### Values: immediates and relations (R111, R113) -/

theorem sx32_eq_word {n : Nat} (i : BitVec n) : sx32 i = word i.toInt := rfl

theorem zx32_eq_word {n : Nat} (i : BitVec n) : zx32 i = word i.toNat := by
  rw [word_natCast, BitVec.ofNat_toNat, zx32]

theorem addi_eq_word (x : Word) (i : BitVec 8) : x + sx32 i = word (x.toInt + i.toInt) := by
  rw [word_add, word_toInt, sx32_eq_word]

/-- The Boolean equality of two integers is the decision of their equality. -/
theorem beq_eq_decide_int (x y : Int) : (x == y) = decide (x = y) := rfl

theorem relation_eq_relates (cc : BitVec 3) (x y : Int) : relation cc.toNat x y = relates cc x y := by
  have h : ∀ c : BitVec 3, c = 0 ∨ c = 1 ∨ c = 2 ∨ c = 3 ∨ c = 4 ∨ c = 5 ∨ c = 6 ∨ c = 7 := by decide
  rcases h cc with rfl | rfl | rfl | rfl | rfl | rfl | rfl | rfl <;>
    simp [relation, relates, bne, beq_eq_decide_int]

/-! ### Lane shapes: the state that each leaves where its registers exist -/

theorem laneAcc_next {s : State} {c : Ctx} (h : ctxOf s = some c) (g : Guard) (d a b : BitVec 6) (f : Word → Word → Word → Word)
    (hv : c.vOk [d.toNat, a.toNat, b.toNat] = true) :
    laneAcc g d a b f s = .next (afterLanes s c g fun t =>
      [.v d.toNat (f (t.getV d.toNat) (t.getV a.toNat) (t.getV b.toNat))]) :=
  laneShort_next h g _ _ hv fun _ _ => rfl

theorem laneUn_next {s : State} {c : Ctx} (h : ctxOf s = some c) (g : Guard) (d a : BitVec 6) (f : Word → Word)
    (hv : c.vOk [d.toNat, a.toNat] = true) :
    laneUn g d a f s = .next (afterLanes s c g fun t => [.v d.toNat (f (t.getV a.toNat))]) :=
  laneShort_next h g _ _ hv fun _ _ => rfl

theorem lanePred_next {s : State} {c : Ctx} (h : ctxOf s = some c) (g : Guard) (d a b : BitVec 3) (x y : BitVec 1)
    (f : Bool → Bool → Bool) :
    lanePred g d a b x y f s = .next (afterLanes s c g fun t =>
      [.p d.toNat (f (t.getP a.toNat != (x == 1)) (t.getP b.toNat != (y == 1)))]) :=
  laneShort_next h g (fun _ => true) _ rfl fun _ _ => rfl

/-- A shape of two sources is the shape of three whose value does not depend on the old v[d]. -/
theorem laneBin_eq_laneAcc {f r : Word → Word → Word} (h : ∀ x y, f x y = r x y) (g : Guard) (d a b : BitVec 6) (s : State) :
    laneBin g d a b f s = laneAcc g d a b (fun _ => r) s := by
  rw [show f = r from funext fun x => funext (h x)]
  rfl

theorem laneAcc_congr {f r : Word → Word → Word → Word} (h : ∀ z x y, f z x y = r z x y) (g : Guard) (d a b : BitVec 6)
    (s : State) : laneAcc g d a b f s = laneAcc g d a b r s := by
  rw [show f = r from funext fun z => funext fun x => funext (h z x)]

theorem laneUn_congr {f r : Word → Word} (h : ∀ x, f x = r x) (g : Guard) (d a : BitVec 6) (s : State) :
    laneUn g d a f s = laneUn g d a r s := by
  rw [show f = r from funext h]

/-! ### Meanings: the shape and the value of each instruction of the tables -/

theorem exec_laneTernary : ∀ e ∈ laneTernary, ∀ (g : Guard) (d a b : BitVec 6) (s : State),
    exec (e.1 g d a b) s = laneAcc g d a b e.2 s := by
  simp only [laneTernary, List.forall_mem_cons, List.not_mem_nil, false_imp_iff, implies_true, and_true]
  exact ⟨
    fun g d a b => laneBin_eq_laneAcc add_eq_word g d a b,
    fun g d a b => laneBin_eq_laneAcc sub_eq_word g d a b,
    fun g d a b => laneBin_eq_laneAcc (fun x y => clampS32_eq_word (x.toInt + y.toInt)) g d a b,
    fun g d a b => laneBin_eq_laneAcc (fun x y => clampS32_eq_word (x.toInt - y.toInt)) g d a b,
    fun g d a b => laneBin_eq_laneAcc minS32_eq_word g d a b,
    fun g d a b => laneBin_eq_laneAcc maxS32_eq_word g d a b,
    fun g d a b => laneBin_eq_laneAcc minN32_eq_word g d a b,
    fun g d a b => laneBin_eq_laneAcc maxN32_eq_word g d a b,
    fun g d a b => laneBin_eq_laneAcc mul_eq_word g d a b,
    fun _ _ _ _ _ => rfl,
    fun g d a b => laneBin_eq_laneAcc mulHiN32_eq_word g d a b,
    fun g d a b => laneAcc_congr mulAdd_eq_word g d a b,
    fun _ _ _ _ _ => rfl,
    fun _ _ _ _ _ => rfl,
    fun _ _ _ _ _ => rfl,
    fun _ _ _ _ _ => rfl,
    fun g d a b => laneBin_eq_laneAcc (fun x y => shiftLeft_eq_word x (shAmt y)) g d a b,
    fun g d a b => laneBin_eq_laneAcc (fun x y => ushiftRight_eq_word x (shAmt y)) g d a b,
    fun g d a b => laneBin_eq_laneAcc (fun x y => sshiftRight_eq_word x (shAmt y)) g d a b,
    fun g d a b => laneBin_eq_laneAcc (fun x y => rotl_eq_word x (shAmt_lt y)) g d a b,
    fun g d a b => laneBin_eq_laneAcc (fun x y => bfxN32_eq_word x (fieldPos y) (fieldWidth y)) g d a b,
    fun g d a b => laneBin_eq_laneAcc (fun x y => bfxS32_eq_word x (fieldPos y) (fieldWidth y)) g d a b,
    fun g d a b => laneAcc_congr (fun z x y => bfi_eq_word z x (fieldPos y) (fieldWidth y)) g d a b⟩

theorem exec_laneUnary : ∀ e ∈ laneUnary, ∀ (g : Guard) (d a : BitVec 6) (s : State),
    exec (e.1 g d a) s = laneUn g d a e.2 s := by
  simp only [laneUnary, List.forall_mem_cons, List.not_mem_nil, false_imp_iff, implies_true, and_true]
  exact ⟨
    fun g d a => laneUn_congr popcount_eq_cpop g d a,
    fun g d a => laneUn_congr leadingZeros_eq_clz g d a,
    fun g d a => laneUn_congr trailingZeros_eq_ctz g d a,
    fun g d a => laneUn_congr reverseBits_eq_reverse g d a,
    fun g d a => laneUn_congr absS32_eq_word g d a,
    fun _ _ _ _ => rfl,
    fun g d a => laneUn_congr fabs_eq_ofNat g d a,
    fun g d a => laneUn_congr fneg_eq_word g d a,
    fun g d a => laneUn_congr (fun x => fclass_eq_word (f32.classBit x.toNat)) g d a⟩

theorem exec_laneImmediate : ∀ e ∈ laneImmediate, ∀ (g : Guard) (d a : BitVec 6) (i : BitVec 8) (s : State),
    exec (e.1 g d a i) s = laneUn g d a (fun x => e.2 x i) s := by
  simp only [laneImmediate, List.forall_mem_cons, List.not_mem_nil, false_imp_iff, implies_true, and_true]
  exact ⟨
    fun g d a i => laneUn_congr (fun x => addi_eq_word x i) g d a,
    fun g d a i => laneUn_congr (fun x => congrArg (x &&& ·) (sx32_eq_word i)) g d a,
    fun g d a i => laneUn_congr (fun x => congrArg (x ||| ·) (zx32_eq_word i)) g d a,
    fun g d a i => laneUn_congr (fun x => congrArg (x ^^^ ·) (zx32_eq_word i)) g d a⟩

theorem exec_laneShift : ∀ e ∈ laneShift, ∀ (g : Guard) (d a : BitVec 6) (i : BitVec 5) (s : State),
    exec (e.1 g d a i) s = laneUn g d a (fun x => e.2 x i.toNat) s := by
  simp only [laneShift, List.forall_mem_cons, List.not_mem_nil, false_imp_iff, implies_true, and_true]
  exact ⟨
    fun g d a i => laneUn_congr (fun x => shiftLeft_eq_word x i.toNat) g d a,
    fun g d a i => laneUn_congr (fun x => ushiftRight_eq_word x i.toNat) g d a,
    fun g d a i => laneUn_congr (fun x => sshiftRight_eq_word x i.toNat) g d a,
    fun g d a i => laneUn_congr (fun x => rotl_eq_word x (BitVec.isLt i)) g d a⟩

theorem exec_lanePredicate : ∀ e ∈ lanePredicate, ∀ (g : Guard) (d a b : BitVec 3) (x y : BitVec 1) (s : State),
    exec (e.1 g d a b x y) s = lanePred g d a b x y e.2 s := by
  simp only [lanePredicate, List.forall_mem_cons, List.not_mem_nil, false_imp_iff, implies_true, and_true]
  exact ⟨fun _ _ _ _ _ _ _ => rfl, fun _ _ _ _ _ _ _ => rfl, fun _ _ _ _ _ _ _ => rfl, fun _ _ _ _ _ _ _ => rfl⟩

/-! ### Comparisons (R113) -/

/-- The relation of two operands read by the type field, as s32 (0) or as n32. -/
theorem relation_byType (cc : BitVec 3) (t : BitVec 2) (xs xn ys yn : Int) :
    relation cc.toNat (if t == 0 then xs else xn) (if t == 0 then ys else yn) =
      if t = 0 then relates cc xs ys else relates cc xn yn := by
  rw [relation_eq_relates]
  by_cases h : t = 0
  · simp only [h, beq_self_eq_true, if_true]
  · simp only [h, beq_eq_false_iff_ne.2 h, Bool.false_eq_true, if_false]

theorem exec_icmp {s : State} {c : Ctx} (h : ctxOf s = some c) (g : Guard) (p cc : BitVec 3) (a b : BitVec 6) (t : BitVec 2)
    (hv : c.vOk [a.toNat, b.toNat] = true) :
    exec (.icmp g p cc a b t) s = .next (afterLanes s c g fun u =>
      [.p p.toNat (if t = 0 then relates cc (u.getV a.toNat).toInt (u.getV b.toNat).toInt
        else relates cc (u.getV a.toNat).toNat (u.getV b.toNat).toNat)]) := by
  refine (laneShort_next h g _ _ hv fun _ _ => rfl).trans ?_
  refine congrArg _ (afterLanes_congr fun u _ => ?_)
  exact congrArg (fun r => [Write.p p.toNat r]) (relation_byType cc t _ _ _ _)

theorem exec_icmpi {s : State} {c : Ctx} (h : ctxOf s = some c) (g : Guard) (p cc : BitVec 3) (a i : BitVec 6) (t : BitVec 2)
    (hv : c.vOk [a.toNat] = true) :
    exec (.icmpi g p cc a i t) s = .next (afterLanes s c g fun u =>
      [.p p.toNat (if t = 0 then relates cc (u.getV a.toNat).toInt i.toInt
        else relates cc (u.getV a.toNat).toNat i.toNat)]) := by
  refine (laneShort_next h g _ _ hv fun _ _ => rfl).trans ?_
  refine congrArg _ (afterLanes_congr fun u _ => ?_)
  exact congrArg (fun r => [Write.p p.toNat r]) (relation_byType cc t _ _ _ _)

/-! ### The statement -/

/-- Settles O1: each instruction of the tables is a lane shape with the value of its rule, and a shape whose registers
exist leaves that value in the active threads and nothing else changed. -/
theorem laneArithmeticGivesItsValue : Obligations.LaneArithmeticGivesItsValue := by
  unfold Obligations.LaneArithmeticGivesItsValue
  refine ⟨?ternary, ⟨?unary, ?immediate, ?shift⟩, ?icmp, ?icmpi, ?predicate⟩
  case ternary =>
    intro e he g d a b s c h hv
    rw [exec_laneTernary e he, laneAcc_next h g d a b e.2 hv]
  case unary =>
    intro e he g d a s c h hv
    rw [exec_laneUnary e he, laneUn_next h g d a e.2 hv]
  case immediate =>
    intro e he g d a i s c h hv
    rw [exec_laneImmediate e he, laneUn_next h g d a _ hv]
  case shift =>
    intro e he g d a i s c h hv
    rw [exec_laneShift e he, laneUn_next h g d a _ hv]
  case icmp =>
    intro g p cc a b t s c h hv
    exact exec_icmp h g p cc a b t hv
  case icmpi =>
    intro g p cc a i t s c h hv
    exact exec_icmpi h g p cc a i t hv
  case predicate =>
    intro e he g d a b x y s c h
    rw [exec_lanePredicate e he, lanePred_next h g d a b x y e.2]

end Sys2Proof.LaneArithmetic

/-! PROOF. O7: the polls (R147), the reductions (R148, R149, R151) and the scan (R150, R151).

The argument has three layers: what a fold over the slots is (the bits of a slot mask, the tree of a bitwise operation, the
running prefixes); what a lane shape leaves when every lane passes (`laneShort_ok`, `laneLong_ok`, and `laneRed_next` and
`laneIdx_next` for the shapes of the reductions); and which shape each instruction of the tables is (`exec_lane...`). -/

namespace Sys2Proof.LaneReductions

open Sys2Proof.Machine Sys2Proof.Claims Sys2Proof.LaneArithmetic

/-! ### Lane shapes whose lanes all pass -/

/-- A short lane instruction whose registers exist, with the writes of each active thread. -/
theorem laneShort_ok {s : State} {c : Ctx} (h : ctxOf s = some c) {g : Guard} {legal : Ctx → Bool}
    {f : Ctx → State → Thread → LaneRes} {w : Thread → List Write} (hl : legal c = true)
    (hf : ∀ t ∈ c.active s g, f c s t = .ok (w t)) : laneShort s g legal f = .next (afterLanes s c g w) := by
  rw [laneShort_next h g legal f hl fun t ht => congrArg LaneRes.fail (hf t ht)]
  exact congrArg _ (afterLanes_congr fun t ht => congrArg LaneRes.writes (hf t ht))

/-- A long lane instruction whose registers exist and that has room in RB, with the writes of each active thread. -/
theorem laneLong_ok {s : State} {c : Ctx} (h : ctxOf s = some c) {g : Guard} {legal : Ctx → Bool}
    {f : Ctx → State → Thread → LaneRes} {w : Thread → List Write} (hl : legal c = true) (hr : rbRoom c)
    (hf : ∀ t ∈ c.active s g, f c s t = .ok (w t)) : laneLong s g legal f = .next (afterLong s c g w) := by
  rw [laneLong_next h g legal f hl hr fun t ht => congrArg LaneRes.fail (hf t ht)]
  exact congrArg _ (afterLong_congr fun t ht => congrArg LaneRes.writes (hf t ht))

/-- R74: a thread in which no raised flag is trap-enabled takes the writes and the flags. -/
theorem fpResult_of_untrapped {t : Thread} {fl : Flags} (h : untrapped t fl) (ws : List Write) :
    fpResult t ws fl = .ok (ws ++ [.flags fl]) := by
  rw [fpResult, show fpTraps t.fpcsr fl = false from h, if_neg Bool.false_ne_true]

theorem untrapped_zero (t : Thread) : untrapped t 0 := by
  simp [untrapped, fpTraps]

/-! ### Slots of the active threads -/

theorem slot_eq_of_slotThread {s : State} {sid i : Nat} {t : Thread} (h : slotThread s sid i = some t) : t.slot = i := by
  have h1 := List.find?_some h
  simp only [Bool.and_eq_true, beq_iff_eq] at h1
  obtain ⟨⟨-, hslot⟩, -⟩ := h1
  exact hslot

theorem slot_lt_of_mem_presentOf {s : State} {sid : Nat} {p : Path} {t : Thread} (h : t ∈ presentOf s sid p) :
    t.slot < 32 := by
  obtain ⟨i, hi, h1⟩ := List.mem_filterMap.1 h
  split at h1
  · split at h1
    · next u hu =>
      obtain ⟨-, h2⟩ := Option.ite_none_right_eq_some.1 h1
      rw [← Option.some.inj h2, slot_eq_of_slotThread hu]
      exact List.mem_range.1 hi
    · cases h1
  · cases h1

theorem slot_lt_of_mem_active {s : State} {c : Ctx} {g : Guard} {t : Thread} (h : t ∈ c.active s g) : t.slot < 32 := by
  have h1 : t ∈ executing s c.st.sid c.p := (List.mem_filter.1 h).1
  rw [executing] at h1
  split at h1
  · exact slot_lt_of_mem_presentOf (List.mem_of_mem_take h1)
  · exact slot_lt_of_mem_presentOf h1

/-! ### Polls (R147) -/

/-- Setting the bits of a list of slots in a mask. -/
theorem getLsbD_foldl_slots (slots : List Nat) (m : BitVec 32) {i : Nat} (hi : i < 32) :
    (slots.foldl (fun m j => m ||| (1#32 <<< j)) m).getLsbD i = (m.getLsbD i || slots.any (· == i)) := by
  induction slots generalizing m with
  | nil => simp
  | cons j slots ih =>
    have hbit : (1#32 <<< j).getLsbD i = (j == i) := by
      simp only [BitVec.getLsbD_shiftLeft, BitVec.getLsbD_one, hi, decide_true, Bool.true_and]
      by_cases h : j = i
      · simp [h]
      · by_cases h' : i < j
        · simp [h, h']
        · simp [h, h', show i - j ≠ 0 by omega]
    rw [List.foldl_cons, ih, BitVec.getLsbD_or, hbit, List.any_cons, Bool.or_assoc]

theorem getLsbD_maskOf (slots : List Nat) {i : Nat} (hi : i < 32) :
    (maskOf slots).getLsbD i = slots.any (· == i) := by
  rw [maskOf, getLsbD_foldl_slots slots 0 hi, show (0 : BitVec 32) = 0#32 from rfl, BitVec.getLsbD_zero, Bool.false_or]

theorem not_isEmpty_pollSlots (s : State) (c : Ctx) (g : Guard) (a : BitVec 3) :
    (!(pollSlots s c g a).isEmpty) = (c.active s g).any fun t => t.getP a.toNat := by
  rw [pollSlots, List.isEmpty_map, Bool.eq_iff_iff]
  simp

theorem any_pollSlots (s : State) (c : Ctx) (g : Guard) (a : BitVec 3) (i : Nat) :
    (pollSlots s c g a).any (· == i) = (c.active s g).any fun t => t.slot == i && t.getP a.toNat := by
  rw [pollSlots, List.any_map, List.any_filter]
  simp only [Function.comp_apply, Bool.and_comm]

theorem length_pollSlots (s : State) (c : Ctx) (g : Guard) (a : BitVec 3) :
    (pollSlots s c g a).length = (c.active s g).countP fun t => t.getP a.toNat := by
  rw [pollSlots, List.length_map, List.countP_eq_length_filter]

section
variable {s : State} {c : Ctx} (h : ctxOf s = some c) (g : Guard) (a : BitVec 3)
include h

theorem exec_pollAny (d : BitVec 3) : exec (.pollAny g d a) s = .next (afterLanes s c g fun _ =>
    [.p d.toNat ((c.active s g).any fun t => t.getP a.toNat)]) :=
  laneShort_ok h rfl fun _ _ => congrArg (fun b => LaneRes.ok [.p d.toNat b]) (not_isEmpty_pollSlots s c g a)

theorem exec_pollAll (d : BitVec 3) : exec (.pollAll g d a) s = .next (afterLanes s c g fun _ =>
    [.p d.toNat (!((c.active s g).any fun t => !t.getP a.toNat))]) :=
  laneShort_ok h rfl fun _ _ => congrArg (fun b => LaneRes.ok [.p d.toNat b]) List.all_eq_not_any_not

theorem exec_pollMask (d : BitVec 6) (hv : c.vOk [d.toNat] = true) :
    exec (.pollMask g d a) s = .next (afterLanes s c g fun _ => [.v d.toNat (maskOf (pollSlots s c g a))]) :=
  laneShort_ok h hv fun _ _ => rfl

theorem exec_pollCount (d : BitVec 6) (hv : c.vOk [d.toNat] = true) :
    exec (.pollCount g d a) s = .next (afterLanes s c g fun _ =>
      [.v d.toNat (word ((c.active s g).countP fun t => t.getP a.toNat))]) :=
  laneShort_ok h hv fun _ _ => congrArg (fun x => LaneRes.ok [.v d.toNat x])
    (ofNat_eq_word (congrArg Nat.cast (length_pollSlots s c g a)))

end

/-! ### Reductions (R148, R151) -/

theorem slotOperands_eq_map (s : State) (c : Ctx) (g : Guard) (a : BitVec 6) (unit : Word) :
    slotOperands s c g a.toNat unit = (List.range 32).map (slotValue s c g unit a) := by
  refine List.map_congr_left fun i _ => ?_
  rw [slotValue]
  cases (c.active s g).find? fun t => t.slot == i <;> rfl

/-- Every active thread takes the root of the tree and the union of its flags. -/
theorem laneRed_next {s : State} {c : Ctx} (h : ctxOf s = some c) (g : Guard) (d a : BitVec 6)
    (hv : c.vOk [d.toNat, a.toNat] = true) (hr : rbRoom c) (op : LaneOp) (unit : Word) {r : Word × Flags}
    (hop : treeFold op 5 ((List.range 32).map (slotValue s c g unit a)) = r) (hp : ∀ t ∈ c.active s g, untrapped t r.2) :
    laneRed g d a op unit s = .next (afterLong s c g fun _ => [.v d.toNat r.1, .flags r.2]) := by
  refine laneLong_ok h hv hr fun t ht => ?_
  simp only [slotOperands_eq_map, hop]
  exact fpResult_of_untrapped (hp t ht) _

theorem exec_laneReduceTyped : ∀ e ∈ laneReduceTyped, ∀ (g : Guard) (d a : BitVec 6) (ty : BitVec 3) (s : State),
    exec (e.1 g d a ty) s = laneRed g d a (e.2.1 ty.toNat) (e.2.2 ty.toNat) s := by
  simp only [laneReduceTyped, List.forall_mem_cons, List.not_mem_nil, false_imp_iff, implies_true, and_true]
  exact ⟨fun _ _ _ _ _ => rfl, fun _ _ _ _ _ => rfl, fun _ _ _ _ _ => rfl⟩

/-- A flagless operation as an operation on lanes. -/
def quiet (f : Word → Word → Word) : LaneOp := fun x y => (f x y, 0)

theorem exec_laneReduceBits : ∀ e ∈ laneReduceBits, ∀ (g : Guard) (d a : BitVec 6) (s : State),
    exec (e.1 g d a) s = laneRed g d a (quiet e.2.1) e.2.2 s := by
  simp only [laneReduceBits, List.forall_mem_cons, List.not_mem_nil, false_imp_iff, implies_true, and_true]
  exact ⟨fun _ _ _ _ => rfl, fun _ _ _ _ => rfl, fun _ _ _ _ => rfl⟩

/-- The tree of an associative operation with an identity is its fold from left to right. -/
theorem treeFold_quiet {f : Word → Word → Word} {u : Word} [Std.Associative f] [hu : Std.LawfulIdentity f u] (n : Nat)
    (xs : List Word) (hx : xs.length = 2 ^ n) : treeFold (quiet f) n xs = (xs.foldl f u, 0) := by
  induction n generalizing xs with
  | zero =>
    obtain ⟨x, rfl⟩ := List.length_eq_one_iff.1 hx
    rw [List.foldl_cons, List.foldl_nil, hu.left_id]
    rfl
  | succ n ih =>
    have hpow : 2 ^ (n + 1) = 2 ^ n + 2 ^ n := by rw [Nat.pow_succ]; omega
    have htake : (xs.take (2 ^ n)).length = 2 ^ n := by rw [List.length_take]; omega
    have hdrop : (xs.drop (2 ^ n)).length = 2 ^ n := by rw [List.length_drop]; omega
    have hfold : f ((xs.take (2 ^ n)).foldl f u) ((xs.drop (2 ^ n)).foldl f u) = xs.foldl f u := by
      rw [← List.foldl_assoc (op := f), hu.right_id, ← List.foldl_append, List.take_append_drop]
    simp only [treeFold, ih _ htake, ih _ hdrop, quiet, hfold, BitVec.or_self]

theorem treeFold_laneReduceBits : ∀ e ∈ laneReduceBits, ∀ (n : Nat) (xs : List Word), xs.length = 2 ^ n →
    treeFold (quiet e.2.1) n xs = (xs.foldl e.2.1 e.2.2, 0) := by
  simp only [laneReduceBits, List.forall_mem_cons, List.not_mem_nil, false_imp_iff, implies_true, and_true]
  have hand : Std.LawfulIdentity (fun x y : Word => x &&& y) (BitVec.allOnes 32) := inferInstance
  have hor : Std.LawfulIdentity (fun x y : Word => x ||| y) 0#32 := inferInstance
  have hxor : Std.LawfulIdentity (fun x y : Word => x ^^^ y) 0#32 := inferInstance
  exact ⟨treeFold_quiet (hu := hand), treeFold_quiet (hu := hor), treeFold_quiet (hu := hxor)⟩

/-! ### Index forms (R149) -/

/-- The pair that a slot of the strand supplies: that of the active thread there, or the identity pair. -/
def slotPair (s : State) (c : Ctx) (g : Guard) (unit : Word × Word) (a : BitVec 6) (i : Nat) : Word × Word :=
  (((c.active s g).find? fun t => t.slot == i).map fun t => (t.getV a.toNat, t.getV (a.toNat + 1))).getD unit

/-- Every active thread takes the pair at the root of the tree. -/
theorem laneIdx_next {s : State} {c : Ctx} (h : ctxOf s = some c) (g : Guard) (d a : BitVec 6) (ty : Nat) (greater : Bool)
    (hv : c.vOk [d.toNat, d.toNat + 1, a.toNat, a.toNat + 1] = true) (hr : rbRoom c) {r : Word × Word}
    (hop : treePairs (idxOp greater ty) 5 ((List.range 32).map (slotPair s c g (idxUnit greater ty) a)) = r) :
    laneIdx g d a ty greater s = .next (afterLong s c g fun _ => [.v d.toNat r.1, .v (d.toNat + 1) r.2]) := by
  subst hop
  refine laneLong_ok h hv hr fun t _ => ?_
  refine congrArg (fun xs => LaneRes.ok [.v d.toNat (treePairs (idxOp greater ty) 5 xs).1,
    .v (d.toNat + 1) (treePairs (idxOp greater ty) 5 xs).2]) (List.map_congr_left fun i _ => ?_)
  rw [slotPair]
  cases (c.active s g).find? fun t => t.slot == i <;> rfl

theorem exec_laneIdx : ∀ e ∈ [(Instr.xminIdx, false), (Instr.xmaxIdx, true)],
    ∀ (g : Guard) (d a : BitVec 6) (ty : BitVec 3) (s : State), exec (e.1 g d a ty) s = laneIdx g d a ty.toNat e.2 s := by
  simp only [List.forall_mem_cons, List.not_mem_nil, false_imp_iff, implies_true, and_true]
  exact ⟨fun _ _ _ _ _ => rfl, fun _ _ _ _ _ => rfl⟩

/-! ### The scan (R150, R151) -/

/-- The union of flags from a start is the start and the union from none. -/
theorem foldl_or_flags (fl : Nat → Flags) (is : List Nat) (f : Flags) :
    is.foldl (fun f i => f ||| fl i) f = f ||| is.foldl (fun f i => f ||| fl i) 0 := by
  have h := List.foldl_assoc (op := fun x y : Flags => x ||| y) (l := is.map fl) (a₁ := f) (a₂ := 0#5)
  simp only [List.foldl_map, BitVec.or_zero] at h
  exact h

/-- From slot `k` on, the running prefixes are the prefixes of the slots, with the flags of their operations. -/
theorem prefixes_eq_scanPrefix (op : LaneOp) (x : Nat → Word) (n k : Nat) :
    prefixes op (scanPrefix op x k) ((List.range' (k + 1) n).map x) =
      ((List.range' (k + 1) n).map (scanPrefix op x),
       (List.range' k n).foldl (fun f i => f ||| (op (scanPrefix op x i) (x (i + 1))).2) 0) := by
  induction n generalizing k with
  | zero => rfl
  | succ n ih =>
    have hnext : (op (scanPrefix op x k) (x (k + 1))).1 = scanPrefix op x (k + 1) := rfl
    simp only [List.range'_succ, List.map_cons, List.foldl_cons, prefixes, hnext, ih]
    rw [foldl_or_flags _ _ (0 ||| _), show ∀ f : Flags, 0 ||| f = f from fun _ => BitVec.zero_or]

/-- The operands of the 32 slots, slot 0 first. -/
theorem slotOperands_eq_cons (s : State) (c : Ctx) (g : Guard) (a : BitVec 6) (unit : Word) :
    slotOperands s c g a.toNat unit =
      slotValue s c g unit a 0 :: (List.range' 1 31).map (slotValue s c g unit a) := by
  rw [slotOperands_eq_map, List.range_eq_range', List.range'_succ, List.map_cons]

/-- The prefixes of all 32 slots, read at one of them. -/
theorem getD_scanPrefix (op : LaneOp) (x : Nat → Word) {i : Nat} (hi : i < 32) :
    (x 0 :: (List.range' 1 31).map (scanPrefix op x))[i]?.getD 0 = scanPrefix op x i := by
  have h : x 0 :: (List.range' 1 31).map (scanPrefix op x) = (List.range' 0 32).map (scanPrefix op x) := rfl
  rw [h, List.getElem?_map, List.getElem?_range' hi, Option.map_some, Option.getD_some, Nat.zero_add, Nat.one_mul]

theorem exec_xscanAdd {s : State} {c : Ctx} (h : ctxOf s = some c) (g : Guard) (d a : BitVec 6) (ty : BitVec 3)
    (hv : c.vOk [d.toNat, a.toNat] = true) (hr : rbRoom c) {x : Nat → Word}
    (hx : slotValue s c g (addUnit ty.toNat) a = x)
    (hp : ∀ t ∈ c.active s g, untrapped t (scanFlags (addOp ty.toNat) x)) :
    exec (.xscanAdd g d a ty) s = .next (afterLong s c g fun t =>
      [.v d.toNat (scanPrefix (addOp ty.toNat) x t.slot), .flags (scanFlags (addOp ty.toNat) x)]) := by
  refine laneLong_ok h hv hr fun t ht => ?_
  have hpre : prefixes (addOp ty.toNat) (x 0) ((List.range' 1 31).map x) =
      ((List.range' 1 31).map (scanPrefix (addOp ty.toNat) x), scanFlags (addOp ty.toNat) x) := by
    rw [scanFlags, List.range_eq_range']
    exact prefixes_eq_scanPrefix (addOp ty.toNat) x 31 0
  simp only [slotOperands_eq_cons, hx, hpre, getD_scanPrefix _ _ (slot_lt_of_mem_active ht)]
  exact fpResult_of_untrapped (hp t ht) _

/-! ### The statement -/

/-- Settles O7: each instruction is a lane shape whose value is a fold over the slots of the active threads, and that fold is
the one of its rule. -/
theorem pollsReductionsAndScansFoldTheThreads : Obligations.PollsReductionsAndScansFoldTheThreads := by
  unfold Obligations.PollsReductionsAndScansFoldTheThreads
  refine ⟨?polls, ⟨?typed, ?bits, ?idx⟩, ?scan⟩
  case polls =>
    intro g a s c h
    refine ⟨exec_pollAny h g a, exec_pollAll h g a, fun d hv => ?mask, exec_pollCount h g a⟩
    refine ⟨maskOf (pollSlots s c g a), fun i hi => ?_, exec_pollMask h g a d hv⟩
    rw [getLsbD_maskOf _ hi, any_pollSlots]
  case typed =>
    intro e he g d a ty s c h hv hr r hp
    rw [exec_laneReduceTyped e he, laneRed_next h g d a hv hr _ _ rfl hp]
  case bits =>
    intro e he g d a s c h hv hr
    have hfold := treeFold_laneReduceBits e he 5 ((List.range 32).map (slotValue s c g e.2.2 a)) (by simp)
    rw [exec_laneReduceBits e he, laneRed_next h g d a hv hr _ _ hfold fun t _ => untrapped_zero t]
  case idx =>
    intro e he g d a ty s c h hv hr pair r
    rw [exec_laneIdx e he, laneIdx_next h g d a _ _ hv hr rfl]
    rfl
  case scan =>
    intro g d a ty s c h hv hr x hp
    exact exec_xscanAdd h g d a ty hv hr rfl hp

end Sys2Proof.LaneReductions

/-! PROOF. O11: uniform arithmetic (R235 to R237) and `ucap` (R156).

The statement takes the operands of an instruction from `c.st`, the first strand of the issuing number; the uniform shapes
(`uniBin`, `uniUn`) take them from each strand of that number, and write each. The two agree where the issuing number belongs
to one strand, and there every value of the tables is right (`uniformArithmetic_of_issuesAlone`). The statement does not ask
for that, and it fails in a state where a second strand bears the number (`not_uniformArithmeticAndUcapGiveTheirValue`).
What it says of `ucap` holds in every state (`ucap_givesItsValue`): `ucap` takes its operands from `c.st`.

The argument has three layers: the value that a meaning computes on machine words is the integer of its rule modulo 2^64
(`..._eq_ofInt`, at every width); a meaning is one of the uniform shapes with that value (`exec_uniform...`); and a shape
leaves `afterUniform` (`uniBin_next`, `uniUn_next`, `execUcap_...`). -/

namespace Sys2Proof.UniformArithmetic

open Sys2Proof.Machine Sys2Proof.Claims Sys2Proof.LaneArithmetic

/-! ### Integers modulo 2^w -/

/-- A natural number modulo 2^w, where the integer is written out. -/
theorem ofNat_eq_ofInt {w n : Nat} {x : Int} (h : (n : Int) = x) : BitVec.ofNat w n = BitVec.ofInt w x := by
  rw [← h, BitVec.ofInt_natCast]

@[simp] theorem ofInt_toNat {w : Nat} (x : BitVec w) : BitVec.ofInt w x.toNat = x := by
  rw [BitVec.ofInt_natCast, BitVec.ofNat_toNat, BitVec.setWidth_eq]

theorem setWidth_eq_ofInt {w n : Nat} (i : BitVec n) : i.setWidth w = BitVec.ofInt w i.toNat := by
  rw [BitVec.ofInt_natCast, BitVec.ofNat_toNat]

/-! ### Values: sums, products and choices (R235, R236) -/

section Values

variable {w : Nat} (x y : BitVec w)

theorem add_eq_ofInt : x + y = BitVec.ofInt w (x.toNat + y.toNat) := by
  rw [BitVec.ofInt_add, ofInt_toNat, ofInt_toNat]

theorem sub_eq_ofInt : x - y = BitVec.ofInt w (x.toNat - y.toNat) := by
  rw [Int.sub_eq_add_neg, BitVec.ofInt_add, BitVec.ofInt_neg, ofInt_toNat, ofInt_toNat, BitVec.sub_eq_add_neg]

theorem mul_eq_ofInt : x * y = BitVec.ofInt w (x.toNat * y.toNat) := by
  rw [BitVec.ofInt_mul, ofInt_toNat, ofInt_toNat]

theorem add_signExtend_eq_ofInt {n : Nat} (i : BitVec n) : x + i.signExtend w = BitVec.ofInt w (x.toInt + i.toInt) := by
  rw [BitVec.ofInt_add, BitVec.ofInt_toInt, BitVec.signExtend]

theorem minSigned_eq_ofInt : (if x.toInt ≤ y.toInt then x else y) = BitVec.ofInt w (min x.toInt y.toInt) := by
  rw [Int.min_def, apply_ite (BitVec.ofInt w), BitVec.ofInt_toInt, BitVec.ofInt_toInt]

theorem maxSigned_eq_ofInt : (if y.toInt ≤ x.toInt then x else y) = BitVec.ofInt w (max x.toInt y.toInt) := by
  rw [Int.max_comm, Int.max_def, apply_ite (BitVec.ofInt w), BitVec.ofInt_toInt, BitVec.ofInt_toInt]

theorem minUnsigned_eq_ofInt : (if x.toNat ≤ y.toNat then x else y) = BitVec.ofInt w (min (x.toNat : Int) y.toNat) := by
  rw [Int.min_def, apply_ite (BitVec.ofInt w), ofInt_toNat, ofInt_toNat]
  simp only [Int.ofNat_le]

theorem maxUnsigned_eq_ofInt : (if y.toNat ≤ x.toNat then x else y) = BitVec.ofInt w (max (x.toNat : Int) y.toNat) := by
  rw [Int.max_comm, Int.max_def, apply_ite (BitVec.ofInt w), ofInt_toNat, ofInt_toNat]
  simp only [Int.ofNat_le]

/-! ### Values: shifts and rotations (R235, R236) -/

theorem shiftLeft_eq_ofInt (n : Nat) : x <<< n = BitVec.ofInt w (x.toNat * 2 ^ n) := by
  rw [← ofNat_eq_ofInt (n := x.toNat * 2 ^ n) (by push_cast; rfl), ← Nat.shiftLeft_eq]
  exact BitVec.eq_of_toNat_eq (by rw [BitVec.toNat_shiftLeft, BitVec.toNat_ofNat])

theorem ushiftRight_eq_ofInt (n : Nat) : x >>> n = BitVec.ofInt w (x.toNat / 2 ^ n) := by
  rw [← ofNat_eq_ofInt (n := x.toNat / 2 ^ n) (by push_cast; rfl), ← Nat.shiftRight_eq_div_pow, ← BitVec.toNat_ushiftRight,
    BitVec.ofNat_toNat, BitVec.setWidth_eq]

theorem sshiftRight_eq_ofInt (n : Nat) : x.sshiftRight n = BitVec.ofInt w (x.toInt / 2 ^ n) := by
  rw [BitVec.sshiftRight_eq, Int.shiftRight_eq_div_pow]
  push_cast
  rfl

theorem rotateLeft_eq_ofInt {n : Nat} (h : n < w) :
    x.rotateLeft n = BitVec.ofInt w (x.toNat * 2 ^ n) ||| BitVec.ofInt w (x.toNat / 2 ^ (w - n)) := by
  rw [BitVec.rotateLeft_def, Nat.mod_eq_of_lt h, shiftLeft_eq_ofInt, ushiftRight_eq_ofInt]

/-! ### Values: bit counts (R235) -/

theorem ofNat_popcount : BitVec.ofNat w (popcount x) = x.cpop := by
  rw [popcount, ← cpopNatRec_eq_count, BitVec.cpop]

variable {x}

theorem clz_toNat_lt (h : x ≠ 0) : x.clz.toNat < w := by
  have hlt := BitVec.lt_def.1 (BitVec.clz_lt_iff_ne_zero.2 h)
  rwa [BitVec.natCast_eq_ofNat, BitVec.toNat_ofNat, Nat.mod_eq_of_lt Nat.lt_two_pow_self] at hlt

theorem ctz_toNat_lt (h : x ≠ 0) : x.ctz.toNat < w := by
  have hlt := BitVec.lt_def.1 (BitVec.ctz_lt_iff_ne_zero.2 h)
  rwa [BitVec.natCast_eq_ofNat, BitVec.toNat_ofNat, Nat.mod_eq_of_lt Nat.lt_two_pow_self] at hlt

/-- The leading zeros of a word that is not 0 stand above its highest 1 bit. -/
theorem leadingZeros_of_ne_zero (h : x ≠ 0) : leadingZeros x = x.clz.toNat := by
  have hlt := clz_toNat_lt h
  have h0 : x.toNat ≠ 0 := fun h' => h (BitVec.eq_of_toNat_eq h')
  have hlog : x.toNat.log2 = w - 1 - x.clz.toNat := by
    rw [Nat.log2_eq_iff h0, show w - 1 - x.clz.toNat + 1 = w - x.clz.toNat by omega]
    exact ⟨BitVec.two_pow_sub_clz_le_toNat_of_ne_zero (by omega) h, BitVec.toNat_lt_two_pow_sub_clz⟩
  rw [leadingZeros, if_neg (by simpa using h0), hlog]
  omega

/-- The trailing zeros of a word that is not 0 stand below its lowest 1 bit. -/
theorem trailingZeros_of_ne_zero (h : x ≠ 0) : trailingZeros x = x.ctz.toNat := by
  have hfirst : (List.range w).find? x.getLsbD = some x.ctz.toNat := by
    refine List.find?_range_eq_some.2 ⟨BitVec.getLsbD_true_ctz_of_ne_zero h, List.mem_range.2 (ctz_toNat_lt h), fun j hj => ?_⟩
    rw [BitVec.getLsbD_false_of_lt_ctz hj]
    rfl
  rw [trailingZeros, hfirst, Option.getD_some]

variable (x)

theorem ofNat_leadingZeros : BitVec.ofNat w (leadingZeros x) = x.clz := by
  by_cases h : x = 0
  · subst h
    exact (BitVec.clz_eq_iff_eq_zero.2 rfl).symm
  · rw [leadingZeros_of_ne_zero h, BitVec.ofNat_toNat, BitVec.setWidth_eq]

theorem ofNat_trailingZeros : BitVec.ofNat w (trailingZeros x) = x.ctz := by
  by_cases h : x = 0
  · subst h
    have hnone : (List.range w).find? (0 : BitVec w).getLsbD = none :=
      List.find?_eq_none.2 fun _ _ => by simp
    rw [trailingZeros, hnone]
    exact (BitVec.clz_eq_iff_eq_zero.2 (BitVec.reverse_eq_zero_iff.2 rfl)).symm
  · rw [trailingZeros_of_ne_zero h, BitVec.ofNat_toNat, BitVec.setWidth_eq]

end Values

/-! ### Values: high products and `lui` (R235, R237) -/

theorem mulHigh_eq_dword (x y : DWord) :
    BitVec.ofNat 64 (x.toNat * y.toNat / 2 ^ 64) = dword (x.toNat * y.toNat / 18446744073709551616) :=
  ofNat_eq_ofInt (by rw [Int.natCast_ediv, Int.natCast_mul]; rfl)

theorem luiValue_eq_dword (old : DWord) (h : Nat) (i : BitVec 16) :
    luiValue old h i = dword (i.toNat * 2 ^ (16 * h) + old.toNat % 2 ^ (16 * h)) :=
  ofNat_eq_ofInt (by push_cast; rfl)

/-! ### Meanings: the shape and the value of each instruction of the tables -/

theorem uniBin_congr {f r : DWord → DWord → DWord} (h : ∀ x y, f x y = r x y) (d a b : BitVec 6) (s : State) :
    uniBin d a b f s = uniBin d a b r s := by
  rw [show f = r from funext fun x => funext (h x)]

theorem uniUn_congr {f r : DWord → DWord} (h : ∀ x, f x = r x) (d a : BitVec 6) (s : State) :
    uniUn d a f s = uniUn d a r s := by
  rw [show f = r from funext h]

theorem exec_uniformBinary : ∀ e ∈ uniformBinary, ∀ (d a b : BitVec 6) (s : State),
    exec (e.1 d a b) s = uniBin d a b e.2 s := by
  simp only [uniformBinary, List.forall_mem_cons, List.not_mem_nil, false_imp_iff, implies_true, and_true]
  exact ⟨
    fun d a b => uniBin_congr add_eq_ofInt d a b,
    fun d a b => uniBin_congr sub_eq_ofInt d a b,
    fun d a b => uniBin_congr mul_eq_ofInt d a b,
    fun _ _ _ _ => rfl,
    fun d a b => uniBin_congr mulHigh_eq_dword d a b,
    fun _ _ _ _ => rfl,
    fun _ _ _ _ => rfl,
    fun _ _ _ _ => rfl,
    fun _ _ _ _ => rfl,
    fun d a b => uniBin_congr (fun x y => shiftLeft_eq_ofInt x (shAmt64 y)) d a b,
    fun d a b => uniBin_congr (fun x y => ushiftRight_eq_ofInt x (shAmt64 y)) d a b,
    fun d a b => uniBin_congr (fun x y => sshiftRight_eq_ofInt x (shAmt64 y)) d a b,
    fun d a b => uniBin_congr minSigned_eq_ofInt d a b,
    fun d a b => uniBin_congr maxSigned_eq_ofInt d a b,
    fun d a b => uniBin_congr minUnsigned_eq_ofInt d a b,
    fun d a b => uniBin_congr maxUnsigned_eq_ofInt d a b⟩

theorem exec_uniformUnary : ∀ e ∈ uniformUnary, ∀ (d a : BitVec 6) (s : State),
    exec (e.1 d a) s = uniUn d a e.2 s := by
  simp only [uniformUnary, List.forall_mem_cons, List.not_mem_nil, false_imp_iff, implies_true, and_true]
  exact ⟨
    fun d a => uniUn_congr ofNat_popcount d a,
    fun d a => uniUn_congr ofNat_leadingZeros d a,
    fun d a => uniUn_congr ofNat_trailingZeros d a⟩

theorem exec_uniformImmediate : ∀ e ∈ uniformImmediate, ∀ (d a : BitVec 6) (i : BitVec 12) (s : State),
    exec (e.1 d a i) s = uniUn d a (fun x => e.2 x i) s := by
  simp only [uniformImmediate, List.forall_mem_cons, List.not_mem_nil, false_imp_iff, implies_true, and_true]
  exact ⟨
    fun d a i => uniUn_congr (fun x => add_signExtend_eq_ofInt x i) d a,
    fun d a i => uniUn_congr (fun x => congrArg (x ||| ·) (setWidth_eq_ofInt i)) d a,
    fun _ _ _ _ => rfl,
    fun d a i => uniUn_congr (fun x => congrArg (x ^^^ ·) (setWidth_eq_ofInt i)) d a⟩

theorem exec_uniformShift : ∀ e ∈ uniformShift, ∀ (d a i : BitVec 6) (s : State),
    exec (e.1 d a i) s = uniUn d a (fun x => e.2 x i.toNat) s := by
  simp only [uniformShift, List.forall_mem_cons, List.not_mem_nil, false_imp_iff, implies_true, and_true]
  exact ⟨
    fun d a i => uniUn_congr (fun x => shiftLeft_eq_ofInt x i.toNat) d a,
    fun d a i => uniUn_congr (fun x => ushiftRight_eq_ofInt x i.toNat) d a,
    fun d a i => uniUn_congr (fun x => sshiftRight_eq_ofInt x i.toNat) d a,
    fun d a i => uniUn_congr (fun x => rotateLeft_eq_ofInt x i.isLt) d a⟩

theorem exec_lui (d : BitVec 6) (h : BitVec 2) (i : BitVec 16) (s : State) :
    exec (.lui d h i) s =
      uniUn d d (fun x => dword (i.toNat * 2 ^ (16 * h.toNat) + x.toNat % 2 ^ (16 * h.toNat))) s :=
  uniUn_congr (fun x => luiValue_eq_dword x h.toNat i) d d s

/-! ### Uniform shapes: the state that each leaves -/

/-- Every strand of the issuing number takes the value from its own registers. -/
theorem uniBin_next {s : State} {c : Ctx} (h : ctxOf s = some c) (d a b : BitVec 6) (f : DWord → DWord → DWord) :
    uniBin d a b f s = .next (afterUniform s c fun st =>
      st.setS d.toNat (f (st.getS a.toNat) (st.getS b.toNat))) :=
  uniStrand_next h (fun _ st => st.setS d.toNat (f (st.getS a.toNat) (st.getS b.toNat))) fun st => setS_sid st _ _

/-- The same of a shape of one source. -/
theorem uniUn_next {s : State} {c : Ctx} (h : ctxOf s = some c) (d a : BitVec 6) (f : DWord → DWord) :
    uniUn d a f s = .next (afterUniform s c fun st => st.setS d.toNat (f (st.getS a.toNat))) :=
  uniStrand_next h (fun _ st => st.setS d.toNat (f (st.getS a.toNat))) fun st => setS_sid st _ _

/-- The number of the issuing strand belongs to that strand alone. -/
def IssuesAlone (s : State) (c : Ctx) : Prop := ∀ st ∈ s.strands, st.sid = c.st.sid → st = c.st

/-- Where the issuing strand has its number alone, what an instruction leaves depends on its effect on that strand alone. -/
theorem afterUniform_congr {s : State} {c : Ctx} (halone : IssuesAlone s c) {f g : Strand → Strand} (h : f c.st = g c.st) :
    afterUniform s c f = afterUniform s c g := by
  unfold afterUniform issuingStrand mapIf
  congr 1
  refine List.map_congr_left fun st hst => ?_
  by_cases hsid : st.sid = c.st.sid
  · obtain rfl := halone st hst hsid
    simp only [h]
  · simp [hsid]

theorem uniBin_of_issuesAlone {s : State} {c : Ctx} (h : ctxOf s = some c) (halone : IssuesAlone s c) (d a b : BitVec 6)
    (f : DWord → DWord → DWord) : uniBin d a b f s =
      .next (afterUniform s c fun st => st.setS d.toNat (f (c.st.getS a.toNat) (c.st.getS b.toNat))) := by
  rw [uniBin_next h]
  exact congrArg _ (afterUniform_congr halone rfl)

theorem uniUn_of_issuesAlone {s : State} {c : Ctx} (h : ctxOf s = some c) (halone : IssuesAlone s c) (d a : BitVec 6)
    (f : DWord → DWord) : uniUn d a f s =
      .next (afterUniform s c fun st => st.setS d.toNat (f (c.st.getS a.toNat))) := by
  rw [uniUn_next h]
  exact congrArg _ (afterUniform_congr halone rfl)

/-- R234 to R237: the arithmetic half of the statement, where the issuing strand has its number alone. -/
theorem uniformArithmetic_of_issuesAlone {s : State} {c : Ctx} (h : ctxOf s = some c) (halone : IssuesAlone s c) :
    (∀ e ∈ uniformBinary, ∀ d a b : BitVec 6, exec (e.1 d a b) s =
      .next (afterUniform s c fun st => st.setS d.toNat (e.2 (c.st.getS a.toNat) (c.st.getS b.toNat)))) ∧
    (∀ e ∈ uniformUnary, ∀ d a : BitVec 6, exec (e.1 d a) s =
      .next (afterUniform s c fun st => st.setS d.toNat (e.2 (c.st.getS a.toNat)))) ∧
    (∀ e ∈ uniformImmediate, ∀ (d a : BitVec 6) (i : BitVec 12), exec (e.1 d a i) s =
      .next (afterUniform s c fun st => st.setS d.toNat (e.2 (c.st.getS a.toNat) i))) ∧
    (∀ e ∈ uniformShift, ∀ d a i : BitVec 6, exec (e.1 d a i) s =
      .next (afterUniform s c fun st => st.setS d.toNat (e.2 (c.st.getS a.toNat) i.toNat))) ∧
    (∀ (d : BitVec 6) (hw : BitVec 2) (i : BitVec 16), exec (.lui d hw i) s =
      .next (afterUniform s c fun st => st.setS d.toNat
        (dword (i.toNat * 2 ^ (16 * hw.toNat) + (c.st.getS d.toNat).toNat % 2 ^ (16 * hw.toNat))))) ∧
    (∀ (st : Strand) (w : DWord), st.setS 63 w = st ∧ st.getS 63 = 0) := by
  refine ⟨fun e he d a b => ?binary, fun e he d a => ?unary, fun e he d a i => ?immediate, fun e he d a i => ?shift,
    fun d hw i => ?lui, fun _ _ => ⟨rfl, rfl⟩⟩
  case binary => rw [exec_uniformBinary e he, uniBin_of_issuesAlone h halone]
  case unary => rw [exec_uniformUnary e he, uniUn_of_issuesAlone h halone]
  case immediate => rw [exec_uniformImmediate e he, uniUn_of_issuesAlone h halone]
  case shift => rw [exec_uniformShift e he, uniUn_of_issuesAlone h halone]
  case lui => rw [exec_lui, uniUn_of_issuesAlone h halone]

/-! ### `ucap` (R156) -/

/-- The four-bit register number in a six-bit field. -/
theorem toNat_setWidth_mod (d : BitVec 4) : (d.setWidth 6).toNat % 16 = d.toNat := by
  rw [BitVec.toNat_setWidth]
  omega

/-- The end of an instruction that changed its strand and its executing threads. -/
theorem finish_onPresent (s : State) (c : Ctx) (f : Strand → Strand) (g : Thread → Thread) (hf : ∀ st, (f st).sid = st.sid) :
    finish (onPresent (onStrand s c f) c g) c = { afterUniform s c f with
      threads := mapIf (fun t => t.tid == c.tm.tid && (c.ranks s).contains t.rank) g s.threads } := by
  rw [← finish_strand s c f hf, finish_eq, finish_eq]
  rfl

section Ucap

variable {s : State} {c : Ctx} (h : ctxOf s = some c)
include h

theorem execUcap_derive (d a : BitVec 4) (b f : BitVec 6) (hf : f.toNat ≤ 8) :
    let r := ucapResult f.toNat (c.st.getK a.toNat) (c.st.getS b.toNat) (c.st.getK (b.toNat % 16))
    execUcap (d.setWidth 6) (a.setWidth 6) b f s = .next { afterUniform s c (fun st => st.setK d.toNat r) with
      threads := mapIf (fun t => t.tid == c.tm.tid && (c.ranks s).contains t.rank) (fun t => t.setP 7 (!r.tag)) s.threads } := by
  have hread : ¬16 ≤ f.toNat := by omega
  simp only [execUcap, uniShort, inCtx_next h, if_neg hread, if_pos hf, toNat_setWidth_mod]
  rw [finish_onPresent _ _ _ _ fun st => setK_sid st _ _]

theorem execUcap_copy (d a : BitVec 4) (b f : BitVec 6) (hlo : 8 < f.toNat) (hhi : f.toNat < 16) :
    execUcap (d.setWidth 6) (a.setWidth 6) b f s = .next (afterUniform s c fun st => st.setK d.toNat
      (ucapResult f.toNat (c.st.getK a.toNat) (c.st.getS b.toNat) (c.st.getK (b.toNat % 16)))) := by
  simp only [execUcap, uniShort, inCtx_next h, if_neg (Nat.not_le.2 hlo), if_neg (Nat.not_le.2 hhi), toNat_setWidth_mod]
  rw [finish_strand _ _ _ fun st => setK_sid st _ _]

theorem execUcap_read (d : BitVec 6) (a : BitVec 4) (b f : BitVec 6) (hf : 16 ≤ f.toNat) :
    execUcap d (a.setWidth 6) b f s =
      .next (afterUniform s c fun st => st.setS d.toNat ((c.st.getK a.toNat).read f.toNat)) := by
  simp only [execUcap, uniShort, inCtx_next h, if_pos hf, toNat_setWidth_mod]
  rw [finish_strand _ _ _ fun st => setS_sid st _ _]

end Ucap

/-- R152, R156: fn selects the derivation of its row. -/
theorem ucapResult_uniformDerive : ∀ e ∈ uniformDerive, e.1.toNat ≤ 8 ∧
    ∀ x y k, ucapResult e.1.toNat x y k = e.2 x y k := by
  simp only [uniformDerive, List.forall_mem_cons, List.not_mem_nil, false_imp_iff, implies_true, and_true]
  refine ⟨⟨by decide, fun x y _ => ?advance⟩, ⟨by decide, fun _ _ _ => rfl⟩, ⟨by decide, fun _ _ _ => rfl⟩,
    ⟨by decide, fun _ _ _ => rfl⟩, ⟨by decide, fun _ _ _ => rfl⟩, ⟨by decide, fun _ _ _ => rfl⟩,
    ⟨by decide, fun _ _ _ => rfl⟩, ⟨by decide, fun _ _ _ => rfl⟩, ⟨by decide, fun _ _ _ => rfl⟩⟩
  case advance =>
    refine congrArg x.moveTo ?_
    rw [BitVec.toNat_add, BitVec.toNat_ofNat, Nat.mod_add_mod]

/-- R94, R156: the `ucap` half of the statement. -/
theorem ucap_givesItsValue {s : State} {c : Ctx} (h : ctxOf s = some c) :
    (∀ e ∈ uniformDerive, ∀ (d a : BitVec 4) (b : BitVec 6),
      let r := e.2 (c.st.getK a.toNat) (c.st.getS b.toNat) (c.st.getK (b.toNat % 16))
      exec (.ucap (d.setWidth 6) (a.setWidth 6) b e.1) s = .next
        { afterUniform s c (fun st => st.setK d.toNat r) with
          threads := mapIf (fun t => t.tid == c.tm.tid && (c.ranks s).contains t.rank) (fun t => t.setP 7 (!r.tag)) s.threads }) ∧
    (∀ (d a : BitVec 4) (b : BitVec 6),
      exec (.ucap (d.setWidth 6) (a.setWidth 6) b 9) s =
        .next (afterUniform s c fun st => st.setK d.toNat (c.st.getK a.toNat)) ∧
      exec (.ucap (d.setWidth 6) (a.setWidth 6) b 10) s =
        .next (afterUniform s c fun st => st.setK d.toNat ⟨(c.st.getK a.toNat).bits, false⟩)) ∧
    (∀ (d : BitVec 6) (a : BitVec 4) (b : BitVec 6),
      let x := c.st.getK a.toNat
      exec (.ucap d (a.setWidth 6) b 16) s = .next (afterUniform s c fun st => st.setS d.toNat (dword x.addr)) ∧
      exec (.ucap d (a.setWidth 6) b 17) s = .next (afterUniform s c fun st => st.setS d.toNat (dword x.region.1)) ∧
      exec (.ucap d (a.setWidth 6) b 18) s = .next (afterUniform s c fun st => st.setS d.toNat
        (dword (min (x.region.2 - x.region.1) 18446744073709551615 : Nat))) ∧
      exec (.ucap d (a.setWidth 6) b 19) s = .next (afterUniform s c fun st => st.setS d.toNat (x.info.setWidth 64))) := by
  refine ⟨fun e he d a b => ?derive, fun d a b => ⟨?copy, ?detag⟩, fun d a b => ⟨?addr, ?base, ?len, ?info⟩⟩
  case derive =>
    obtain ⟨hle, hresult⟩ := ucapResult_uniformDerive e he
    rw [← hresult]
    exact execUcap_derive h d a b e.1 hle
  case copy => exact execUcap_copy h d a b 9 (by decide) (by decide)
  case detag => exact execUcap_copy h d a b 10 (by decide) (by decide)
  case addr => exact execUcap_read h d a b 16 (by decide)
  case base => exact execUcap_read h d a b 17 (by decide)
  case len => exact execUcap_read h d a b 18 (by decide)
  case info => exact execUcap_read h d a b 19 (by decide)

/-! ### The statement -/

/-- A machine of one strand, which issues. -/
def loneMachine : State :=
  let s := State.reset.withFetchWord 32 0
  { s with run := { s.run with issuing := some 0 } }

/-- The same with a second strand of the same number behind the first, and 5 in its s1. -/
def twinMachine : State :=
  { loneMachine with strands := loneMachine.strands ++ loneMachine.strands.map fun st => { st with s := [(1, 5)] } }

/-- A state that `uniformArithmetic_of_issuesAlone` speaks of. -/
theorem issuesAlone_loneMachine : ∃ c, ctxOf loneMachine = some c ∧ IssuesAlone loneMachine c := by
  refine ⟨_, rfl, ?_⟩
  unfold IssuesAlone
  decide

/-- s0 of every strand. -/
def s0Of : Out → List DWord
  | .next s => s.strands.map fun st => st.getS 0
  | _ => []

/-- `add s0, s1, s63` gives each strand of the number its own s1. -/
theorem s0Of_uAdd_twinMachine : s0Of (exec (.uAdd 0 1 63) twinMachine) = [0, 5] := by decide

/-- Refutes O11: where two strands bear the issuing number, the second takes its own operands and not those of `c.st`, so
`add s0, s1, s63` leaves 5 in its s0 where the statement gives it the 0 of the first. -/
theorem not_uniformArithmeticAndUcapGiveTheirValue : ¬ Obligations.UniformArithmeticAndUcapGiveTheirValue := by
  unfold Obligations.UniformArithmeticAndUcapGiveTheirValue
  rintro ⟨⟨binary, -⟩, -⟩
  obtain ⟨c, hc⟩ : ∃ c, ctxOf twinMachine = some c := ⟨_, rfl⟩
  have hsum := congrArg s0Of (binary _ List.mem_cons_self 0 1 63 twinMachine c hc)
  rw [s0Of_uAdd_twinMachine] at hsum
  cases hc
  exact absurd hsum (by decide)

end Sys2Proof.UniformArithmetic

/-! PROOF. O43: `tlb.inv` and `revoke` (R101, R297 to R299).

Both check their range, wait until no access uses a translation of it, and drop what is cached of it; `revoke` raises the
versions of the range's leaves first. So each answers one of three states (`exec_rangeInstr`), and the parts of the
statement follow from what `dropRange` keeps of the caches and from what the walk that raises versions leaves alone
(`apartFromMemory_raiseRange`). A raise is one 16-byte store to a table entry (`raiseVersion_eq`): what it leaves in the
entry is a fact about the store (`readEntry_writeEntry`) and one about the bits of the word stored (`getLsbD_withVersion`). -/

namespace Sys2Proof.Translations

open Sys2Proof.Machine Sys2Proof.Claims

/-! ### The range (R297) -/

theorem fieldOf_eq_bits (w : DWord) (lo n : Nat) : fieldOf w lo n = bits w lo n := by
  rw [fieldOf, BitVec.extractLsb'_toNat, Nat.shiftRight_eq_div_pow, bits]

theorem getLsbD_eq_bits (w : DWord) (i : Nat) : w.getLsbD i = decide (bits w i 1 = 1) :=
  Nat.testBit_eq_decide_div_mod_eq

/-- The field of the reserved bits [63:18]. -/
theorem fieldOf_reserved (w : DWord) : fieldOf w 18 46 = w.toNat / 262144 := by
  rw [fieldOf_eq_bits, bits]
  omega

/-- The model's check of the range is the one of the statement. -/
theorem invArgs_eq (ctl start len : DWord) (revoke : Bool) :
    invArgs ctl start len revoke = (rangeCause revoke ctl start len).elim (.ok (rangeNamed ctl start len)) .error := by
  have hasid : ctl.setWidth 16 = BitVec.ofNat 16 ctl.toNat := (BitVec.ofNat_toNat 16 ctl).symm
  simp only [invArgs, rangeCause, rangeNamed, fieldOf_reserved, getLsbD_eq_bits, hasid, bne_iff_ne, Bool.or_eq_true,
    Bool.and_eq_true, decide_eq_true_eq, or_assoc]
  split
  · rfl
  · split
    · rfl
    · split
      · rfl
      · split <;> rfl

/-! ### What is dropped (R298) -/

/-- A translation that does not meet a range belongs to another ASID, or lies behind or before the range. -/
theorem not_meets_iff (r : PageRange) (asid : BitVec 16) (page units : Nat) :
    (!r.meets asid page units) = true ↔ (r.all = false ∧ asid ≠ r.asid) ∨ r.hi ≤ page ∨ page + units ≤ r.lo := by
  simp [PageRange.meets, or_assoc]

theorem noneCached_dropRange (s : State) (r : PageRange) : noneCached (dropRange s r) r :=
  ⟨fun _ hx => (not_meets_iff ..).1 (List.mem_filter.1 hx).2,
    fun _ hx => (not_meets_iff ..).1 (List.mem_filter.1 hx).2⟩

/-- Only a translation that overlaps the range is dropped. -/
theorem meets_of_dropped {s : State} {r : PageRange} {x : TlbEntry} (hx : x ∈ s.mem.tlb) (hd : x ∉ (dropRange s r).mem.tlb) :
    (r.all = true ∨ x.asid = r.asid) ∧ x.page < r.hi ∧ r.lo < x.page + x.units := by
  have hmeets : r.meets x.asid x.page x.units = true :=
    eq_true_of_ne_false fun hn => hd (List.mem_filter.2 ⟨hx, by rw [hn]; rfl⟩)
  simpa only [PageRange.meets, Bool.and_eq_true, Bool.or_eq_true, beq_iff_eq, decide_eq_true_eq, and_assoc] using hmeets

/-! ### What the walk of the tables leaves alone (R299) -/

/-- The state without memory and the plant, which holds the error records. -/
def apartFromMemory (s : State) : State := { s with mem := State.reset.mem, plant := State.reset.plant }

theorem threads_of_apartFromMemory {s t : State} (h : apartFromMemory t = apartFromMemory s) : t.threads = s.threads :=
  show (apartFromMemory t).threads = (apartFromMemory s).threads from congrArg State.threads h

theorem strands_of_apartFromMemory {s t : State} (h : apartFromMemory t = apartFromMemory s) : t.strands = s.strands :=
  show (apartFromMemory t).strands = (apartFromMemory s).strands from congrArg State.strands h

theorem apartFromMemory_foldl {α : Type} {f : State → α → State} (h : ∀ s x, apartFromMemory (f s x) = apartFromMemory s)
    (l : List α) (s : State) : apartFromMemory (l.foldl f s) = apartFromMemory s :=
  foldl_keeps (fun t => apartFromMemory t = apartFromMemory s) f (fun t x ht => (h t x).trans ht) l s rfl

@[simp] theorem apartFromMemory_drainReds (s : State) (line : Nat) :
    apartFromMemory (drainReds s line) = apartFromMemory s := by
  unfold drainReds
  split <;> rfl

@[simp] theorem apartFromMemory_writeError (s : State) (die : Nat) (source : BitVec 4) (addr : Nat) :
    apartFromMemory (writeError s die source addr).1 = apartFromMemory s := rfl

@[simp] theorem apartFromMemory_verifyLine (s : State) (line slot : Nat) :
    apartFromMemory (verifyLine s line slot) = apartFromMemory s := by
  unfold verifyLine
  split <;> rfl

@[simp] theorem apartFromMemory_writeLine (s : State) (core : Option Nat) (slot pa : Nat) (bs : List Byte) (tag : Option Bool) :
    apartFromMemory (writeLine s core slot pa bs tag) = apartFromMemory s := by
  have hlast : apartFromMemory (writeLine s core slot pa bs tag) = apartFromMemory
      (if (tierAt pa).getD 0 != 0 && bs.length != 64 then verifyLine (drainReds s (lineOf pa)) (lineOf pa) slot
        else drainReds s (lineOf pa)) := rfl
  rw [hlast]
  split <;> simp

@[simp] theorem apartFromMemory_writePhys (s : State) (core : Option Nat) (slot pa : Nat) (bs : List Byte) (tag : Option Bool) :
    apartFromMemory (writePhys s core slot pa bs tag) = apartFromMemory s := by
  rw [writePhys]
  refine apartFromMemory_foldl (fun s x => ?_) _ s
  exact apartFromMemory_writeLine ..

@[simp] theorem apartFromMemory_raiseVersion (s : State) (pa : Nat) (e : BitVec 128) :
    apartFromMemory (raiseVersion s pa e) = apartFromMemory s := by
  rw [raiseVersion, writeEntry, apartFromMemory_writePhys]

theorem apartFromMemory_raiseTable (die : Nat) (r : PageRange) (n : Nat) : ∀ (level table base : Nat) (s : State),
    apartFromMemory (raiseTable die r n level table base s) = apartFromMemory s := by
  induction n with
  | zero => exact fun _ _ _ _ => rfl
  | succ n ih =>
    intro level table base s
    refine apartFromMemory_foldl (fun s i => ?_) _ s
    dsimp only
    split
    · rfl
    · split
      · rfl
      · split
        · exact apartFromMemory_raiseVersion ..
        · exact ih ..

theorem apartFromMemory_raiseRange (s : State) (die : Nat) (r : PageRange) :
    apartFromMemory (raiseRange s die r) = apartFromMemory s := by
  unfold raiseRange
  dsimp only
  split
  · exact apartFromMemory_raiseTable ..
  · rfl

/-! ### What an instruction leaves that drops a range -/

/-- The end of an instruction that has not touched the strands. -/
theorem finish_strands {s t : State} (h : t.strands = s.strands) (c : Ctx) :
    (finish t c).strands = issuingStrand s c (nextWord c) := by
  rw [finish_eq, issuingStrand, ← h]
  rfl

/-- The drop comes after changes to memory alone. -/
theorem finish_dropRange {s u : State} (h : apartFromMemory u = apartFromMemory s) (r : PageRange) (c : Ctx) :
    let t := finish (dropRange u r) c
    noneCached t r ∧ t.threads = s.threads ∧ t.strands = issuingStrand s c (nextWord c) ∧
      t.mem.cells = u.mem.cells ∧ t.mem.tlb = (dropRange u r).mem.tlb := by
  have hmem := finish_mem (dropRange u r) c
  refine ⟨?_, (finish_threads _ c).trans (threads_of_apartFromMemory h),
    finish_strands (t := dropRange u r) (strands_of_apartFromMemory h) c,
    (congrArg MemState.cells hmem).trans rfl, congrArg MemState.tlb hmem⟩
  rw [noneCached, hmem]
  exact noneCached_dropRange u r

/-! ### The two instructions -/

/-- `tlb.inv` or `revoke`. -/
def rangeInstr (revoke : Bool) (d a b : BitVec 6) : Instr := bif revoke then .revoke d a b else .tlbInv d a b

/-- The state as the drop of the range finds it: `revoke` has raised the versions (R299). -/
def beforeDrop (revoke : Bool) (s : State) (c : Ctx) (r : PageRange) : State :=
  bif revoke then raiseRange s (dieOf c.st.core) r else s

theorem apartFromMemory_beforeDrop (revoke : Bool) (s : State) (c : Ctx) (r : PageRange) :
    apartFromMemory (beforeDrop revoke s c r) = apartFromMemory s := by
  cases revoke with
  | false => rfl
  | true => exact apartFromMemory_raiseRange ..

section Exec

variable {s : State} {c : Ctx} (h : alone s c)
include h

/-- R39, R43: in the solo lane, after its marker, a privileged instruction has its effect. -/
theorem soloInstr_alone (k : Ctx → State → State) : soloInstr s k = .next (k c s) := by
  obtain ⟨hc, hsolo, hmark⟩ := h
  rw [soloInstr, inCtx_next hc, if_pos hsolo, afterMarker_taken hmark]

variable (revoke : Bool) (d a b : BitVec 6)

/-- R297 to R299: the check, the wait and the drop of both instructions. -/
theorem exec_rangeInstr :
    let ctl := c.st.getS d.toNat
    let r := rangeNamed ctl (c.st.getS a.toNat) (c.st.getS b.toNat)
    exec (rangeInstr revoke d a b) s = .next ((rangeCause revoke ctl (c.st.getS a.toNat) (c.st.getS b.toNat)).elim
      (if rangeQuiet s r then finish (dropRange (beforeDrop revoke s c r) r) c else s) (allFiled s c)) := by
  have hfile : ∀ cause, fileAll s c cause = allFiled s c cause := fun _ => fileAllWith_taken h.2.2 s _
  have hexec : exec (rangeInstr revoke d a b) s = bif revoke then execRevoke d a b s else execTlbInv d a b s := by
    cases revoke <;> rfl
  rw [hexec, execRevoke, execTlbInv, soloInstr_alone h, soloInstr_alone h, invArgs_eq, invArgs_eq]
  cases hcause : rangeCause revoke (c.st.getS d.toNat) (c.st.getS a.toNat) (c.st.getS b.toNat) with
  | none => cases revoke <;> simp [hcause, beforeDrop]
  | some cause => cases revoke <;> simp [hcause, hfile]

variable {revoke d a b}

theorem exec_rangeInstr_refused {cause : BitVec 7}
    (hcause : rangeCause revoke (c.st.getS d.toNat) (c.st.getS a.toNat) (c.st.getS b.toNat) = some cause) :
    exec (rangeInstr revoke d a b) s = .next (allFiled s c cause) := by
  rw [exec_rangeInstr h, hcause]
  rfl

variable (hok : rangeCause revoke (c.st.getS d.toNat) (c.st.getS a.toNat) (c.st.getS b.toNat) = none)
include hok

theorem exec_rangeInstr_waits
    (hbusy : rangeQuiet s (rangeNamed (c.st.getS d.toNat) (c.st.getS a.toNat) (c.st.getS b.toNat)) = false) :
    exec (rangeInstr revoke d a b) s = .next s := by
  rw [exec_rangeInstr h, hok, hbusy]
  rfl

theorem exec_rangeInstr_drops {r : PageRange}
    (hr : rangeNamed (c.st.getS d.toNat) (c.st.getS a.toNat) (c.st.getS b.toNat) = r) (hquiet : rangeQuiet s r = true) :
    exec (rangeInstr revoke d a b) s = .next (finish (dropRange (beforeDrop revoke s c r) r) c) := by
  rw [exec_rangeInstr h, hok, hr, hquiet]
  rfl

end Exec

/-! ### One store to a table entry -/

theorem length_bytesOfNat (n x : Nat) : (bytesOfNat n x).length = n := by
  induction n generalizing x with
  | zero => rfl
  | succ n ih => rw [bytesOfNat, List.length_cons, ih]

/-- The bytes of a number give it back, as far as they reach. -/
theorem natOfBytes_bytesOfNat (n x : Nat) : natOfBytes (bytesOfNat n x) = x % 256 ^ n := by
  induction n generalizing x with
  | zero => rw [Nat.pow_zero, Nat.mod_one]; rfl
  | succ n ih => rw [bytesOfNat, natOfBytes, ih, BitVec.toNat_ofNat, Nat.pow_succ' (m := 256), Nat.mod_mul]

/-- Bytes read back as they were written. -/
theorem cellGets_cellPuts (bs : List Byte) (m : List Host.Cell) (a : Nat) (h : Memory.wf m = true) :
    cellGets (cellPuts m a bs) a bs.length = bs := by
  induction bs generalizing m a with
  | nil => rfl
  | cons b bs ih =>
    have hfirst : cellGet (cellPuts m a (b :: bs)) a = b := cellGet_cellPuts_inside (b :: bs) m a 0 (Nat.succ_pos _) h
    rw [List.length_cons, cellGets, hfirst, cellPuts, ih _ _ (wf_cellPut m a b h)]

/-- R277: a line without a pending reduction has nothing to drain. -/
theorem drainReds_of_none {s : State} {line : Nat} (h : ∀ x ∈ s.mem.redEntries, x.line ≠ line) : drainReds s line = s := by
  have hnone : (s.mem.redEntries.find? fun e => e.line == line) = none :=
    List.find?_eq_none.2 fun x hx => by simpa using h x hx
  rw [drainReds, hnone]

/-- Bytes within one line are one piece. -/
theorem splitLines_of_fits (n : Nat) {pa : Nat} {bs : List Byte} (hne : bs ≠ []) (h : pa % 64 + bs.length ≤ 64) :
    splitLines (n + 2) pa bs = [(pa, bs)] := by
  have hle : bs.length ≤ 64 - pa % 64 := by omega
  cases bs with
  | nil => exact absurd rfl hne
  | cons b bs => rw [splitLines.eq_3 _ _ _ hne, List.take_of_length_le hle, List.drop_of_length_le hle]; rfl

section Store

variable {s : State} {pa : Nat} (hred : ∀ x ∈ s.mem.redEntries, x.line ≠ pa / 64) (htier : tierAt pa = some 0)
include hred htier

/-- A write to a line of tier 0 puts its bytes, and leaves the port's reductions. -/
theorem writeLine_tier0 (core : Option Nat) (slot : Nat) (bs : List Byte) (tag : Option Bool) :
    (writeLine s core slot pa bs tag).mem.cells = cellPuts s.mem.cells pa bs ∧
      (writeLine s core slot pa bs tag).mem.redEntries = s.mem.redEntries := by
  have hdrain : drainReds s (lineOf pa) = s := drainReds_of_none hred
  have hfold := foldl_keeps (fun m : MemState => m.cells = cellPuts s.mem.cells pa bs ∧ m.redEntries = s.mem.redEntries)
    (fun m g => setTag m g (tag.getD false)) (fun m g hm => hm) (granulesOf pa bs.length)
  simp only [writeLine, hdrain, htier, Option.getD_some, bne_self_eq_false, Bool.false_and, Bool.false_eq_true, if_false]
  exact hfold _ ⟨rfl, rfl⟩

variable (halign : pa % 16 = 0)
include halign

theorem writeEntry_tier0 (e : BitVec 128) :
    (writeEntry s pa e).mem.cells = cellPuts s.mem.cells pa (bytesOfNat 16 e.toNat) ∧
      (writeEntry s pa e).mem.redEntries = s.mem.redEntries := by
  have hlen := length_bytesOfNat 16 e.toNat
  have hpiece : splitLines (16 / 64 + 2) pa (bytesOfNat 16 e.toNat) = [(pa, bytesOfNat 16 e.toNat)] :=
    splitLines_of_fits _ (List.ne_nil_of_length_pos (by omega)) (by omega)
  rw [writeEntry, writePhys, hlen, hpiece]
  exact writeLine_tier0 hred htier none 0 _ none

variable (hwf : Memory.wf s.mem.cells = true)
include hwf

theorem readEntry_writeEntry (e : BitVec 128) : readEntry (writeEntry s pa e) pa = e := by
  obtain ⟨hcells, hreds⟩ := writeEntry_tier0 hred htier halign e
  have hget := cellGets_cellPuts (bytesOfNat 16 e.toNat) s.mem.cells pa hwf
  rw [length_bytesOfNat] at hget
  rw [readEntry, drainReds_of_none (by rw [hreds]; exact hred), hcells, hget, natOfBytes_bytesOfNat,
    show 256 ^ 16 = 2 ^ 128 from rfl, Nat.mod_eq_of_lt e.isLt, BitVec.ofNat_toNat, BitVec.setWidth_eq]

theorem onlyBytes_writeEntry (e : BitVec 128) : onlyBytes s (writeEntry s pa e) pa 16 := by
  intro a ha
  rw [(writeEntry_tier0 hred htier halign e).1]
  exact cellGet_cellPuts_other _ _ _ _ hwf (by rwa [length_bytesOfNat])

end Store

/-! ### The version of an entry (R271, R299) -/

/-- A leaf with another version in bits [111:104]. -/
def withVersion (e : BitVec 128) (v : Nat) : BitVec 128 := (e &&& ~~~(0xFF#128 <<< 104)) ||| (BitVec.ofNat 128 v <<< 104)

theorem raiseVersion_eq (s : State) (pa : Nat) (e : BitVec 128) :
    raiseVersion s pa e = writeEntry s pa (withVersion e ((pteBits e 104 8 + 1) % 256)) := rfl

theorem getLsbD_withVersion (e : BitVec 128) {v : Nat} (hv : v < 2 ^ 8) {i : Nat} (hi : i < 128) :
    (withVersion e v).getLsbD i = if 104 ≤ i ∧ i < 112 then v.testBit (i - 104) else e.getLsbD i := by
  have hmask : (0xFF#128).getLsbD (i - 104) = decide (i - 104 < 8) := by
    rw [BitVec.getLsbD_ofNat, show 0xFF = 2 ^ 8 - 1 from rfl, Nat.testBit_two_pow_sub_one, ← Bool.decide_and, decide_eq_decide]
    omega
  rw [withVersion, BitVec.getLsbD_or, BitVec.getLsbD_and, BitVec.getLsbD_not, BitVec.getLsbD_shiftLeft,
    BitVec.getLsbD_shiftLeft, hmask, BitVec.getLsbD_ofNat]
  rcases Nat.lt_or_ge i 104 with hlow | hlow
  · simp [hlow, hi, Nat.not_le.2 hlow]
  · have hword : i - 104 < 128 := by omega
    rcases Nat.lt_or_ge i 112 with hin | hhigh
    · have hbyte : i - 104 < 8 := by omega
      simp [hlow, Nat.not_lt.2 hlow, hi, hin, hbyte, hword]
    · have hbyte : ¬i - 104 < 8 := by omega
      have hzero : v.testBit (i - 104) = false :=
        Nat.testBit_lt_two_pow (Nat.lt_of_lt_of_le hv (Nat.pow_le_pow_right (by decide) (Nat.not_lt.1 hbyte)))
      simp [hi, hzero, hbyte, Nat.not_lt.2 hhigh]

/-- Bits apart from the version stay. -/
theorem extractLsb'_withVersion (e : BitVec 128) {v : Nat} (hv : v < 2 ^ 8) {lo n : Nat} (hfit : lo + n ≤ 128)
    (h : lo + n ≤ 104 ∨ 112 ≤ lo) :
    (withVersion e v).extractLsb' lo n = e.extractLsb' lo n := by
  refine BitVec.eq_of_getLsbD_eq fun i hi => ?_
  rw [BitVec.getLsbD_extractLsb', BitVec.getLsbD_extractLsb', getLsbD_withVersion e hv (by omega), if_neg (by omega)]

theorem version_withVersion (e : BitVec 128) {v : Nat} (hv : v < 2 ^ 8) : ((withVersion e v).extractLsb' 104 8).toNat = v := by
  have hbits : (withVersion e v).extractLsb' 104 8 = BitVec.ofNat 8 v := by
    refine BitVec.eq_of_getLsbD_eq fun i hi => ?_
    rw [BitVec.getLsbD_extractLsb', getLsbD_withVersion e hv (by omega), if_pos (by omega), BitVec.getLsbD_ofNat,
      Nat.add_sub_cancel_left]
  rw [hbits, BitVec.toNat_ofNat, Nat.mod_eq_of_lt hv]

/-! ### The statement -/

/-- Settles O43: both instructions are `rangeInstr`, and a raise is one store. -/
theorem translationsAreDropped : Obligations.TranslationsAreDropped := by
  unfold Obligations.TranslationsAreDropped
  refine ⟨fun d a b s c h => ⟨?invRefused, ?revokeRefused, ?invWaits, ?revokeWaits, ?inv, ?revoke⟩, ?raise⟩
  case invRefused => exact fun cause => exec_rangeInstr_refused (revoke := false) h
  case revokeRefused => exact fun cause => exec_rangeInstr_refused (revoke := true) h
  case invWaits => exact exec_rangeInstr_waits (revoke := false) h
  case revokeWaits => exact exec_rangeInstr_waits (revoke := true) h
  case inv =>
    intro hok hquiet
    obtain ⟨hnone, hthreads, hstrands, hcells, htlb⟩ := finish_dropRange (apartFromMemory_beforeDrop false s c _) _ c
    refine ⟨_, exec_rangeInstr_drops (revoke := false) h hok rfl hquiet, hnone, hcells, hthreads, hstrands, fun x hx hd => ?_⟩
    rw [htlb] at hd
    exact meets_of_dropped hx hd
  case revoke =>
    intro hok hquiet
    obtain ⟨hnone, hthreads, hstrands, hcells, -⟩ := finish_dropRange (apartFromMemory_beforeDrop true s c _) _ c
    exact ⟨_, exec_rangeInstr_drops (revoke := true) h hok rfl hquiet, hnone, hthreads, hstrands, hcells⟩
  case raise =>
    intro s pa e halign hred htier hwf
    have hv : (pteBits e 104 8 + 1) % 256 < 2 ^ 8 := Nat.mod_lt _ (by decide)
    rw [raiseVersion_eq, readEntry_writeEntry hred htier halign hwf]
    exact ⟨version_withVersion e hv, extractLsb'_withVersion e hv (by decide) (.inl (by decide)),
      extractLsb'_withVersion e hv (by decide) (.inr (by decide)), onlyBytes_writeEntry hred htier halign hwf _⟩

end Sys2Proof.Translations
